-- ==== Sys2Proof/Word.lean ====
section
/-! DEFINITION. The word types of the model, the record of a lane word's fields, and small index types. Nothing here computes an instruction's effect. -/

namespace Sys2Proof

/-- One byte (spec/00 R3). -/
abbrev Byte := BitVec 8
/-- A 32-bit scalar or lane value (spec/03 R57). -/
abbrev Word := BitVec 32
/-- A 64-bit value, held in a register pair low word first (spec/00 R3). -/
abbrev DWord := BitVec 64
/-- One bit per lane, bit l is lane l (spec/07 R130). -/
abbrev Mask := BitVec 64
/-- A trap cause, 9 bits (spec/16 R317). -/
abbrev Cause := BitVec 9
/-- A scalar or vector register number. -/
abbrev Reg := BitVec 8
/-- One value per lane of a group. -/
abbrev Lanes (α : Type) := Vector α 64

/-- A place in the table of resident teams: as many as the device has group slots (spec/01 R10). -/
abbrev TeamIx := Fin 10240
/-- A group's index within its team (spec/01 R13: 1-16 groups). -/
abbrev GrpIx := Fin 16
/-- An entry of a group's split table (spec/07 R130). -/
abbrev SplitIx := Fin 4
/-- COREID (spec/01 R14). -/
abbrev CoreIx := Fin 160
/-- DIEID (spec/01 R14). -/
abbrev DieIx := Fin 4
/-- A context number (spec/18 R355: 0-255). -/
abbrev CtxIx := Fin 256
/-- A hardware queue number (spec/15 R291). -/
abbrev QueueIx := Fin 256
/-- A PCIe function: 0 is the PF, n in 1-16 is VF n (spec/18 R354). -/
abbrev Func := Fin 17

/-- The fields of a 96-bit lane word below its opcode (spec/02 R29). -/
structure LaneWord where
  guard : BitVec 4
  hold  : Bool
  nowb  : Bool
  dlat  : BitVec 2
  dst   : BitVec 8
  srcA  : BitVec 10
  srcB  : BitVec 10
  srcC  : BitVec 10
  type  : BitVec 4
  sub   : BitVec 4
  imm   : BitVec 32
  deriving DecidableEq, Repr

/-- The bits of one encoded instruction: a scalar word (spec/02 R21: 4 bytes) or a lane word (12 bytes). -/
inductive Code where
  | scalar (w : BitVec 32)
  | lane (w : BitVec 96)
  deriving DecidableEq, Repr

/-- Which cached copy an element's read or translation uses, where spec/12 R234 and spec/10 R212 leave it open: an operand of the
engine's step, so that every choice is some schedule's. -/
structure ElemChoice where
  /-- use a cached translation when one exists (spec/10 R212) -/
  useTlb : Bool
  /-- use L1 and far-copy bytes when they exist (spec/12 R234); false first evicts the touched sectors -/
  useCache : Bool
  /-- of a CPACK: how many words the step reads from the local side before its write, none for all that its unit needs (spec/11 R227) -/
  words : Nat := 0
  /-- of an atomic: its read alone, which counts where an atomic of another scope works on the element by the time of its write (spec/13 R254) -/
  apart : Bool := false
  /-- of a write: it does not wait for the core's contributions to its sector that no rule orders before it (spec/11 R223) -/
  late : Bool := false
  deriving DecidableEq, Repr

/-- Which entries on their way home execute together, where spec/11 R223 leaves it open: the first, those that may join it, and the order in which
their contributions are folded. -/
structure JoinChoice where
  i     : Nat
  more  : List Nat
  order : List Nat
  deriving DecidableEq, Repr

/-- Where a cached line that is evicted lies (spec/12 R234, spec/01 R16). -/
inductive CachePlace where
  | l1 (core : CoreIx)
  | far (die : DieIx)
  deriving DecidableEq, Repr

/-- A bit of the readiness map (spec/18 R369). -/
inductive ReadyBit where
  | hub
  | die (d : DieIx)
  | stack (k : Fin 8)
  | port (p : Fin 12)
  | cluster (c : Fin 40)
  deriving DecidableEq, Repr

/-- What an inbound peer request does at this device (spec/18 R359). -/
inductive PeerReq where
  | read (len : Nat)
  | write (bytes : List Byte)
  | reduce (op : Nat) (fmt : Nat) (value : BitVec 64)
  | atomic (op : Nat) (type : BitVec 4) (b c : BitVec 128)
  deriving DecidableEq, Repr

/-- A management-processor access (spec/18 R363, R364): a read or a write of device memory, or a write of host memory. -/
inductive MpAccess where
  | readDevice (addr len : Nat)
  | writeDevice (addr : Nat) (bytes : List Byte)
  | writeHost (addr : Nat) (bytes : List Byte)
  deriving DecidableEq, Repr

/-- A firmware image slot as the boot ROM sees it (spec/18 R360). -/
structure Image where
  bytes     : List Byte
  signature : List Byte
  version   : Nat
  deriving DecidableEq, Repr

end Sys2Proof
end

