-- ==== Sys2Proof/Config.lean ====
section
/-! DEFINITION. What the spec leaves open and the model leaves free: constants without a body, so that no proof can learn a value of one. -/

namespace Sys2Proof.Config

/-- Which of the values within the bound of spec/06 R123 the A8 returns, as a number among them; one fixed choice for each word, type and input.
Rests on notes/assumptions 12 (UNVERIFIED). -/
opaque approxPick : (word : Nat) → (type : Nat) → (input : Nat) → Nat

/-- The L1 way that receives a line or a combining entry (spec/08 R150 names the ways and leaves the choice open); the arguments are the step count and
the sector.
Rests on notes/assumptions 9 (DEDUCED). -/
opaque lineWay : (tick : Nat) → (sector : Nat) → Nat

/-- Which line a full cache gives up for a new one, by the step count (spec/01 R16 gives the geometry and no rule of choice).
Rests on notes/assumptions 9 (DEDUCED). -/
opaque victim : (tick : Nat) → Nat

/-- The slice and set of a die's L2 that a 256-byte line falls in, as a number taken modulo their product (spec/01 R16).
Rests on notes/assumptions 9 (DEDUCED). -/
opaque l2Set : (line : Nat) → Nat

/-- The cause of the record that a poisoned page or a poisoned atomic read puts on the hardware-error lane (spec/10 R211 and spec/13 R264 ask for the
record and name no cause), as a number among the causes of that lane.
Rests on notes/assumptions 30 (UNVERIFIED). -/
opaque poisonPageCause : (tick : Nat) → Nat

/-- What a hash table's engine read of its ring header gives where the address does not translate and no retry can help (spec/09 R172 and R183 name
the read and give no outcome).
Rests on notes/assumptions 31 (UNVERIFIED). -/
opaque failedHeaderRead : (address : Nat) → BitVec 64

/-- Whether a hash table's engine read of its ring header uses a cached translation (0), uses a held copy (1) and keeps the line that it reads (2), by
the step count (spec/12 R234 allows each).
Rests on notes/assumptions 31 (UNVERIFIED). -/
opaque headerChoice : (tick which : Nat) → Bool

/-- How many turns an HCLAIM's initialisation takes beyond its last one (spec/09 R172), by the step count.
Rests on notes/assumptions 108 (DESIGN CHOICE). -/
opaque claimTurns : (tick : Nat) → Nat

/-- Whether a turn of an HCLAIM's initialisation writes a word of the region (spec/09 R172, R188), by the step count.
Rests on notes/assumptions 108 (DESIGN CHOICE). -/
opaque claimWord : (tick word : Nat) → Bool

/-- Which of the values that a word of the scratchpad held before stores that need not be seen yet a load reads, oldest first; the word's own value where
there is no such one (spec/08 R154, spec/03 R63).
Rests on notes/assumptions 110 (DEDUCED). -/
opaque pastPick : (tick word : Nat) → Nat

/-- Whether a HCLAIM whose region overlaps a pool entry in use raises 0x147 (spec/09 R172) or 0x14E (spec/07 R134): the two rules differ.
Rests on notes/assumptions 109 (UNVERIFIED). -/
opaque claimOverPool : Bool

/-- A byte of a graph node's argument block where its address does not translate and no retry can help (spec/15 R294 reads the block at acceptance and
gives no outcome).
Rests on notes/assumptions 50 (UNVERIFIED). -/
opaque unreadArgument : (address : Nat) → BitVec 8

/-- The LAUNCHID that a launch is given at its parse (spec/03 R65), by the number of launches accepted before; the spec does not say which.
Rests on notes/assumptions 56 (UNVERIFIED). -/
opaque launchName : (count : Nat) → BitVec 32

/-- The reply tag of a replayable record (spec/16 R319, R321), by its context and the number of tags given there before; the spec does not say which.
Rests on notes/assumptions 88 (UNVERIFIED). -/
opaque replyTag : (context count : Nat) → BitVec 32

/-- Whether a peer refuses an access to one of its addresses: its inbound grant table is its own (spec/18 R359).
Rests on notes/assumptions 103 (UNVERIFIED). -/
opaque peerRefuses : (tick address : Nat) → Bool

/-- Where among the bytes that follow s0-s255 a group's divergence record lies in its section of a saved team's image (spec/16 R332 lists what lies there
and gives no offset).
Rests on notes/assumptions 67 (UNVERIFIED). -/
opaque divergenceAt : Nat

/-- A byte that a host read returns from a register that the spec only writes, a doorbell or a part of the security mailbox without a layout
(spec/18 R354, R355), by the step count and the offset.
Rests on notes/assumptions 73 (DESIGN CHOICE). -/
opaque windowByte : (tick offset : Nat) → BitVec 8

/-- A byte of a section of a saved team's image whose place spec/16 R332 does not give: what the section's contents make of it, by its offset.
Rests on notes/assumptions 67 (UNVERIFIED). -/
opaque imageByte : (contents : List Nat) → (offset : Nat) → BitVec 8

/-- What a restore takes for one of the contents of a section whose bytes are not those that the save wrote (spec/16 R332, R334): the bytes read, and which
of the contents.
Rests on notes/assumptions 67 (UNVERIFIED). -/
opaque imageWord : (bytes : List (BitVec 8)) → (which : Nat) → Nat

/-- Whether an image's XMSS-SHAKE256_20_256 signature verifies with the firmware key whose digest the fuses hold (spec/18 R360).
Rests on notes/assumptions 78 (UNVERIFIED). -/
opaque imageVerifies : (bytes signature : List Byte) → Bool

/-- The alias key's signature of a quote: the seed of this boot, the number of quotes that the key has signed before, and the items signed
(spec/18 R361, R362).
Rests on notes/assumptions 78 (UNVERIFIED). -/
opaque quoteSignature : (seed : List Byte) → (index : Nat) → (message : List Byte) → List Byte

/-- What a measurement register 0-3 holds once the boot ROM and the firmware have extended it: the image and the register (spec/18 R362 names neither
their components nor how many there are).
Rests on notes/assumptions 78 (UNVERIFIED). -/
opaque bootMeasure : (image : List Byte) → (register : Nat) → BitVec 256

/-- The alias public key of a boot, by its seed (spec/18 R361).
Rests on notes/assumptions 78 (UNVERIFIED). -/
opaque aliasPublic : (seed : List Byte) → List Byte

/-- The identity key's signature that certifies a boot's alias key: under a one-time index, of the alias public key, the measurement registers and the boot
count (spec/18 R361).
Rests on notes/assumptions 78 (UNVERIFIED). -/
opaque identitySignature : (index : Nat) → (aliasKey : List Byte) → (measurements : List (BitVec 256)) → (bootCount : Nat) → List Byte

/-- By how many millionths, less one, the servo changes REFT's rate, taken modulo 499 (spec/15 R309 bounds it by 500 ppm), by the step count.
Rests on notes/assumptions 79 (DEDUCED). -/
opaque slewRate : (tick : Nat) → Nat

/-- A byte of a line whose home die was lost, once another die homes its address (spec/18 R368).
Rests on notes/assumptions 81 (DEDUCED). -/
opaque lostByte : (tick address : Nat) → BitVec 8

/-- The anti-rollback value held in the fuses (spec/18 R360).
Rests on notes/assumptions 78 (UNVERIFIED). -/
opaque fuseRollback : Nat

/-- The nonzero code BOOTERR reads when both images fail (spec/18 R360), less one.
Rests on notes/assumptions 78 (UNVERIFIED). -/
opaque bootErrCode : Nat

end Sys2Proof.Config
end

