-- ==== Sys2Proof/Machine/Bits.lean ====
section
/-! DEFINITION. Bit fields, byte order, and counting over masks: the arithmetic that more than one class of instructions uses. -/

namespace Sys2Proof.Machine

/-- The bits [lo+len-1:lo] of a value, as a number. -/
def bitsOf {n : Nat} (v : BitVec n) (lo len : Nat) : Nat := (v.toNat >>> lo) % 2 ^ len

/-- The bytes of a number, lowest address first (spec/00 R3). -/
def toBytes : (count : Nat) → Nat → List Byte
  | 0, _ => []
  | k + 1, v => BitVec.ofNat 8 v :: toBytes k (v / 256)

/-- The number that bytes hold, the lowest address giving bits [7:0] (spec/00 R3). -/
def ofBytes : List Byte → Nat
  | [] => 0
  | b :: r => b.toNat + 256 * ofBytes r

/-- Leading zero bits of a 32-bit value, 0-32 (spec/03 R57). -/
def clz32 (v : Word) : Nat := if v = 0 then 32 else 31 - Nat.log2 v.toNat

/-- One bits among the n low bits of a number. -/
def popCount : (n : Nat) → Nat → Nat
  | 0, _ => 0
  | k + 1, v => v % 2 + popCount k (v / 2)

/-- The n low bits of a number in reverse order. -/
def revBits : (n : Nat) → Nat → Nat
  | 0, _ => 0
  | k + 1, v => (v % 2) * 2 ^ k + revBits k (v / 2)

/-- The lanes 0-63 that a mask holds, ascending. -/
def maskLanes (m : Mask) : List (Fin 64) := (List.finRange 64).filter fun l => m.getLsbD l.val

/-- The mask whose bit l is f l. -/
def maskOf (f : Fin 64 → Bool) : Mask :=
  BitVec.ofNat 64 ((List.finRange 64).foldl (fun n l => if f l then n + 2 ^ l.val else n) 0)

/-- The lowest lane of a mask, or 0 for an empty one. -/
def lowLane (m : Mask) : Fin 64 := (maskLanes m).headD 0

/-- A signed field of n bits. -/
def signed (n : Nat) (v : Nat) : Int := if v % 2 ^ n < 2 ^ (n - 1) then (v % 2 ^ n : Nat) else ((v % 2 ^ n : Nat) : Int) - 2 ^ n

/-- A number of any size, taken modulo 2^n. -/
def wrap (n : Nat) (v : Int) : Nat := (v % 2 ^ n).toNat

/-- Replaces the entry at an index, where there is one. -/
def setNth {α : Type} (l : List α) (i : Nat) (v : α) : List α := l.set i v

/-- A function applied to every entry of a table. -/
def mapAll {α β : Type} {n : Nat} (f : α → β) (v : Vector α n) : Vector β n := Vector.ofFn fun i => f v[i]

/-- True when the byte runs [a, a+n) and [b, b+m) share a byte. -/
def overlaps (a n b m : Nat) : Bool := decide (0 < n ∧ 0 < m ∧ a < b + m ∧ b < a + n)

/-- The circular comparison of spec/10 R205: n lies at or after m within half of 2^w. -/
def seqLe (w : Nat) (m n : Nat) : Bool := decide ((n + 2 ^ w - m % 2 ^ w) % 2 ^ w < 2 ^ (w - 1))

end Sys2Proof.Machine
end

