-- ==== Sys2Proof/Machine/Flags.lean ====
section
/-! DEFINITION. Number formats, rounding and the floating-point flags (spec/05 R94-R106, spec/06 R115-R126): exact values, their rounding to a format
with the flags it raises, and the arithmetic that lanes, the engine and the matrix array share. -/

namespace Sys2Proof.Machine

/-! ## Flags (spec/03 R66) -/

def flagNV : BitVec 5 := 16
def flagDZ : BitVec 5 := 8
def flagOF : BitVec 5 := 4
def flagUF : BitVec 5 := 2
def flagNX : BitVec 5 := 1

/-! ## Exact values -/

/-- An exact value: a NaN, an infinity, or (-1)^neg x m x 2^e (spec/05, before R96). -/
inductive Num where
  | nan (signalling : Bool)
  | inf (neg : Bool)
  | fin (neg : Bool) (m : Nat) (e : Int)
  deriving DecidableEq, Repr

/-- A floating-point format: exponent bits, bias, mantissa bits, the code of its largest finite value, whether it has infinities, its canonical NaN
(spec/05 R96). -/
structure FloatFmt where
  ebits  : Nat
  bias   : Nat
  mbits  : Nat
  maxFin : Nat
  hasInf : Bool
  nan    : Nat
  deriving DecidableEq, Repr

def fp64 : FloatFmt := { ebits := 11, bias := 1023, mbits := 52, maxFin := 0x7FEFFFFFFFFFFFFF, hasInf := true, nan := 0x7FF8000000000000 }
def fp32 : FloatFmt := { ebits := 8, bias := 127, mbits := 23, maxFin := 0x7F7FFFFF, hasInf := true, nan := 0x7FC00000 }
def fp16 : FloatFmt := { ebits := 5, bias := 15, mbits := 10, maxFin := 0x7BFF, hasInf := true, nan := 0x7E00 }
def bf16 : FloatFmt := { ebits := 8, bias := 127, mbits := 7, maxFin := 0x7F7F, hasInf := true, nan := 0x7FC0 }
def e5m2 : FloatFmt := { ebits := 5, bias := 15, mbits := 2, maxFin := 0x7B, hasInf := true, nan := 0x7E }
def e4m3 : FloatFmt := { ebits := 4, bias := 7, mbits := 3, maxFin := 0x7E, hasInf := false, nan := 0x7F }
def e2m1 : FloatFmt := { ebits := 2, bias := 1, mbits := 1, maxFin := 7, hasInf := false, nan := 7 }

/-- The floating-point format of an extended code (spec/05 R96). -/
def floatFmt (code : Nat) : Option FloatFmt :=
  match code with
  | 0x08 => some fp32
  | 0x09 => some fp64
  | 0x0A => some fp16
  | 0x0B => some bf16
  | 0x0C => some e5m2
  | 0x0D => some e4m3
  | 0x0E => some e2m1
  | _ => none

/-- The width in bits of an extended format code (spec/02 R34). -/
def fmtBits (code : Nat) : Nat :=
  match code with
  | 0 => 32 | 1 => 32 | 2 => 64 | 3 => 64 | 4 => 16 | 5 => 16 | 6 => 8 | 7 => 8
  | 8 => 32 | 9 => 64 | 10 => 16 | 11 => 16 | 12 => 8 | 13 => 8 | 14 => 4 | 15 => 4 | 16 => 4 | 17 => 8
  | _ => 8

/-- A signed integer format (spec/05 R100). -/
def fmtSigned (code : Nat) : Bool := code == 1 || code == 3 || code == 5 || code == 7 || code == 16

/-- The sign bit's place above the exponent and mantissa. -/
def FloatFmt.signBit (f : FloatFmt) : Nat := f.ebits + f.mbits

/-- The value of a code (spec/05 R96, R97). The narrow formats' NaNs are all quiet. -/
def FloatFmt.decode (f : FloatFmt) (code : Nat) : Num :=
  let neg := (code >>> f.signBit) % 2 == 1
  let mag := code % 2 ^ f.signBit
  let e := mag / 2 ^ f.mbits
  let m := mag % 2 ^ f.mbits
  if f.maxFin < mag then
    if f.hasInf ∧ m = 0 then .inf neg else .nan (decide (7 ≤ f.mbits) && decide (m < 2 ^ (f.mbits - 1)))
  else if e = 0 then .fin neg m (1 - (f.bias : Int) - f.mbits)
  else .fin neg (m + 2 ^ f.mbits) ((e : Int) - f.bias - f.mbits)

/-- The value of an integer. -/
def numOfInt (v : Int) : Num := .fin (decide (v < 0)) v.natAbs 0

/-- The value of a code in any extended format (spec/05 R96, R98, R100). -/
def fmtDecode (code v : Nat) : Num :=
  match floatFmt code with
  | some f => f.decode (v % 2 ^ fmtBits code)
  | none =>
    if code = 17 then (if v % 256 = 255 then .nan false else .fin false 1 ((v % 256 : Nat) - 127))
    else if fmtSigned code then numOfInt (signed (fmtBits code) v) else .fin false (v % 2 ^ fmtBits code) 0

/-! ## Rounding -/

/-- The rounding modes (spec/02 R34, spec/05 R101). -/
inductive RMode where
  | rne | rtz | rdn | rup | rna
  deriving DecidableEq, Repr

def rmodeOf (n : Nat) : RMode :=
  match n with
  | 1 => .rtz
  | 2 => .rdn
  | 3 => .rup
  | 4 => .rna
  | _ => .rne

/-- The rounding mode of SUB[34:32]. -/
def subMode (sub : BitVec 4) : RMode := rmodeOf (sub.extractLsb' 0 3).toNat

/-- Whether a magnitude n + rem / d (0 ≤ rem < d) rounds up (spec/05 R101). -/
def roundUp (mode : RMode) (neg : Bool) (n rem d : Nat) : Bool :=
  match mode with
  | .rne => decide (d < 2 * rem) || (decide (2 * rem = d) && n % 2 == 1)
  | .rtz => false
  | .rdn => neg && decide (rem ≠ 0)
  | .rup => !neg && decide (rem ≠ 0)
  | .rna => decide (d ≤ 2 * rem) && decide (rem ≠ 0)

/-- The magnitude m x 2^e rounded to a multiple of 2^q, as that multiple, and whether it changed. -/
def roundAt (mode : RMode) (neg : Bool) (m : Nat) (e q : Int) : Nat × Bool :=
  if q ≤ e then (m * 2 ^ (e - q).toNat, false)
  else
    let d := 2 ^ (q - e).toNat
    let n := m / d
    let r := m % d
    (if roundUp mode neg n r d then n + 1 else n, decide (r ≠ 0))

/-- The code that a sign and a magnitude code give. -/
def FloatFmt.withSign (f : FloatFmt) (neg : Bool) (mag : Nat) : Nat := if neg then mag + 2 ^ f.signBit else mag

/-- What an overflow gives (spec/05 R102). -/
def FloatFmt.overflow (f : FloatFmt) (mode : RMode) (sat neg : Bool) : Nat :=
  let toMax := sat || (match mode with | .rtz => true | .rdn => !neg | .rup => neg | _ => false)
  if toMax then f.withSign neg f.maxFin else if f.hasInf then f.withSign neg (f.maxFin + 1) else f.nan

/-- `Round(x, f, mode)` of a finite value with overflow and the flags OF, UF and NX (spec/05 R101-R103).
Rests on notes/assumptions 11 (DEDUCED). -/
def FloatFmt.round (f : FloatFmt) (mode : RMode) (sat neg : Bool) (m : Nat) (e : Int) : Nat × BitVec 5 :=
  if m = 0 then (f.withSign neg 0, 0)
  else
    let top : Int := e + Nat.log2 m
    let emin : Int := 1 - (f.bias : Int)
    let q : Int := (if top < emin then emin else top) - f.mbits
    let (n, inexact) := roundAt mode neg m e q
    let field := (q + f.mbits + f.bias - 1).toNat
    let mag := field * 2 ^ f.mbits + n
    if f.maxFin < mag then (f.overflow mode sat neg, flagOF ||| flagNX)
    else
      let free := (roundAt mode neg m e (top - f.mbits)).1
      let tiny := decide (top < emin) && !(decide (top + 1 = emin) && decide (free = 2 ^ (f.mbits + 1)))
      (f.withSign neg mag, if inexact then (if tiny then flagUF ||| flagNX else flagNX) else 0)

/-- An arithmetic result in a format: canonical NaN, infinity, or the rounded value. -/
def FloatFmt.ofNum (f : FloatFmt) (mode : RMode) (sat : Bool) (x : Num) : Nat × BitVec 5 :=
  match x with
  | .nan s => (f.nan, if s then flagNV else 0)
  | .inf neg => if f.hasInf then (f.withSign neg (f.maxFin + 1), 0) else (if sat then f.withSign neg f.maxFin else f.nan, flagNV)
  | .fin neg m e => f.round mode sat neg m e

/-- `Round(x, integer, mode)` of a finite value, and whether it changed. -/
def roundInt (mode : RMode) (neg : Bool) (m : Nat) (e : Int) : Int × Bool :=
  let (n, inexact) := roundAt mode neg m e 0
  (if neg then -(n : Int) else n, inexact)

/-- The least and greatest value of an integer format (spec/04 R75, spec/05 R100). -/
def intMin (code : Nat) : Int := if fmtSigned code then -(2 ^ (fmtBits code - 1) : Int) else 0
def intMax (code : Nat) : Int := if fmtSigned code then 2 ^ (fmtBits code - 1) - 1 else 2 ^ fmtBits code - 1

/-- Sat of spec/04 R75. -/
def satInt (code : Nat) (x : Int) : Int := if x < intMin code then intMin code else if intMax code < x then intMax code else x

/-- An integer format's bits for a value in range or wrapped. -/
def intBits (code : Nat) (x : Int) : Nat := wrap (fmtBits code) x

/-- A floating-point or E8M0 value to an integer format (spec/05 R106). -/
def toIntFmt (code : Nat) (mode : RMode) (sat : Bool) (x : Num) : Nat × BitVec 5 :=
  let bad : Int := if fmtSigned code then intMin code else intMax code
  match x with
  | .nan _ => (intBits code (if sat then 0 else bad), flagNV)
  | .inf neg => (intBits code (if sat then (if neg then intMin code else intMax code) else bad), flagNV)
  | .fin neg m e =>
    let (n, inexact) := roundInt mode neg m e
    if intMax code < n then (intBits code (if sat then intMax code else bad), flagNV)
    else if n < intMin code then (intBits code (if sat then intMin code else bad), flagNV)
    else (intBits code n, if inexact then flagNX else 0)

/-- `Convert` between extended formats, with its flags (spec/05 R106).
Rests on notes/assumptions 11 (DEDUCED). -/
def convert (fs fd : Nat) (mode : RMode) (sat : Bool) (v : Nat) : Nat × BitVec 5 :=
  let x := fmtDecode fs v
  match floatFmt fd with
  | some f => f.ofNum mode sat x
  | none =>
    if fs ≤ 7 ∨ fs = 15 ∨ fs = 16 then
      match x with
      | .fin neg m _ =>
        let n : Int := if neg then -(m : Int) else m
        (intBits fd (if sat then satInt fd n else n), 0)
      | _ => (0, 0)
    else toIntFmt fd mode sat x

/-- A value of a format as a register holds it (spec/05 R94): zero-extended, or sign-extended for a signed integer of at most 32 bits. -/
def fmtExtend (code v : Nat) : Nat := if fmtSigned code ∧ fmtBits code < 32 then wrap 32 (signed (fmtBits code) v) else v

/-! ## Arithmetic -/

def Num.neg : Num → Num
  | .nan s => .nan s
  | .inf n => .inf !n
  | .fin n m e => .fin (!n) m e

def Num.isSnan : Num → Bool
  | .nan s => s
  | _ => false

def Num.isNan : Num → Bool
  | .nan _ => true
  | _ => false

/-- The exact sum of two finite values, with the sign of an exact zero as spec/06 R116 gives it. -/
def addFin (mode : RMode) (n1 : Bool) (m1 : Nat) (e1 : Int) (n2 : Bool) (m2 : Nat) (e2 : Int) : Num :=
  let e := if e1 ≤ e2 then e1 else e2
  let a : Int := (m1 * 2 ^ (e1 - e).toNat : Nat)
  let b : Int := (m2 * 2 ^ (e2 - e).toNat : Nat)
  let x := (if n1 then -a else a) + (if n2 then -b else b)
  if x = 0 then .fin (if n1 = n2 then n1 else decide (mode = .rdn)) 0 e else .fin (decide (x < 0)) x.natAbs e

/-- The sum, with the flags raised before rounding (spec/06 R116). -/
def numAdd (mode : RMode) (x y : Num) : Num × BitVec 5 :=
  let nv : BitVec 5 := if x.isSnan || y.isSnan then flagNV else 0
  match x, y with
  | .nan _, _ => (.nan false, nv)
  | _, .nan _ => (.nan false, nv)
  | .inf a, .inf b => if a = b then (.inf a, 0) else (.nan false, flagNV)
  | .inf a, _ => (.inf a, 0)
  | _, .inf b => (.inf b, 0)
  | .fin n1 m1 e1, .fin n2 m2 e2 => (addFin mode n1 m1 e1 n2 m2 e2, 0)

/-- The exact product (spec/06 R116). -/
def numMul (x y : Num) : Num × BitVec 5 :=
  let nv : BitVec 5 := if x.isSnan || y.isSnan then flagNV else 0
  match x, y with
  | .nan _, _ => (.nan false, nv)
  | _, .nan _ => (.nan false, nv)
  | .inf a, .inf b => (.inf (a != b), 0)
  | .inf a, .fin b m _ => if m = 0 then (.nan false, flagNV) else (.inf (a != b), 0)
  | .fin a m _, .inf b => if m = 0 then (.nan false, flagNV) else (.inf (a != b), 0)
  | .fin a m e, .fin b n g => (.fin (a != b) (m * n) (e + g), 0)

/-- a x b + c with the product not rounded; 0 x infinity raises NV even beside a quiet NaN c (spec/06 R116). -/
def numFma (mode : RMode) (x y z : Num) : Num × BitVec 5 :=
  let (p, f1) := numMul x y
  let (r, f2) := numAdd mode p z
  (r, f1 ||| f2)

/-- Rounds a result and joins the flags. -/
def FloatFmt.finish (f : FloatFmt) (mode : RMode) (x : Num × BitVec 5) : Nat × BitVec 5 :=
  let (v, fl) := f.ofNum mode false x.1
  (v, fl ||| x.2)

def FloatFmt.add (f : FloatFmt) (mode : RMode) (a b : Nat) : Nat × BitVec 5 := f.finish mode (numAdd mode (f.decode a) (f.decode b))

def FloatFmt.sub (f : FloatFmt) (mode : RMode) (a b : Nat) : Nat × BitVec 5 := f.finish mode (numAdd mode (f.decode a) (f.decode b).neg)

def FloatFmt.mul (f : FloatFmt) (mode : RMode) (a b : Nat) : Nat × BitVec 5 := f.finish mode (numMul (f.decode a) (f.decode b))

def FloatFmt.fma (f : FloatFmt) (mode : RMode) (a b c : Nat) : Nat × BitVec 5 :=
  f.finish mode (numFma mode (f.decode a) (f.decode b) (f.decode c))

/-! ## Comparison -/

/-- x < y for values that are not NaN, with -0 equal to +0. -/
def numLt (x y : Num) : Bool :=
  match x, y with
  | .inf a, .inf b => a && !b
  | .inf a, _ => a
  | _, .inf b => !b
  | .fin n1 m1 e1, .fin n2 m2 e2 =>
    let e := if e1 ≤ e2 then e1 else e2
    let a : Int := (m1 * 2 ^ (e1 - e).toNat : Nat)
    let b : Int := (m2 * 2 ^ (e2 - e).toNat : Nat)
    decide ((if n1 then -a else a) < (if n2 then -b else b))
  | _, _ => false

/-- The sign of a value that is no NaN. -/
def numNeg : Num → Bool
  | .nan _ => false
  | .inf n => n
  | .fin n _ _ => n

/-- FMIN and FMAX on codes (spec/06 R117): `num` selects the .n forms. -/
def FloatFmt.minmax (f : FloatFmt) (max num : Bool) (a b : Nat) : Nat × BitVec 5 :=
  let x := f.decode a
  let y := f.decode b
  let nv : BitVec 5 := if x.isSnan || y.isSnan then flagNV else 0
  if x.isNan || y.isNan then
    if num && !(x.isNan && y.isNan) then (if x.isNan then b else a, nv) else (f.nan, nv)
  else
    let less := numLt x y || (!numLt y x && numNeg x && !numNeg y)
    (if less != max then a else b, nv)

/-- FCMP's conditions (spec/06 R118). -/
def FloatFmt.compare (f : FloatFmt) (cond : Nat) (quietNv : Bool) (a b : Nat) : Bool × BitVec 5 :=
  let x := f.decode a
  let y := f.decode b
  let uno := x.isNan || y.isNan
  let lt := !uno && numLt x y
  let gt := !uno && numLt y x
  let eq := !uno && !lt && !gt
  let r := match cond with
    | 0 => eq
    | 1 => !eq
    | 2 => lt
    | 3 => lt || eq
    | 4 => gt
    | 5 => gt || eq
    | 6 => uno
    | _ => !uno
  (r, if x.isSnan || y.isSnan || (quietNv && uno) then flagNV else 0)

/-- FCLASS (spec/06 R119). -/
def FloatFmt.classOf (f : FloatFmt) (a : Nat) : Nat :=
  match f.decode a with
  | .nan s => if s then 256 else 512
  | .inf n => if n then 1 else 128
  | .fin n m _ =>
    if m = 0 then (if n then 8 else 16)
    else if m < 2 ^ f.mbits then (if n then 4 else 32)
    else (if n then 2 else 64)

/-! ## Integral parts and exponents -/

/-- FRND (spec/06 R120): never NX, and the sign of a is kept. -/
def FloatFmt.rnd (f : FloatFmt) (mode : RMode) (a : Nat) : Nat × BitVec 5 :=
  match f.decode a with
  | .fin n m e => ((f.round .rne false n (roundAt mode n m e 0).1 0).1, 0)
  | x => f.ofNum mode false x

/-- FFRC (spec/06 R120). -/
def FloatFmt.frc (f : FloatFmt) (a : Nat) : Nat × BitVec 5 :=
  match f.decode a with
  | .nan s => (f.nan, if s then flagNV else 0)
  | .inf _ => (f.nan, flagNV)
  | .fin n m e =>
    let (k, _) := roundInt .rdn n m e
    match addFin .rne n m e (decide (0 < k)) k.natAbs 0 with
    | .fin s m' e' => if m' = 0 then (0, 0) else f.round .rdn false s m' e'
    | _ => (f.nan, flagNV)

/-- A scale beyond which a x 2^n overflows or underflows whatever n is. -/
def clampScale (n : Int) : Int := if n < -8192 then -8192 else if 8192 < n then 8192 else n

/-- a x 2^n, rounded once (spec/06 R121). -/
def FloatFmt.scale (f : FloatFmt) (mode : RMode) (a : Nat) (n : Int) : Nat × BitVec 5 :=
  match f.decode a with
  | .fin s m e => f.round mode false s m (e + clampScale n)
  | x => f.ofNum mode false x

/-- FINSX with a floating-point b (spec/06 R121). -/
def FloatFmt.insx (f : FloatFmt) (mode : RMode) (a b : Nat) : Nat × BitVec 5 :=
  let x := f.decode a
  let y := f.decode b
  let nv : BitVec 5 := if x.isSnan || y.isSnan then flagNV else 0
  match y with
  | .nan _ => (f.nan, nv)
  | .fin s m e =>
    if (roundAt .rtz s m e 0).2 then (f.nan, flagNV)
    else
      match x with
      | .nan _ => (f.nan, nv)
      | _ => f.scale mode a (roundInt .rtz s m e).1
  | .inf up =>
    match x with
    | .nan _ => (f.nan, nv)
    | .inf s => if up then (f.nan, flagNV) else (f.withSign s (f.maxFin + 1), 0)
    | .fin s m _ =>
      if up then (f.withSign s 0, 0)
      else if m = 0 then (f.nan, flagNV)
      else (f.withSign s (f.maxFin + 1), 0)

/-- FEXPX (spec/06 R122). -/
def FloatFmt.expx (f : FloatFmt) (a : Nat) : Nat × BitVec 5 :=
  match f.decode a with
  | .nan _ => (0x80000000, flagNV)
  | .inf _ => (0x7FFFFFFF, flagNV)
  | .fin _ m e => if m = 0 then (0x80000000, flagNV) else (wrap 32 (e + Nat.log2 m), 0)

/-! ## Square roots -/

/-- The integer square root, bit by bit from bit k - 1 down. -/
def isqrtFrom (n : Nat) : Nat → Nat → Nat
  | 0, r => r
  | k + 1, r => isqrtFrom n k (if (r + 2 ^ k) * (r + 2 ^ k) ≤ n then r + 2 ^ k else r)

def isqrt (n : Nat) : Nat := isqrtFrom n (Nat.log2 n / 2 + 1) 0

/-- FSQRT, correctly rounded (spec/06 R123, R124): the root is taken to more bits than any format holds, with a sticky bit below. -/
def FloatFmt.sqrt (f : FloatFmt) (mode : RMode) (a : Nat) : Nat × BitVec 5 :=
  match f.decode a with
  | .nan s => (f.nan, if s then flagNV else 0)
  | .inf n => if n then (f.nan, flagNV) else (a, 0)
  | .fin n m e =>
    if m = 0 then (a, 0)
    else if n then (f.nan, flagNV)
    else
      let odd := e % 2 = 1
      let m1 := (if odd then 2 * m else m) * 2 ^ 128
      let e1 := (if odd then e - 1 else e) - 128
      let r := isqrt m1
      f.round mode false false (2 * r + (if r * r = m1 then 0 else 1)) (e1 / 2 - 1)

/-! ## Approximate words (spec/06 R123, R124) -/

/-- The bounds that an exact result y = |y| is known by, as numerators over 2^prec. -/
structure Enclosure where
  lo   : Nat
  hi   : Nat
  prec : Nat

/-- Whether the magnitude code r lies within k ulp of every result that y encloses, with ulp = 2^u: (r - k ulp) ≤ lo and hi ≤ (r + k ulp). -/
def FloatFmt.within (f : FloatFmt) (k : Nat) (u : Int) (y : Enclosure) (code : Nat) : Bool :=
  match f.decode code with
  | .fin false m e =>
    let g : Int := if e ≤ u then e else u
    let r : Int := (m * 2 ^ (e - g).toNat : Nat)
    let d : Int := (k * 2 ^ (u - g).toNat : Nat)
    let sh : Int := g + y.prec
    let cmpLo : Bool := if 0 ≤ sh then decide ((r - d) * 2 ^ sh.toNat ≤ y.lo) else decide (r - d ≤ y.lo * 2 ^ (-sh).toNat)
    let cmpHi : Bool := if 0 ≤ sh then decide ((y.hi : Int) ≤ (r + d) * 2 ^ sh.toNat) else decide ((y.hi : Int) * 2 ^ (-sh).toNat ≤ r + d)
    cmpLo && cmpHi
  | _ => false

/-- The magnitude codes of a format within k ulp of an enclosed result (spec/06 R123).
Rests on notes/assumptions 12 (UNVERIFIED). -/
def FloatFmt.admissible (f : FloatFmt) (k : Nat) (y : Enclosure) : List Nat :=
  let top : Int := (Nat.log2 y.lo : Int) - y.prec
  let emin : Int := 1 - (f.bias : Int)
  let u : Int := (if top < emin then emin else top) - f.mbits
  let near := (f.round .rtz true false y.lo (-(y.prec : Int))).1
  ((List.range (4 * k + 5)).map fun i => near + i - (2 * k + 2)).eraseDups.filter fun c => f.within k u y c

/-- The value the A8 returns: one fixed choice among those within the bound (notes/assumptions/12.md), or the enclosed result rounded to nearest where the
list is empty.
Rests on notes/assumptions 12 (UNVERIFIED). -/
def FloatFmt.pick (f : FloatFmt) (word type input k : Nat) (y : Enclosure) : Nat :=
  let c := f.admissible k y
  c.getD (Config.approxPick word type input % c.length) (f.round .rne true false y.lo (-(y.prec : Int))).1

/-- 2^(-p) as an exact power: true where a magnitude m is a power of two. -/
def isPow2 (m : Nat) : Bool := decide (m = 2 ^ Nat.log2 m)

/-- FRCP (spec/06 R123, R124). -/
def FloatFmt.rcp (f : FloatFmt) (type a : Nat) : Nat × BitVec 5 :=
  match f.decode a with
  | .nan s => (f.nan, if s then flagNV else 0)
  | .inf n => (f.withSign n 0, 0)
  | .fin n m e =>
    if m = 0 then (f.withSign n (f.maxFin + 1), flagDZ)
    else
      let emin : Int := 1 - (f.bias : Int)
      let top := -(e + (Nat.log2 m : Int))
      if isPow2 m ∧ emin ≤ top ∧ top ≤ (f.bias : Int) then (f.round .rne false n 1 top)
      else
        let p : Nat := 4 * 2 ^ f.ebits
        let num : Nat := 2 ^ ((p : Int) - e).toNat
        let y : Enclosure := { lo := num / m, hi := if num % m = 0 then num / m else num / m + 1, prec := p }
        let (r, fl) := f.round .rne false n (2 * y.lo + (if num % m = 0 then 0 else 1)) (-(p : Int) - 1)
        let tiny := fl.getLsbD 1 || decide (r % 2 ^ f.signBit < 2 ^ f.mbits)
        if fl.getLsbD 2 then (r, flagOF ||| flagNX)
        else (f.withSign n (f.pick 0x08C type a 1 y), flagNX ||| (if tiny then flagUF else 0))

/-- FRSQ (spec/06 R123, R124). -/
def FloatFmt.rsq (f : FloatFmt) (type a : Nat) : Nat × BitVec 5 :=
  match f.decode a with
  | .nan s => (f.nan, if s then flagNV else 0)
  | .inf n => if n then (f.nan, flagNV) else (0, 0)
  | .fin n m e =>
    if m = 0 then (f.withSign n (f.maxFin + 1), flagDZ)
    else if n then (f.nan, flagNV)
    else
      let top := e + (Nat.log2 m : Int)
      if isPow2 m ∧ top % 2 = 0 then f.round .rne false false 1 (-(top / 2))
      else
        let p : Nat := 2 ^ f.ebits
        let q : Nat := 2 ^ (2 * (p : Int) - e).toNat / m
        (f.pick 0x08D type a 1 { lo := isqrt q, hi := isqrt q + 1, prec := p }, flagNX)

/-- 2^(n/2^k) for the bits of a fraction n / 2^len, as an enclosure with 256 fraction bits: the roots 2^(1/2), 2^(1/4), ... are taken in turn. -/
def exp2Bits : (len n : Nat) → (root acc : Nat × Nat) → Nat × Nat
  | 0, _, _, acc => acc
  | k + 1, n, root, acc =>
    let r := (isqrt (root.1 * 2 ^ 256), isqrt (root.2 * 2 ^ 256) + 1)
    let acc' := if (n / 2 ^ k) % 2 = 1 then (acc.1 * r.1 / 2 ^ 256, acc.2 * r.2 / 2 ^ 256 + 1) else acc
    exp2Bits k n r acc'

/-- FEXF (spec/06 R123, R124), with the three values of spec/19 R372. -/
def fexf32 (a : Nat) : Nat × BitVec 5 :=
  match fp32.decode a with
  | .nan s => (fp32.nan, if s then flagNV else 0)
  | .inf _ => (fp32.nan, flagNV)
  | .fin n m e =>
    if m = 0 then (0x3F800000, 0)
    else
      let len := (-e).toNat
      let v := if 0 ≤ e then m * 2 ^ e.toNat else m
      if 2 ^ len < v then (fp32.nan, flagNV)
      else if v = 2 ^ len then (if n then 0x3F000000 else 0x40000000, 0)
      else if a = 0x3F000000 then (0x3FB504F3, flagNX)
      else if a = 0xBF000000 then (0x3F3504F3, flagNX)
      else if a = 0xBA830000 then (0x3F7FD29D, flagNX)
      else
        let frac := if n then 2 ^ len - v else v
        let (lo, hi) := exp2Bits len frac (2 ^ 257, 2 ^ 257) (2 ^ 256, 2 ^ 256)
        (fp32.pick 0x08A 8 a 1 { lo := lo, hi := hi, prec := if n then 257 else 256 }, flagNX)

/-- Bounds of log2 t to n more fraction bits, for t in [1, 2) held between lo and hi with 512 fraction bits, by repeated squaring; where the square may lie on
either side of 2, its logarithm is 1 to far more bits than are wanted. -/
def log2Bits : Nat → (lo hi acc : Nat) → Nat × Nat
  | 0, _, _, acc => (acc, acc + 1)
  | k + 1, lo, hi, acc =>
    let l := lo * lo / 2 ^ 512
    let h := hi * hi / 2 ^ 512 + 1
    if 2 ^ 513 ≤ l then log2Bits k (l / 2) (h / 2 + 1) (2 * acc + 1)
    else if h < 2 ^ 513 then log2Bits k l h (2 * acc)
    else ((2 * acc + 1) * 2 ^ k - 1, (2 * acc + 1) * 2 ^ k + 1)

/-- FLG2 (spec/06 R123, R124). -/
def flg2of32 (a : Nat) : Nat × BitVec 5 :=
  match fp32.decode a with
  | .nan s => (fp32.nan, if s then flagNV else 0)
  | .inf n => if n then (fp32.nan, flagNV) else (a, 0)
  | .fin n m e =>
    if m = 0 then (0xFF800000, flagDZ)
    else if n then (fp32.nan, flagNV)
    else
      let top := e + (Nat.log2 m : Int)
      if isPow2 m then fp32.round .rne false (decide (top < 0)) top.natAbs 0
      else
        let t := m * 2 ^ (512 - Nat.log2 m)
        let (lo, hi) := log2Bits 96 t t 0
        let whole := top.natAbs * 2 ^ 96
        let y : Enclosure := if 0 ≤ top then { lo := whole + lo, hi := whole + hi, prec := 96 } else { lo := whole - hi, hi := whole - lo, prec := 96 }
        (fp32.withSign (decide (top < 0)) (fp32.pick 0x08B 8 a 2 y), flagNX)

end Sys2Proof.Machine
end

