-- ==== Sys2Proof/Syntax.lean ====
section
/-! DEFINITION. The instructions and steps of the A8: one constructor for each row of spec/opcode_table.json,
in the table's order, the steps of the outside world last. Scalar words carry
the fields of their encoding (spec/02 R27, R28); lane words carry the fields of R29; the steps of the engines, of the hub and of the world outside
carry what the step acts on, and, where the spec leaves an outcome open, the outcome as an operand. -/

namespace Sys2Proof

inductive Instr where
  /-- SADD (spec R57): Adds two scalar registers modulo 2^32. -/
  | sadd (d : BitVec 8) (a : BitVec 8) (b : BitVec 8)
  /-- SSUB (spec R57): Subtracts two scalar registers modulo 2^32. -/
  | ssub (d : BitVec 8) (a : BitVec 8) (b : BitVec 8)
  /-- SMUL (spec R57): Writes the low 32 bits of the product of two scalar registers. -/
  | smul (d : BitVec 8) (a : BitVec 8) (b : BitVec 8)
  /-- SMULH (spec R57): Writes the high 32 bits of the signed product. -/
  | smulh (d : BitVec 8) (a : BitVec 8) (b : BitVec 8)
  /-- SMIN (spec R57): Writes the signed minimum of two scalar registers. -/
  | smin (d : BitVec 8) (a : BitVec 8) (b : BitVec 8)
  /-- SMAX (spec R57): Writes the signed maximum of two scalar registers. -/
  | smax (d : BitVec 8) (a : BitVec 8) (b : BitVec 8)
  /-- SMIN_N (spec R57): Writes the unsigned minimum of two scalar registers. -/
  | sminN (d : BitVec 8) (a : BitVec 8) (b : BitVec 8)
  /-- SMAX_N (spec R57): Writes the unsigned maximum of two scalar registers. -/
  | smaxN (d : BitVec 8) (a : BitVec 8) (b : BitVec 8)
  /-- SAND (spec R57): Bitwise AND of two scalar registers. -/
  | sand (d : BitVec 8) (a : BitVec 8) (b : BitVec 8)
  /-- SOR (spec R57): Bitwise OR of two scalar registers. -/
  | sor (d : BitVec 8) (a : BitVec 8) (b : BitVec 8)
  /-- SXOR (spec R57): Bitwise XOR of two scalar registers. -/
  | sxor (d : BitVec 8) (a : BitVec 8) (b : BitVec 8)
  /-- SMULH_N (spec R57): Writes the high 32 bits of the unsigned product. -/
  | smulhN (d : BitVec 8) (a : BitVec 8) (b : BitVec 8)
  /-- SSHL (spec R57): Shifts a scalar register left by b[7:0]. -/
  | sshl (d : BitVec 8) (a : BitVec 8) (b : BitVec 8)
  /-- SSHR (spec R57): Shifts a scalar register right with zero fill. -/
  | sshr (d : BitVec 8) (a : BitVec 8) (b : BitVec 8)
  /-- SSRA (spec R57): Shifts a scalar register right with sign fill. -/
  | ssra (d : BitVec 8) (a : BitVec 8) (b : BitVec 8)
  /-- SMOV (spec R57): Copies one scalar register to another. -/
  | smov (d : BitVec 8) (a : BitVec 8)
  /-- SCMP_EQ (spec R58): Writes a q predicate with a = b. -/
  | scmpEq (q : BitVec 3) (a : BitVec 8) (b : BitVec 8)
  /-- SCMP_NE (spec R58): Writes a q predicate with a != b. -/
  | scmpNe (q : BitVec 3) (a : BitVec 8) (b : BitVec 8)
  /-- SCMP_LT (spec R58): Writes a q predicate with the signed a < b. -/
  | scmpLt (q : BitVec 3) (a : BitVec 8) (b : BitVec 8)
  /-- SCMP_LE (spec R58): Writes a q predicate with the signed a <= b. -/
  | scmpLe (q : BitVec 3) (a : BitVec 8) (b : BitVec 8)
  /-- SCMP_LT_N (spec R58): Writes a q predicate with the unsigned a < b. -/
  | scmpLtN (q : BitVec 3) (a : BitVec 8) (b : BitVec 8)
  /-- SCMP_LE_N (spec R58): Writes a q predicate with the unsigned a <= b. -/
  | scmpLeN (q : BitVec 3) (a : BitVec 8) (b : BitVec 8)
  /-- SCLZ (spec R57): Counts the leading zero bits of a scalar register. -/
  | sclz (d : BitVec 8) (a : BitVec 8)
  /-- SPOPC (spec R57): Counts the one bits of a scalar register. -/
  | spopc (d : BitVec 8) (a : BitVec 8)
  /-- SSEL_Q0_Q3 (spec R58): Selects s[A] or s[B] on one of q0 to q3. -/
  | sselQ0Q3 (d : BitVec 8) (a : BitVec 8) (b : BitVec 8) (k : BitVec 2)
  /-- SSEL_Q4_Q7 (spec R58): Selects s[A] or s[B] on one of q4 to q7. -/
  | sselQ4Q7 (d : BitVec 8) (a : BitVec 8) (b : BitVec 8) (k : BitVec 2)
  /-- SAD64 (spec R60): Adds a sign-extended register to a 64-bit pair. -/
  | sad64 (d : BitVec 8) (a : BitVec 8) (b : BitVec 8)
  /-- SMAD64 (spec R60): Adds the 64-bit product of an index and a stride to a 64-bit pair. -/
  | smad64 (d : BitVec 8) (a : BitVec 8) (b : BitVec 8)
  /-- SBFE (spec R61): Extracts an unsigned bit field. -/
  | sbfe (d : BitVec 8) (a : BitVec 8) (b : BitVec 8)
  /-- SBFE_I (spec R61): Extracts a sign-extended bit field. -/
  | sbfeI (d : BitVec 8) (a : BitVec 8) (b : BitVec 8)
  /-- SBFI (spec R61): Inserts a bit field into the destination. -/
  | sbfi (d : BitVec 8) (a : BitVec 8) (b : BitVec 8)
  /-- SADDI (spec R59): Adds an immediate to a scalar register. -/
  | saddi (d : BitVec 8) (a : BitVec 8) (i : BitVec 10)
  /-- SLDS (spec R62): Loads 4 bytes of team scratchpad into a scalar register. -/
  | slds (d : BitVec 8) (a : BitVec 8) (i : BitVec 10)
  /-- SLDS_D (spec R62): Loads 8 bytes of team scratchpad into a pair. -/
  | sldsD (d : BitVec 8) (a : BitVec 8) (i : BitVec 10)
  /-- SSTS (spec R62): Stores 4 bytes from a scalar register to team scratchpad. -/
  | ssts (d : BitVec 8) (a : BitVec 8) (i : BitVec 10)
  /-- SSTS_D (spec R62): Stores 8 bytes from a pair to team scratchpad. -/
  | sstsD (d : BitVec 8) (a : BitVec 8) (i : BitVec 10)
  /-- SLI (spec R59): Loads a sign-extended 18-bit immediate. -/
  | sli (d : BitVec 8) (i : BitVec 18)
  /-- SLUI (spec R59): Sets bits [31:14] of a register from an 18-bit immediate. -/
  | slui (d : BitVec 8) (i : BitVec 18)
  /-- XIMM (spec R24): Supplies bits [31:10] of the next word's immediate and issues with it as one unit. -/
  | ximm (i : BitVec 22)
  /-- SBR (spec R67): Branches on a scalar predicate guard. -/
  | sbr (g : BitVec 4) (o : BitVec 22)
  /-- SJMP (spec R67): Jumps to the offset held in a scalar register. -/
  | sjmp (a : BitVec 8)
  /-- SRET (spec R67): Pops the scalar call stack into SPC. -/
  | sret
  /-- SCALL (spec R67): Pushes the return offset and branches when the guard holds. -/
  | scall (g : BitVec 4) (o : BitVec 22)
  /-- SLOOP (spec R68): Decrements a count and branches back while it is nonzero. -/
  | sloop (d : BitVec 8) (i : BitVec 10)
  /-- LRUN (spec R69): Snapshots the scalar registers and queues a lane block with a new ticket. -/
  | lrun (d : BitVec 8) (i : BitVec 10)
  /-- LWAIT (spec R71): Waits for lane blocks up to a ticket and applies their scalar results and flags. -/
  | lwait (a : BitVec 8)
  /-- SRD (spec R64): Reads a special register into a scalar register. -/
  | srd (d : BitVec 8) (n : BitVec 10)
  /-- SWR (spec R64): Writes a scalar register to a writable special register. -/
  | swr (a : BitVec 8) (n : BitVec 10)
  /-- CTEN (spec R200): Posts a copy of a box between a strided tensor and local storage. -/
  | cten (d : BitVec 8) (i : BitVec 16)
  /-- CGTH (spec R201): Posts a gather of rows named by an index list. -/
  | cgth (d : BitVec 8) (i : BitVec 16)
  /-- CSCT (spec R220): Posts a scatter of local rows into memory, storing or reducing. -/
  | csct (d : BitVec 8) (i : BitVec 16)
  /-- CPACK (spec R227): Posts the packing of a dense local vector into a compact stream in memory. -/
  | cpack (d : BitVec 8) (i : BitVec 16)
  /-- CUNPK (spec R228): Posts the unpacking of a compact stream into a dense local vector. -/
  | cunpk (d : BitVec 8) (i : BitVec 16)
  /-- CFILL (spec R202): Posts the writing of one pattern over a memory box. -/
  | cfill (d : BitVec 8) (i : BitVec 16)
  /-- CBATCH (spec R204): Closes the open batch and returns its sequence number. -/
  | cbatch (d : BitVec 8)
  /-- CWAIT (spec R205): Waits until every closed batch at or before n is complete. -/
  | cwait (a : BitVec 8)
  /-- CROWS (spec R208): Waits until a row counter reaches a target. -/
  | crows (a : BitVec 8) (b : BitVec 8)
  /-- CSTAT (spec R206): Reads one word of a batch record. -/
  | cstat (d : BitVec 8) (a : BitVec 8)
  /-- CCNCL (spec R209): Cancels the group's commands of one batch or of all batches. -/
  | ccncl (a : BitVec 8)
  /-- HCLAIM (spec R172): Claims a scratchpad region as a hash table and initialises it. -/
  | hclaim (a : BitVec 8) (t : BitVec 2)
  /-- HREL (spec R173): Releases a hash table. -/
  | hrel (t : BitVec 2)
  /-- HSTAT (spec R184): Reads the counters of a hash table. -/
  | hstat (d : BitVec 8) (t : BitVec 2)
  /-- HDRAIN (spec R185): Emits the live entries of a hash table in fixed order, optionally clearing them. -/
  | hdrain (d : BitVec 8) (t : BitVec 2)
  /-- MMA (spec R276): Posts an unscaled matrix request on an accumulator. -/
  | mma (d : BitVec 8) (c : BitVec 3) (a : BitVec 5) (b : BitVec 5)
  /-- MMA_SPEC (spec R282): Posts an unscaled matrix request that writes the shadow under a pending predicate. -/
  | mmaSpec (d : BitVec 8) (c : BitVec 3) (a : BitVec 5) (q : BitVec 3) (b : BitVec 5)
  /-- MMAS (spec R276): Posts a scaled-block matrix request on an accumulator. -/
  | mmas (d : BitVec 8) (c : BitVec 3) (a : BitVec 5) (b : BitVec 5)
  /-- MMAS_SPEC (spec R282): Posts a scaled-block matrix request under a pending predicate. -/
  | mmasSpec (d : BitVec 8) (c : BitVec 3) (a : BitVec 5) (q : BitVec 3) (b : BitVec 5)
  /-- MZERO (spec R284): Posts a request that zeroes an accumulator and clears its poison mark. -/
  | mzero (c : BitVec 3)
  /-- MWAIT (spec R287): Waits for the team's earlier requests on one accumulator. -/
  | mwait (c : BitVec 3)
  /-- MWAIT_ALL (spec R287): Waits for the team's earlier requests on all accumulators. -/
  | mwaitAll
  /-- MPRI (spec R280): Sets the matrix priority of the group's later posts. -/
  | mpri (a : BitVec 8)
  /-- MOUT (spec R286): Posts the conversion of an accumulator into a tile register. -/
  | mout (d : BitVec 8) (c : BitVec 3) (t : BitVec 5)
  /-- MOUT_S (spec R286): Posts the conversion of an accumulator into team scratchpad. -/
  | moutS (d : BitVec 8) (c : BitVec 3) (b : BitVec 8)
  /-- TSHAPE (spec R159): Writes the shape of a tile register after its users complete. -/
  | tshape (d : BitVec 8) (t : BitVec 5)
  /-- FENCE_ACQ (spec R238): Scalar acquire fence at a scope. -/
  | fenceAcq (scope : BitVec 3)
  /-- FENCE_REL (spec R238): Scalar release fence at a scope. -/
  | fenceRel (scope : BitVec 3)
  /-- FENCE_ACQREL (spec R238): Scalar fence that runs acquire and release parts at once. -/
  | fenceAcqrel (scope : BitVec 3)
  /-- FENCE_SC (spec R240): Sequentially consistent scalar fence at a scope. -/
  | fenceSc (scope : BitVec 3)
  /-- PBIND (spec R245): Binds regions and a scope to a pennant. -/
  | pbind (d : BitVec 8) (a : BitVec 8) (n : BitVec 2)
  /-- PACQ_GE (spec R247): Waits until a pennant counter is at least a value, then invalidates its regions. -/
  | pacqGe (a : BitVec 8) (b : BitVec 8)
  /-- PACQ_EQ (spec R247): Waits until a pennant counter equals a value, then invalidates its regions. -/
  | pacqEq (a : BitVec 8) (b : BitVec 8)
  /-- PACQ_NE (spec R247): Waits until a pennant counter differs from a value, then invalidates its regions. -/
  | pacqNe (a : BitVec 8) (b : BitVec 8)
  /-- PREL_ADD (spec R246): Pushes a pennant's regions and adds to its counter. -/
  | prelAdd (a : BitVec 8) (b : BitVec 8)
  /-- PREL_SET (spec R246): Pushes a pennant's regions and sets its counter. -/
  | prelSet (a : BitVec 8) (b : BitVec 8)
  /-- PTEST (spec R248): Reads a pennant counter without acquiring. -/
  | ptest (d : BitVec 8) (a : BitVec 8)
  /-- RCOMB (spec R267): Sends one contribution to a combining slot. -/
  | rcomb (a : BitVec 8) (b : BitVec 8)
  /-- WAITA_GE (spec R249): Parks the group until a memory word is at least a value. -/
  | waitaGe (q : BitVec 3) (a : BitVec 8) (b : BitVec 8)
  /-- WAITA_EQ (spec R249): Parks the group until a memory word equals a value. -/
  | waitaEq (q : BitVec 3) (a : BitVec 8) (b : BitVec 8)
  /-- WAITA_NE (spec R249): Parks the group until a memory word differs from a value. -/
  | waitaNe (q : BitVec 3) (a : BitVec 8) (b : BitVec 8)
  /-- LNCH (spec R305): Enqueues a launch body from the device as a ready node. -/
  | lnch (a : BitVec 8)
  /-- CNTR (spec R306): Reads a completion counter or arrives at it. -/
  | cntr (d : BitVec 8) (a : BitVec 8)
  /-- CNCL (spec R307): Cancels the work below a completion counter. -/
  | cncl (a : BitVec 8)
  /-- GEXIT (spec R308): Ends the group after its outstanding lane blocks. -/
  | gexit
  /-- TREF (spec R310): Reads the core's REFT as one 64-bit value. -/
  | tref (d : BitVec 8)
  /-- TWAIT (spec R310): Holds the scalar stream until REFT reaches a target. -/
  | twait (a : BitVec 8)
  /-- TRAP (spec R328): Raises cause 0x04B with a code. -/
  | trap (i : BitVec 10)
  /-- BRK (spec R328): Raises cause 0x04C. -/
  | brk
  /-- ERET (spec R328): Leaves handler mode, resuming or forwarding the trap. -/
  | eret
  /-- SNOP (spec R328): Does nothing for one core clock. -/
  | snop
  /-- SPRESIZE (spec R152): Changes the core's L1 way count and reports success in a q predicate. -/
  | spresize (q : BitVec 3) (a : BitVec 8)
  /-- SRDP (spec R328): Reads a privileged register in handler mode. -/
  | srdp (d : BitVec 8) (n : BitVec 9)
  /-- SWRP (spec R328): Writes a privileged register in handler mode. -/
  | swrp (a : BitVec 8) (n : BitVec 9)
  /-- PMARK (spec R348): Writes a MARK record from the scalar stream. -/
  | pmark (a : BitVec 8)
  /-- PCNT (spec R349): Reads an event counter into a scalar register. -/
  | pcnt (d : BitVec 8) (a : BitVec 8)
  /-- RACE (spec R350): Clears the race shadow of one scratchpad granule. -/
  | race (a : BitVec 8)
  /-- DSTOP (spec R351): Stops the group for debug when stops are enabled. -/
  | dstop
  /-- NON_INSTRUCTION_WORD (spec R37): A word that is not an instruction traps with a decode or fetch cause when it would issue. -/
  | nonInstructionWord (lane : Bool) (cause : Cause) (addr : DWord)
  /-- VADD (spec R76): Lane integer add. -/
  | vadd (w : LaneWord)
  /-- VSUB (spec R76): Lane integer subtract. -/
  | vsub (w : LaneWord)
  /-- VMUL (spec R76): Lane integer multiply. -/
  | vmul (w : LaneWord)
  /-- VMULH (spec R76): High half of a lane integer product. -/
  | vmulh (w : LaneWord)
  /-- VMAD (spec R76): Lane integer multiply-add. -/
  | vmad (w : LaneWord)
  /-- VMADW (spec R76): Widening 32x32+64 lane multiply-add. -/
  | vmadw (w : LaneWord)
  /-- VAND (spec R77): Lane bitwise AND. -/
  | vand (w : LaneWord)
  /-- VOR (spec R77): Lane bitwise OR. -/
  | vor (w : LaneWord)
  /-- VXOR (spec R77): Lane bitwise XOR. -/
  | vxor (w : LaneWord)
  /-- VLOP3 (spec R77): Three-input lane logic by truth table. -/
  | vlop3 (w : LaneWord)
  /-- VSHL (spec R77): Lane shift left. -/
  | vshl (w : LaneWord)
  /-- VSHR (spec R77): Lane shift right, logical or arithmetic by type. -/
  | vshr (w : LaneWord)
  /-- VROT (spec R77): Lane rotate left within the type width. -/
  | vrot (w : LaneWord)
  /-- VMIN (spec R76): Lane integer minimum. -/
  | vmin (w : LaneWord)
  /-- VMAX (spec R76): Lane integer maximum. -/
  | vmax (w : LaneWord)
  /-- VABSD (spec R76): Lane absolute difference. -/
  | vabsd (w : LaneWord)
  /-- VCLZ (spec R78): Lane leading-zero count. -/
  | vclz (w : LaneWord)
  /-- VPOPC (spec R78): Lane population count. -/
  | vpopc (w : LaneWord)
  /-- VBREV (spec R78): Lane bit reversal. -/
  | vbrev (w : LaneWord)
  /-- VBFE (spec R78): Lane bit-field extract. -/
  | vbfe (w : LaneWord)
  /-- VBFI (spec R78): Lane bit-field insert. -/
  | vbfi (w : LaneWord)
  /-- VSEL (spec R79): Lane select on a predicate. -/
  | vsel (w : LaneWord)
  /-- VCMP (spec R80): Lane integer compare into a predicate. -/
  | vcmp (w : LaneWord)
  /-- VMOV (spec R79): Lane move. -/
  | vmov (w : LaneWord)
  /-- VPSET (spec R81): Sets a predicate from three predicates by truth table. -/
  | vpset (w : LaneWord)
  /-- VSHFL (spec R84): Moves values between the executing lanes. -/
  | vshfl (w : LaneWord)
  /-- VBCST (spec R85): Broadcasts one lane's value to the executing lanes. -/
  | vbcst (w : LaneWord)
  /-- VVOTE (spec R86): Counts a predicate across the executing lanes. -/
  | vvote (w : LaneWord)
  /-- VREDX (spec R87): Reduces the executing lanes into a scalar register. -/
  | vredx (w : LaneWord)
  /-- VSCAN (spec R89): Prefix scan over the executing lanes. -/
  | vscan (w : LaneWord)
  /-- VMATCH (spec R90): Finds executing lanes holding equal values. -/
  | vmatch (w : LaneWord)
  /-- FADD (spec R116): Floating-point add, rounded once. -/
  | fadd (w : LaneWord)
  /-- FSUB (spec R116): Floating-point subtract, rounded once. -/
  | fsub (w : LaneWord)
  /-- FMUL (spec R116): Floating-point multiply, rounded once. -/
  | fmul (w : LaneWord)
  /-- FFMA (spec R116): Fused multiply-add, rounded once. -/
  | ffma (w : LaneWord)
  /-- FMIN (spec R117): IEEE minimum or minimumNumber. -/
  | fmin (w : LaneWord)
  /-- FMAX (spec R117): IEEE maximum or maximumNumber. -/
  | fmax (w : LaneWord)
  /-- FCMP (spec R118): Floating-point compare into a predicate. -/
  | fcmp (w : LaneWord)
  /-- FCLASS (spec R119): Writes a one-hot class mask. -/
  | fclass (w : LaneWord)
  /-- FRND (spec R120): Rounds to an integral value in the same format. -/
  | frnd (w : LaneWord)
  /-- FFRC (spec R120): Gives the fractional part. -/
  | ffrc (w : LaneWord)
  /-- FEXF (spec R123): Approximates 2^a for -1 <= a <= 1. -/
  | fexf (w : LaneWord)
  /-- FLG2 (spec R123): Approximates log2 a. -/
  | flg2 (w : LaneWord)
  /-- FRCP (spec R123): Approximates the reciprocal. -/
  | frcp (w : LaneWord)
  /-- FRSQ (spec R123): Approximates the reciprocal square root. -/
  | frsq (w : LaneWord)
  /-- FSQRT (spec R123): Correctly rounded square root. -/
  | fsqrt (w : LaneWord)
  /-- FINSX (spec R121): Adds an integer to the exponent, rounded once. -/
  | finsx (w : LaneWord)
  /-- FEXPX (spec R122): Writes the exponent of the leading one bit as s32. -/
  | fexpx (w : LaneWord)
  /-- CVT (spec R106): Converts one value per executing lane between formats. -/
  | cvt (w : LaneWord)
  /-- CVTQ (spec R109): Quantises blocks of lanes to a scaled format. -/
  | cvtq (w : LaneWord)
  /-- CVTD (spec R111): Dequantises scaled block elements lane by lane. -/
  | cvtd (w : LaneWord)
  /-- PK2 (spec R107): Converts two values and packs them into one register. -/
  | pk2 (w : LaneWord)
  /-- UPK2 (spec R108): Unpacks two values and converts each into its own register. -/
  | upk2 (w : LaneWord)
  /-- VBR (spec R137): Lane branch on the guard, dividing the split when lanes disagree. -/
  | vbr (w : LaneWord)
  /-- VSWITCH (spec R139): Multi-way lane branch over up to eight case words. -/
  | vswitch (w : LaneWord)
  /-- VJMP (spec R140): Unconditional jump of the whole split. -/
  | vjmp (w : LaneWord)
  /-- VCALL (spec R140): Pushes the return lane PC and jumps. -/
  | vcall (w : LaneWord)
  /-- VRET (spec R140): Pops the split's call stack into its lane PC. -/
  | vret (w : LaneWord)
  /-- VBRK (spec R138): Lane branch whose taken side is deferred. -/
  | vbrk (w : LaneWord)
  /-- VEXIT (spec R141): Retires the executing lanes. -/
  | vexit (w : LaneWord)
  /-- VSTOP (spec R141): Retires every active lane of the split. -/
  | vstop (w : LaneWord)
  /-- LDS (spec R153): Lane load from team scratchpad. -/
  | lds (w : LaneWord)
  /-- STS (spec R153): Lane store to team scratchpad. -/
  | sts (w : LaneWord)
  /-- LDSH (spec R157): Lane load through a tile-buffer handle. -/
  | ldsh (w : LaneWord)
  /-- STSH (spec R157): Lane store through a tile-buffer handle. -/
  | stsh (w : LaneWord)
  /-- LDTR (spec R160): Lane load from a tile register at logical coordinates. -/
  | ldtr (w : LaneWord)
  /-- STTR (spec R160): Lane store to a tile register at logical coordinates. -/
  | sttr (w : LaneWord)
  /-- QPUSH (spec R162): Pushes handles to a hoist queue, waiting for room and allowance. -/
  | qpush (w : LaneWord)
  /-- QPOP (spec R162): Pops handles from a hoist queue, waiting for them. -/
  | qpop (w : LaneWord)
  /-- QTRY_POP (spec R162): Pops handles only if available, reporting in a predicate. -/
  | qtryPop (w : LaneWord)
  /-- QTRY_PUSH (spec R162): Pushes handles only if room exists, reporting in a predicate. -/
  | qtryPush (w : LaneWord)
  /-- QALLOW (spec R162): Adds to a hoist queue's send allowance. -/
  | qallow (w : LaneWord)
  /-- BAR (spec R163): Arrives at a team barrier and waits for its completion. -/
  | bar (w : LaneWord)
  /-- HINS (spec R178): Inserts keys into a scratchpad hash table. -/
  | hins (w : LaneWord)
  /-- HPRB (spec R178): Probes a scratchpad hash table for keys. -/
  | hprb (w : LaneWord)
  /-- HDEL (spec R178): Deletes keys from a scratchpad hash table. -/
  | hdel (w : LaneWord)
  /-- HACC (spec R178): Accumulates values by key in a scratchpad hash table. -/
  | hacc (w : LaneWord)
  /-- ATS (spec R256): Team-scope atomic on scratchpad words, in ascending lane order. -/
  | ats (w : LaneWord)
  /-- ATM (spec R259): Posts a memory atomic per executing lane. -/
  | atm (w : LaneWord)
  /-- ADCAS (spec R260): Posts a double compare-and-swap per executing lane. -/
  | adcas (w : LaneWord)
  /-- AXMV (spec R261): Posts an exchange-and-move per executing lane. -/
  | axmv (w : LaneWord)
  /-- ARED (spec R262): Posts a memory reduction per executing lane with no result. -/
  | ared (w : LaneWord)
  /-- LANE_FENCE (spec R241): Orders the split's scratchpad and lane memory accesses. -/
  | laneFence (w : LaneWord)
  /-- LANE_PMARK (spec R348): Writes a MARK record from the lane stream. -/
  | lanePmark (w : LaneWord)
  /-- LANE_PCNT (spec R349): Reads an event counter into a vector register. -/
  | lanePcnt (w : LaneWord)
  /-- LANE_RACE (spec R350): Clears race shadows at per-lane addresses. -/
  | laneRace (w : LaneWord)
  /-- LANE_DSTOP (spec R351): Stops the group for debug from the lane stream. -/
  | laneDstop (w : LaneWord)
  /-- LAUNCH_PACKET (spec R294): Parses a LAUNCH packet and hands it to the Work Distributor. -/
  | launchPacket (q : QueueIx)
  /-- GRAPH_PACKET (spec R302): Parses a GRAPH packet, checks its nodes and readies those without predecessors. -/
  | graphPacket (q : QueueIx)
  /-- FENCE_PACKET (spec R296): Waits until a list of memory conditions is observed, then acquires. -/
  | fencePacket (q : QueueIx)
  /-- SIGNAL_PACKET (spec R292): After earlier launches, releases and writes or adds a value in memory. -/
  | signalPacket (q : QueueIx)
  /-- TIMESTAMP_PACKET (spec R292): After earlier launches, writes the hub's REFT to memory. -/
  | timestampPacket (q : QueueIx)
  /-- CANCEL_PACKET (spec R307): Cancels the work below a counter from a queue. -/
  | cancelPacket (q : QueueIx)
  /-- TRACE_OPEN (spec R341): Opens a Streamer session and writes its header. -/
  | traceOpen (q : QueueIx)
  /-- TRACE_CLOSE (spec R341): Flushes the emitters and closes the Streamer session. -/
  | traceClose (q : QueueIx)
  /-- TRACE_FLUSH (spec R341): Flushes every held record of the context. -/
  | traceFlush (q : QueueIx)
  /-- NOP_PACKET (spec R292): A packet that is parsed at once with no effect. -/
  | nopPacket (q : QueueIx)
  /-- QUEUE_RESET (spec R346): A queue reset flushes and truncates the context's Streamer session. -/
  | queueReset (q : QueueIx)
  /-- REPLY_RETRY (spec R321): A reply of retry translates a suspended element again. -/
  | replyRetry (f : Func) (c : CtxIx) (tag : Word)
  /-- REPLY_FAIL (spec R321): A reply of fail ends the suspended work fault-cancelled or false. -/
  | replyFail (f : Func) (c : CtxIx) (tag : Word)
  /-- TEAM_PLACEMENT (spec R297): The Work Distributor dispatches the next team onto a fitting core. -/
  | teamPlacement (l : Nat) (t : TeamIx) (core : CoreIx) (spad : Nat) (slots : List Nat)
  /-- NODE_ENTERS_POOL (spec R302): A ready graph node enters the ready pool when an entry is free. -/
  | nodeEntersPool (g n : Nat)
  /-- LANE_BLOCK_START (spec R69): A queued lane block starts when its predecessor completes. -/
  | laneBlockStart (t : TeamIx) (g : GrpIx)
  /-- SPLIT_ARRIVAL (spec R133): A split reaching its innermost join's PC arrives there and ends. -/
  | splitArrival (t : TeamIx) (g : GrpIx) (k : SplitIx)
  /-- PATH_ENTRY_LOAD (spec R133): A loadable path entry is loaded into a free split entry. -/
  | pathEntryLoad (t : TeamIx) (g : GrpIx)
  /-- GUIDON_RESOLUTION (spec R147): A speculation window resolves: undo, replay, fix masks and train. -/
  | guidonResolution (t : TeamIx) (g : GrpIx) (k : SplitIx) (taken other : Nat)
  /-- QUEUE_DEADLOCK (spec R164): Within 4,096 clocks of a team deadlock, each waiting split traps 0x154. -/
  | queueDeadlock (t : TeamIx)
  /-- ISSUE_PROMOTION (spec R313): A contender ready 1,024 clocks without issue is promoted. -/
  | issuePromotion (t : TeamIx) (c : GrpIx × Option SplitIx)
  /-- SAMPLE_SPILL (spec R340): A sample-table entry spills as a SAMPLE record. -/
  | sampleSpill (core : CoreIx) (i : Fin 4096)
  /-- COPY_ELEMENT_TRANSLATE (spec R213): The engine translates and performs elements of a command in order. -/
  | copyElementTranslate (t : TeamIx) (g : GrpIx) (seq : Word) (ch : ElemChoice)
  /-- TRANSLATION_FAULT (spec R213): A failed translation stops a command at an element and writes a record. -/
  | translationFault (t : TeamIx) (g : GrpIx) (seq : Word)
  /-- COPY_ROW_LANDED (spec R208): A row lands and the landed-row run grows its counter. -/
  | copyRowLanded (t : TeamIx) (g : GrpIx) (seq : Word)
  /-- RELOCK_END (spec R312): A relock ends; the die resumes issue and its FIFOs drain in order. -/
  | relockEnd (d : DieIx)
  /-- COMMAND_END (spec R203): A copy command ends with its status. -/
  | commandEnd (t : TeamIx) (g : GrpIx) (seq : Word)
  /-- COMBINING_ENTRY_EVICT (spec R222): An L1 reduction-combining entry is sent home as a reduction. -/
  | combiningEntryEvict (core : CoreIx) (i : Nat)
  /-- CLUSTER_ATOMIC_WRITEBACK (spec R253): The cluster atomic unit writes a sector back to the die's L2. -/
  | clusterAtomicWriteback (cl : Fin 40) (i : Nat)
  /-- HOME_REDUCTION (spec R222): A reduction contribution executes at its home slice. -/
  | homeReduction (c : JoinChoice)
  /-- WAITA_MONITOR_SATISFIED (spec R249): A home monitor's condition holds and the WAITA returns true. -/
  | waitaMonitorSatisfied (t : TeamIx) (g : GrpIx)
  /-- PACQ_SATISFIED (spec R247): A pennant update satisfies a waiting PACQ, which then invalidates. -/
  | pacqSatisfied (t : TeamIx) (g : GrpIx)
  /-- RCOMB_ROUND_COMPLETE (spec R268): The hub completes a combining round and writes its result. -/
  | rcombRoundComplete (k : Fin 256) (order : List Nat)
  /-- MATRIX_PASS (spec R280): The arbiter grants one 64x64x32 pass of an eligible request. -/
  | matrixPass (t : TeamIx) (age : Word)
  /-- MZERO_STEP (spec R284): An MZERO request zeroes its accumulator at its turn. -/
  | mzeroStep (t : TeamIx) (age : Word)
  /-- MOUT_STEP (spec R286): A MOUT request converts and writes its accumulator at its turn. -/
  | moutStep (t : TeamIx) (age : Word)
  /-- ARBITER_STARVATION (spec R280): A request eligible 8,192 clocks ranks above every priority. -/
  | arbiterStarvation (t : TeamIx) (age : Word)
  /-- TWAIT_EXPIRY (spec R310): REFT reaches a TWAIT target and the stream resumes. -/
  | twaitExpiry (t : TeamIx) (g : GrpIx)
  /-- TEAM_START_TIME (spec R297): REFT reaches a launch's START and its teams may be placed. -/
  | teamStartTime (l : Nat)
  /-- FENCE_HOST_POLL (spec R296): A host-memory FENCE condition is read every 1 us. -/
  | fenceHostPoll (q : QueueIx)
  /-- TEAM_RETIRE (spec R308): All groups have exited; the team's work ends and it releases and frees. -/
  | teamRetire (t : TeamIx)
  /-- LAUNCH_COMPLETE (spec R301): Every team has retired and the launch arrives at its counter. -/
  | launchComplete (l : Nat)
  /-- FAULT_SAVE (spec R214): A team waiting on faults past the threshold is saved and replaced. -/
  | faultSave (t : TeamIx)
  /-- TEAM_RESTORE (spec R334): A saved team is placed on a fitting core and its state restored. -/
  | teamRestore (i : Nat) (t : TeamIx) (core : CoreIx) (spad : Nat) (slots : List Nat)
  /-- HALT_TIMEOUT (spec R331): A core not halted within 4 us raises cause 0x1E0. -/
  | haltTimeout (core : CoreIx)
  /-- ASYNC_TRAP_DELIVERY (spec R324): A pending asynchronous trap reaches the group at an issue boundary. -/
  | asyncTrapDelivery (t : TeamIx) (g : GrpIx)
  /-- RECORD_WRITE (spec R320): The hub writes a waiting record to its ring and announces it. -/
  | recordWrite (c : CtxIx) (replayable : Bool)
  /-- STREAMER_RECORD_WRITE (spec R343): An emitter writes a Streamer record and updates WRITTEN. -/
  | streamerRecordWrite (c : CtxIx)
  /-- CACHE_WRITE_BACK (spec R234): An L1 line or a far copy in a die's L2 is evicted and its dirty bytes are written back to the die's L2 or to home. -/
  | cacheWriteBack (p : CachePlace) (line : Nat)
  /-- QUEUE_DOORBELL (spec R291): A write of the write index makes packets parseable. -/
  | queueDoorbell (f : Func) (q : QueueIx) (widx : DWord)
  /-- QUEUE_STATE_WRITE (spec R291): A write of STATE starts or stops a queue, resuming at the read index. -/
  | queueStateWrite (f : Func) (q : QueueIx) (st : Byte)
  /-- COUNTER_TARGET_WRITE (spec R299): A window write of TARGET re-arms a completion counter. -/
  | counterTargetWrite (f : Func) (k : Fin 4096) (target : Word)
  /-- SLOT_RECORD_WRITE (spec R266): A write of a combining-slot record re-arms the slot. -/
  | slotRecordWrite (f : Func) (k : Fin 256) (raw : BitVec 256)
  /-- SHAPE_ENTRY_COMMIT (spec R197): Writing the last bytes of the shape window commits and checks an entry. -/
  | shapeEntryCommit (f : Func) (c : CtxIx) (last : DWord)
  /-- CONTEXT_DESCRIPTOR_WRITE (spec R329): A descriptor write is checked and VALID set, resetting the context's counters. -/
  | contextDescriptorWrite (c : CtxIx) (raw : BitVec 1024)
  /-- INVALIDATION (spec R330): A write to the invalidation register drops overlapping translations and sets DONE. -/
  | invalidation (f : Func) (c : CtxIx) (va : DWord) (logsz : Byte)
  /-- RING_STATUS_CLEAR (spec R322): Writing 1 to a ring-status bit resumes writing that ring's waiting records. -/
  | ringStatusClear (f : Func) (c : CtxIx) (bits : Word)
  /-- STOP_REQUEST (spec R351): A stop command stops the named groups at their next issue boundary with cause 0x051. -/
  | stopRequest (f : Func) (c : CtxIx) (launch team : Word) (grp : Byte)
  /-- RESUME_COMMAND (spec R325): A resume command restarts a stopped group as an ERET. -/
  | resumeCommand (f : Func) (c : CtxIx) (launch team : Word) (grp : Byte)
  /-- PARTITION_SWITCH (spec R336): A write of a partition's CTX halts, saves and restores its contexts. -/
  | partitionSwitch (p : Fin 16) (ctx : BitVec 16)
  /-- PARTITION_SEAL (spec R364): A write of SEAL shuts the management processor out of the ranges. -/
  | partitionSeal (p : Fin 16)
  /-- PARTITION_SCRUB (spec R365): A write of SCRUB zeroes the sealed ranges and clears SEAL. -/
  | partitionScrub (p : Fin 16)
  /-- TDP_WRITE (spec R371): Sets the package power limit. -/
  | tdpWrite (watts : Word)
  /-- SERVICE_CLEAR (spec R367): Writing 1 clears a service bit. -/
  | serviceClear (bits : Word)
  /-- MEASUREMENT_EXTEND (spec R362): The host extends a measurement register through the mailbox. -/
  | measurementExtend (m : Fin 8) (component : List Byte)
  /-- QUOTE_REQUEST (spec R362): Signs a quote of the measurements with the key of this boot. -/
  | quoteRequest (nonce : BitVec 256)
  /-- REGISTER_WRITE (spec R355): A write to a window register that has no row of its own. -/
  | registerWrite (f : Func) (off : Nat) (size : Nat) (value : DWord)
  /-- BAR_ATOMICOP (spec R353): A host AtomicOp aimed at a BAR completes with Unsupported Request. -/
  | barAtomicop (f : Func) (off : Nat)
  /-- DEVICE_RESET (spec R56): Device reset puts every register and counter into its reset state. -/
  | deviceReset
  /-- FIRMWARE_BOOT (spec R360): The boot ROM verifies and loads a firmware image. -/
  | firmwareBoot (a b : Image) (seed : List Byte) (spares : List (DieIx × Bool × Fin 42 × Fin 40))
  /-- READINESS_BIT_SET (spec R370): A function becomes ready and sets its readiness bit. -/
  | readinessBitSet (b : ReadyBit)
  /-- DIE_LOST (spec R304): A die becomes unreachable; its teams are abandoned and launches complete partially. -/
  | dieLost (d : DieIx)
  /-- DIE_LINK_PORT_FAILED (spec R8): One die-link port fails and the other carries its traffic. -/
  | dieLinkPortFailed (a b : DieIx)
  /-- LINK_FLIT_RETRY (spec R8): A flit with a CRC error is retried without reordering. -/
  | linkFlitRetry
  /-- BISUOSH_LANE_LOSS (spec R358): A port that loses lanes retrains at half bandwidth. -/
  | bisuoshLaneLoss (p : Fin 12)
  /-- BISUOSH_PORT_FAILED (spec R358): A failed port is removed from every route mask. -/
  | bisuoshPortFailed (p : Fin 12)
  /-- PEER_INBOUND_REQUEST (spec R359): An inbound peer request is checked against the grant table and served. -/
  | peerInboundRequest (src : Nat) (addr : Nat) (r : PeerReq)
  /-- PTP_MESSAGE (spec R309): A timed message from the selected time source steers REFT. -/
  | ptpMessage (time : DWord)
  /-- POWER_LIMIT_REACHED (spec R11): The power manager steps die frequencies down. -/
  | powerLimitReached
  /-- FREQUENCY_STEP (spec R312): A die starts a PLL relock and logs a step record. -/
  | frequencyStep (d : DieIx) (n : Nat) (lock : BitVec 16)
  /-- THERMAL_TRIP (spec R371): Junction temperature reaches 105 C and every clock stops. -/
  | thermalTrip
  /-- POWER_TRIP (spec R371): Power exceeds the limit at 0.6 GHz and every clock stops. -/
  | powerTrip
  /-- CORRECTED_ERROR_THRESHOLD (spec R366): A corrected-error count passes its threshold and cause 0x120 is recorded. -/
  | correctedErrorThreshold (u : Option (Fin 40))
  /-- HBM_ROW_SPARE (spec R368): The home slice copies a row into a spare and remaps it. -/
  | hbmRowSpare (k : Fin 8) (row : Nat)
  /-- CORE_RETIREMENT (spec R368): The management processor retires a core and clears its cluster bit. -/
  | coreRetirement (core : CoreIx)
  /-- HUB_INTERNAL_ERROR (spec R367): A hub internal error sets HUBERR with cause 0x1FF. -/
  | hubInternalError
  /-- STALL_SAMPLE (spec R339): Every core clock each quarter samples one group and counts the sample, with its reason and blame PC, in the sample table. -/
  | stallSample (core : CoreIx) (quarter : Fin 4) (reason : BitVec 4) (blame : Word) (reasonL : BitVec 4) (blameL : Word)
  /-- PCIE_LINK_DEGRADED (spec R367): The PCIe host link retrains at a lower width or rate and the LANEDEG service bit sets. -/
  | pcieLinkDegraded
  /-- MANAGEMENT_PROCESSOR_ACCESS (spec R364): A management-processor read or write is checked against the granted host windows and the sealed ranges, and is dropped or zeroed and counted when refused. -/
  | managementProcessorAccess (a : MpAccess)
  deriving DecidableEq, Repr

end Sys2Proof
end

