-- ==== Sys2Proof/Machine/Form.lean ====
section
/-! DEFINITION. The form of an instruction: which field values each opcode allows (spec/02 R25, R28-R38 and the field rules of the class chapters), as the
first cause of R38 that a bad operand raises. -/

namespace Sys2Proof.Machine

/-! ## Source fields -/

/-- kind[9:8] of a source field (spec/02 R30). -/
def srcKind (s : BitVec 10) : Nat := (s.extractLsb' 8 2).toNat

/-- index[7:0] of a source field (spec/02 R30). -/
def srcIx (s : BitVec 10) : Nat := (s.extractLsb' 0 8).toNat

/-- A latch source with index[7:2] nonzero raises 0x003 (spec/02 R30). -/
def srcLatchBad (s : BitVec 10) : Bool := srcKind s == 1 && decide (4 ≤ srcIx s)

/-- A special index of 0x04 and above raises 0x004, and so does 0x00 where IMM32 has its own meaning (spec/02 R30). -/
def srcSpecialBad (ownImm : Bool) (s : BitVec 10) : Bool :=
  srcKind s == 3 && (decide (4 ≤ srcIx s) || (ownImm && srcIx s == 0))

/-- A 64-bit operand in a register pair starts at an even index (spec/02 R30). -/
def srcOdd (s : BitVec 10) : Bool := (srcKind s == 0 || srcKind s == 2) && srcIx s % 2 == 1

/-! ## Lane opcodes -/

/-- What an opcode does with DST, DLAT and NOWB (spec/02 R29): no vector result, a vector result, a predicate result, or a scalar result. -/
inductive DstKind where
  | none | vec | pred | scalar
  deriving DecidableEq, Repr

/-- The field rules of one lane opcode. -/
structure LaneForm where
  useA    : Bool := false
  useB    : Bool := false
  useC    : Bool := false
  dst     : DstKind := .vec
  ownImm  : Bool := false
  /-- the opcode takes no type: TYPE is a reserved field (spec/02 R29) -/
  untyped : Bool := false
  /-- GUARD must be 0b0111 -/
  noGuard : Bool := false
  subOk   : BitVec 4 → Bool := fun s => s == 0
  immOk   : BitVec 32 → Bool := fun _ => true
  typeOk  : BitVec 4 → Bool := fun _ => true

def typeInt (t : BitVec 4) : Bool := decide (t.toNat < 8)
def typeLogic (t : BitVec 4) : Bool := t == 0 || t == 2
def typeWord (t : BitVec 4) : Bool := decide (t.toNat < 4)
def typeFloat (t : BitVec 4) : Bool := t == 8 || t == 9
def typeLoad (t : BitVec 4) : Bool := t == 0 || t == 2 || t == 4 || t == 5 || t == 6 || t == 7 || t == 15
def typeStore (t : BitVec 4) : Bool := t == 0 || t == 2 || t == 4 || t == 6 || t == 15

/-- SUB holds only a rounding mode (spec/02 R34). -/
def subRound (s : BitVec 4) : Bool := decide (s.toNat ≤ 4)
/-- SUB[35] free, SUB[34:32] a rounding mode. -/
def subRound3 (s : BitVec 4) : Bool := decide ((s.extractLsb' 0 3).toNat ≤ 4)
/-- SUB[34:32] zero, SUB[35] the saturate bit. -/
def subSat (s : BitVec 4) : Bool := s == 0 || s == 8

/-- IMM32 of the conversion words: formats in [4:0] and [12:8], block length in [16] (spec/02 R34). -/
def immCvt (block : Bool) (i : BitVec 32) : Bool :=
  i.extractLsb' 5 3 == 0 && i.extractLsb' 13 3 == 0 && i.extractLsb' 17 15 == 0 && (block || i.extractLsb' 16 1 == 0)

/-- IMM32 of the hash words (spec/09 R176). -/
def immHash (i : BitVec 32) : Bool :=
  (let k := (i.extractLsb' 8 3).toNat; k == 0 || k == 2 || k == 4) && i.extractLsb' 11 1 == 0 && i.extractLsb' 14 18 == 0

/-- The SCOPE code of a lane memory atomic (spec/13 R257). -/
def atomScope (i : BitVec 32) : Nat := (i.extractLsb' 16 3).toNat

def immAtom (noResult : Bool) (i : BitVec 32) : Bool :=
  (atomScope i == 2 || atomScope i == 4 || atomScope i == 5) && (!noResult || i.extractLsb' 19 13 == 0)

/-- The types each atomic operation accepts (spec/13 R255); `wide` allows 0xF for .cas. -/
def atomTypeOk (wide : Bool) (op : BitVec 4) (t : BitVec 4) : Bool :=
  match op.toNat with
  | 0 => typeWord t || typeFloat t || t == 11
  | 1 | 2 => typeWord t || typeFloat t
  | 3 | 4 | 5 => typeWord t
  | 6 => typeWord t || typeFloat t
  | 7 => typeWord t || typeFloat t || (wide && t == 15)
  | 8 => typeLogic t
  | _ => false

/-- The rules of an arithmetic row of spec/04 R76. -/
def formArith (c sat : Bool) : LaneForm :=
  { useA := true, useB := true, useC := c, subOk := fun s => s == 0 || (sat && s == 8), typeOk := typeInt }

def formFloat (a b c : Bool) (sub : BitVec 4 → Bool) : LaneForm :=
  { useA := a, useB := b, useC := c, subOk := sub, typeOk := typeFloat }

/-- The field rules of lane opcode opc under SUB, or none where the code is unassigned (spec/02 R36). An opcode whose sources may name IMM32 uses the field,
so any value of it is accepted there, named by a source or not.
Rests on notes/assumptions 15 (DEDUCED). -/
def laneForm (opc : Nat) (sub : BitVec 4) : Option LaneForm :=
  match opc with
  | 0x001 => some (formArith false true)
  | 0x002 => some (formArith false true)
  | 0x003 => some (formArith false true)
  | 0x004 => some (formArith false false)
  | 0x005 => some (formArith true true)
  | 0x006 => some { formArith true true with typeOk := fun t => t == 0 || t == 1 }
  | 0x007 => some { useA := true, useB := true, typeOk := typeLogic }
  | 0x008 => some { useA := true, useB := true, typeOk := typeLogic }
  | 0x009 => some { useA := true, useB := true, typeOk := typeLogic }
  | 0x00A => some { useA := true, useB := true, useC := true, ownImm := true, immOk := fun i => i.extractLsb' 8 24 == 0, typeOk := typeLogic }
  | 0x00B => some (formArith false false)
  | 0x00C => some (formArith false false)
  | 0x00D => some (formArith false false)
  | 0x00E => some (formArith false false)
  | 0x00F => some (formArith false false)
  | 0x010 => some (formArith false false)
  | 0x011 => some { useA := true, typeOk := typeLogic }
  | 0x012 => some { useA := true, typeOk := typeLogic }
  | 0x013 => some { useA := true, typeOk := typeLogic }
  | 0x014 => some { useA := true, useB := true, typeOk := fun t => t == 0 || t == 1 }
  | 0x015 => some { useA := true, useB := true, useC := true, typeOk := fun t => t == 0 }
  | 0x016 => some { useA := true, useB := true, subOk := fun _ => true, typeOk := typeLogic }
  | 0x017 => some { useA := true, useB := true, dst := .pred, subOk := fun s => decide (s.toNat ≤ 5), typeOk := typeInt }
  | 0x018 => some { useA := true, typeOk := typeLogic }
  | 0x019 => some { dst := .pred, ownImm := true, untyped := true,
                    immOk := fun i => i.extractLsb' 11 1 == 0 && i.extractLsb' 15 1 == 0 && i.extractLsb' 19 13 == 0 }
  | 0x080 => some (formFloat true true false subRound)
  | 0x081 => some (formFloat true true false subRound)
  | 0x082 => some (formFloat true true false subRound)
  | 0x083 => some (formFloat true true true subRound)
  | 0x084 => some (formFloat true true false fun s => decide (s.toNat ≤ 1))
  | 0x085 => some (formFloat true true false fun s => decide (s.toNat ≤ 1))
  | 0x086 => some { formFloat true true false (fun _ => true) with dst := .pred }
  | 0x087 => some (formFloat true false false fun s => s == 0)
  | 0x088 => some (formFloat true false false subRound)
  | 0x089 => some (formFloat true false false fun s => s == 0)
  | 0x08A => some { formFloat true false false (fun s => s == 0) with typeOk := fun t => t == 8 }
  | 0x08B => some { formFloat true false false (fun s => s == 0) with typeOk := fun t => t == 8 }
  | 0x08C => some (formFloat true false false fun s => s == 0)
  | 0x08D => some (formFloat true false false fun s => s == 0)
  | 0x08E => some (formFloat true false false subRound)
  | 0x08F => some (formFloat true true false subRound3)
  | 0x090 => some (formFloat true false false fun s => s == 0)
  | 0x0F0 => some { useA := true, ownImm := true, subOk := subRound3, immOk := immCvt false, typeOk := fun t => t == 15 }
  | 0x0F1 => some { useA := true, ownImm := true, subOk := fun s => subRound3 s && s.getLsbD 3, immOk := immCvt true, typeOk := fun t => t == 15 }
  | 0x0F2 => some { useA := true, ownImm := true, subOk := subRound3, immOk := immCvt true, typeOk := fun t => t == 15 }
  | 0x0F3 => some { useA := true, useB := true, ownImm := true, subOk := subRound3, immOk := immCvt false, typeOk := fun t => t == 15 }
  | 0x0F4 => some { useA := true, ownImm := true, subOk := subRound3, immOk := immCvt false, typeOk := fun t => t == 15 }
  | 0x110 => some { useA := true, useB := true, useC := true, subOk := fun s => decide (s.toNat < 4), typeOk := typeLogic }
  | 0x111 => some { useA := true, useB := sub == 0, useC := sub == 0, subOk := fun s => decide (s.toNat < 3), typeOk := typeLogic }
  | 0x112 => some { dst := if sub.getLsbD 3 then .vec else .scalar, ownImm := true, untyped := true, subOk := fun s => !s.getLsbD 2,
                    immOk := fun i => i.extractLsb' 4 28 == 0 }
  | 0x113 => some { useA := true, dst := .scalar, subOk := fun s => decide (s.toNat ≤ 5) || s == 8, typeOk := typeWord }
  | 0x114 => some { useA := true, subOk := fun s => decide ((s.extractLsb' 0 3).toNat ≤ 5), typeOk := typeWord }
  | 0x115 => some { useA := true, subOk := fun s => decide (s.toNat < 3), typeOk := typeWord }
  | 0x140 => some { dst := .none, ownImm := true, untyped := true, immOk := fun i => !(i.extractLsb' 0 16 == 0) }
  | 0x141 => some { useA := true, dst := .none, ownImm := true, untyped := true, noGuard := true,
                    subOk := fun s => decide (1 ≤ s.toNat) && decide (s.toNat ≤ 8), immOk := fun i => !(i.extractLsb' 0 16 == 0) }
  | 0x142 => some { dst := .none, ownImm := true, untyped := true, noGuard := true, immOk := fun i => i.extractLsb' 0 16 == 0 }
  | 0x143 => some { dst := .none, ownImm := true, untyped := true, noGuard := true, immOk := fun i => i.extractLsb' 0 16 == 0 }
  | 0x144 => some { dst := .none, ownImm := true, untyped := true, noGuard := true, immOk := fun i => i == 0 }
  | 0x145 => some { dst := .none, ownImm := true, untyped := true, immOk := fun i => !(i.extractLsb' 0 16 == 0) }
  | 0x146 => some { dst := .none, ownImm := true, untyped := true, immOk := fun i => i == 0 }
  | 0x147 => some { dst := .none, ownImm := true, untyped := true, noGuard := true, immOk := fun i => i == 0 }
  | 0x180 => some { useA := true, ownImm := true, typeOk := typeLoad }
  | 0x181 => some { useA := true, useB := true, dst := .none, ownImm := true, typeOk := typeStore }
  | 0x182 => some { useA := true, useB := true, ownImm := true, typeOk := typeLoad }
  | 0x183 => some { useA := true, useB := true, useC := true, dst := .none, ownImm := true, typeOk := typeStore }
  | 0x184 => some { useA := true, useB := true, ownImm := true, immOk := fun i => i.extractLsb' 5 27 == 0, typeOk := typeLoad }
  | 0x185 => some { useA := true, useB := true, useC := true, dst := .none, ownImm := true, immOk := fun i => i.extractLsb' 5 27 == 0, typeOk := typeStore }
  | 0x188 => some { useA := true, dst := .none, ownImm := true, untyped := true, immOk := fun i => i.extractLsb' 4 28 == 0 }
  | 0x189 => some { ownImm := true, untyped := true, immOk := fun i => i.extractLsb' 4 28 == 0 }
  | 0x18A => some { useA := sub.getLsbD 0, dst := if sub.getLsbD 0 then .none else .vec, ownImm := true, untyped := true,
                    subOk := fun s => decide (s.toNat ≤ 1), immOk := fun i => i.extractLsb' 4 4 == 0 && i.extractLsb' 11 21 == 0 }
  | 0x18B => some { useA := true, dst := .none, ownImm := true, untyped := true, immOk := fun i => i.extractLsb' 4 28 == 0 }
  | 0x190 => some { dst := .none, ownImm := true, untyped := true, immOk := fun i => i.extractLsb' 4 4 == 0 && i.extractLsb' 13 19 == 0 }
  | 0x1C0 => some { useA := true, useB := true, ownImm := true, immOk := immHash, typeOk := fun t => t == 0 }
  | 0x1C1 => some { useA := true, ownImm := true, immOk := immHash, typeOk := fun t => t == 0 }
  | 0x1C2 => some { useA := true, ownImm := true, immOk := immHash, typeOk := fun t => t == 0 }
  | 0x1C3 => some { useA := true, useB := true, ownImm := true, subOk := fun s => decide (s.toNat < 4), immOk := immHash, typeOk := fun t => t == 0 }
  | 0x1E0 => some { useA := true, useB := true, useC := sub == 7, ownImm := true, subOk := fun s => decide (s.toNat ≤ 8), typeOk := atomTypeOk false sub }
  | 0x1E1 => some { useA := true, useB := true, useC := sub == 7, dst := .none, ownImm := true, subOk := fun s => decide (s.toNat ≤ 8),
                    immOk := immAtom false, typeOk := atomTypeOk true sub }
  | 0x1E2 => some { useA := true, useB := true, useC := true, dst := .none, ownImm := true, immOk := immAtom false, typeOk := typeLogic }
  | 0x1E3 => some { useA := true, useB := true, dst := .none, ownImm := true, immOk := immAtom false, typeOk := typeLogic }
  | 0x1E4 => some { useA := true, useB := true, dst := .none, ownImm := true, subOk := fun s => decide (s.toNat ≤ 5), immOk := immAtom true,
                    typeOk := atomTypeOk false sub }
  | 0x1E8 => some { dst := .none, ownImm := true, untyped := true, noGuard := true, subOk := fun s => decide (s.toNat < 4),
                    immOk := fun i => decide (i.toNat ≤ 5) }
  | 0x200 => some { useA := true, dst := .none, untyped := true }
  | 0x201 => some { useA := true, untyped := true }
  | 0x202 => some { useA := true, dst := .none, untyped := true }
  | 0x203 => some { dst := .none, ownImm := true, untyped := true, immOk := fun i => i == 0 }
  | _ => none

/-! ## Field checks in the order of spec/02 R38 -/

/-- The reserved-field step: 0x003 for a field whose legal values do not depend on TYPE or a format code. TYPE is such a field for an opcode that takes no
type (R29, R81, R241); IMM32 that no source names is not (f.immOk).
Rests on notes/assumptions 15 (DEDUCED). -/
def laneReservedBad (f : LaneForm) (w : LaneWord) : Bool :=
  w.guard == 15 || (f.noGuard && !(w.guard == 7)) || (w.nowb && !(w.dst == 0)) ||
  (match f.dst with
   | .vec => false
   | .none => !(w.dst == 0) || !(w.dlat == 0) || w.nowb
   | .pred => !(w.dst.extractLsb' 3 5 == 0) || !(w.dlat == 0) || w.nowb
   | .scalar => !(w.dlat == 0) || w.nowb) ||
  (!f.useA && !(w.srcA == 0)) || (!f.useB && !(w.srcB == 0)) || (!f.useC && !(w.srcC == 0)) ||
  srcLatchBad w.srcA || srcLatchBad w.srcB || srcLatchBad w.srcC ||
  !f.subOk w.sub || !f.immOk w.imm || (f.untyped && !(w.type == 0))

/-- The special-source step: 0x004. -/
def laneSpecialBad (f : LaneForm) (w : LaneWord) : Bool :=
  srcSpecialBad f.ownImm w.srcA || srcSpecialBad f.ownImm w.srcB || srcSpecialBad f.ownImm w.srcC

/-- The extended formats of the conversion words that each accepts (spec/05 R105): source, then destination. -/
def cvtFormatOk (opc : Nat) (fs fd : Nat) : Bool :=
  let narrow (n : Nat) : Bool := decide (4 ≤ n ∧ n ≤ 7) || decide (10 ≤ n ∧ n ≤ 13)
  match opc with
  | 0x0F0 => (decide (fs ≤ 13) || fs == 15 || fs == 16 || fs == 17) && (decide (fd ≤ 13) || fd == 15 || fd == 16)
  | 0x0F3 => (fs == 0 || fs == 1 || fs == 8 || narrow fs || fs == 15 || fs == 16 || fs == 17) && narrow fd
  | 0x0F4 => narrow fs && (fd == 0 || fd == 1 || fd == 8 || narrow fd || fd == 15 || fd == 16)
  | 0x0F1 => (fs == 8 || fs == 10 || fs == 11) && (fd == 12 || fd == 13 || fd == 14)
  | 0x0F2 => (fs == 12 || fs == 13 || fs == 14) && (fd == 8 || fd == 9 || fd == 10 || fd == 11)
  | _ => true

/-- An integer format code (spec/05 R100). -/
def fmtIsInt (n : Nat) : Bool := decide (n ≤ 7) || n == 15 || n == 16

/-- The type step: 0x005, then the field checks whose legal values depend on the type or the formats, which raise 0x003. -/
def laneTypeBad (opc : Nat) (f : LaneForm) (w : LaneWord) : Option Cause :=
  let fs := (w.imm.extractLsb' 0 5).toNat
  let fd := (w.imm.extractLsb' 8 5).toNat
  if !f.typeOk w.type || !cvtFormatOk opc fs fd then some 0x005
  else if decide (0x0F0 ≤ opc ∧ opc ≤ 0x0F4) && fmtIsInt fs && fmtIsInt fd && !(w.sub.extractLsb' 0 3 == 0) then some 0x003
  else if opc == 0x181 && w.type == 15 && !(srcKind w.srcB == 0) then some 0x003
  else if (opc == 0x183 || opc == 0x185) && w.type == 15 && !(srcKind w.srcC == 0) then some 0x003
  else if opc == 0x1E1 && w.type == 15 && (!(srcKind w.srcB == 0) || !(srcKind w.srcC == 0) || atomScope w.imm == 2) then some 0x003
  else if opc == 0x1E2 && w.type == 2 && (!(srcKind w.srcB == 0) || !(srcKind w.srcC == 0)) then some 0x003
  else none

/-- The widths in words of DST, SRCA, SRCB and SRCC: a width of 2 needs an even index, a width of 4 a multiple of 4 (spec/02 R30, spec/08 R153). -/
def laneWidths (opc : Nat) (w : LaneWord) : Nat × Nat × Nat × Nat :=
  let t := w.type.toNat
  let p := if t == 2 || t == 3 || t == 9 then 2 else 1
  let m := if t == 2 then 2 else if t == 15 then 4 else 1
  let a := if t == 2 || t == 3 || t == 9 then 2 else if t == 15 then 4 else 1
  let f64 (n : Nat) : Nat := if n == 2 || n == 3 || n == 9 then 2 else 1
  let fs := f64 (w.imm.extractLsb' 0 5).toNat
  let fd := f64 (w.imm.extractLsb' 8 5).toNat
  match opc with
  | 0x006 => (2, 1, 1, 2)
  | 0x00B | 0x00C | 0x00D => (p, p, 1, 1)
  | 0x014 => (1, 1, 1, 1)
  | 0x015 => (1, 1, 1, 1)
  | 0x017 | 0x086 => (1, p, p, 1)
  | 0x019 => (1, 1, 1, 1)
  | 0x087 | 0x090 => (1, p, 1, 1)
  | 0x08F => (p, p, if w.sub.getLsbD 3 then 1 else p, 1)
  | 0x0F0 | 0x0F2 => (fd, fs, 1, 1)
  | 0x0F1 | 0x0F3 => (1, 1, 1, 1)
  | 0x0F4 => (2, 1, 1, 1)
  | 0x110 | 0x111 => (p, p, 1, p)
  | 0x112 => (if w.sub.extractLsb' 0 2 == 0 then 2 else 1, 1, 1, 1)
  | 0x115 => (if w.sub == 0 then 2 else p, p, 1, 1)
  | 0x180 | 0x182 | 0x184 => (m, 1, 1, 1)
  | 0x181 => (1, 1, m, 1)
  | 0x183 | 0x185 => (1, 1, 1, m)
  | 0x1E0 => (p, 1, p, p)
  | 0x1E1 => (1, 1, a, a)
  | 0x1E2 => (1, 2, if t == 2 then 4 else 2, if t == 2 then 4 else 2)
  | 0x1E3 => (1, 2, p, 1)
  | 0x1E4 => (1, 1, p, 1)
  | _ => if decide (0x140 ≤ opc) then (1, 1, 1, 1) else (p, p, p, p)

/-- A source of the given width in words at a misaligned index. -/
def srcMisaligned (n : Nat) (s : BitVec 10) : Bool :=
  (srcKind s == 0 || srcKind s == 2) && decide (1 < n) && !(srcIx s % n == 0)

/-- The alignment step: 0x006. -/
def laneMisaligned (opc : Nat) (w : LaneWord) : Bool :=
  let (d, a, b, c) := laneWidths opc w
  !(w.dst.toNat % d == 0) || srcMisaligned a w.srcA || srcMisaligned b w.srcB || srcMisaligned c w.srcC

/-- The first decode cause that the fields of lane opcode opc raise, in the order of spec/02 R38; the chain rules of R32 come at issue. -/
def laneFault (opc : Nat) (w : LaneWord) : Option Cause :=
  match laneForm opc w.sub with
  | none => some 0x001
  | some f =>
    if laneReservedBad f w then some 0x003
    else if laneSpecialBad f w then some 0x004
    else match laneTypeBad opc f w with
      | some c => some c
      | none => if laneMisaligned opc w then some 0x006 else none

/-! ## Scalar operands -/

def pairBad (r : BitVec 8) : Bool := !(r.toNat % 2 == 0)
def quadBad (r : BitVec 8) : Bool := !(r.toNat % 4 == 0)
def octBad (r : BitVec 8) : Bool := !(r.toNat % 8 == 0)

/-- 0x043 for a misaligned register group (spec/02 R25). -/
def groupFault (bad : Bool) : Option Cause := if bad then some 0x043 else none

/-- Scope codes 6 and 7 raise 0x041 (spec/02 R28). -/
def scopeFault (s : BitVec 3) : Option Cause := if decide (6 ≤ s.toNat) then some 0x041 else none

/-- QG 0b1111 raises 0x041 (spec/02 R23). -/
def guardFault (g : BitVec 4) : Option Cause := if g == 15 then some 0x041 else none

end Sys2Proof.Machine
end

