-- ==== Sys2Proof/Machine/Checks.lean ====
section
/-! DEFINITION. The operand checks of an instruction: the first cause of spec/02 R38 that its fields raise, or none. -/

namespace Sys2Proof.Machine

/-- The cause of a misaligned register group, a reserved scope or guard code, or a lane field rule (spec/02 R23, R25, R28-R38). -/
def formFault (i : Instr) : Option Cause :=
  match i with
  | .sad64 d a _ => groupFault (pairBad d || pairBad a)
  | .smad64 d a _ => groupFault (pairBad d || pairBad a)
  | .sldsD d _ _ => groupFault (pairBad d)
  | .sstsD d _ _ => groupFault (pairBad d)
  | .sbr g _ => guardFault g
  | .scall g _ => guardFault g
  | .cten d _ => groupFault (octBad d)
  | .cgth d _ => groupFault (octBad d)
  | .csct d _ => groupFault (octBad d)
  | .cpack d _ => groupFault (octBad d)
  | .cunpk d _ => groupFault (octBad d)
  | .cfill d _ => groupFault (octBad d)
  | .hclaim a _ => groupFault (quadBad a)
  | .hstat d _ => groupFault (quadBad d)
  | .hdrain d _ => groupFault (quadBad d)
  | .mma d _ _ _ => groupFault (pairBad d)
  | .mmaSpec d _ _ _ _ => groupFault (pairBad d)
  | .mmas d _ _ _ => groupFault (pairBad d)
  | .mmasSpec d _ _ _ _ => groupFault (pairBad d)
  | .tshape d _ => groupFault (pairBad d)
  | .fenceAcq s => scopeFault s
  | .fenceRel s => scopeFault s
  | .fenceAcqrel s => scopeFault s
  | .fenceSc s => scopeFault s
  | .pbind d _ _ => groupFault (octBad d)
  | .pacqGe _ b => groupFault (pairBad b)
  | .pacqEq _ b => groupFault (pairBad b)
  | .pacqNe _ b => groupFault (pairBad b)
  | .prelAdd _ b => groupFault (pairBad b)
  | .prelSet _ b => groupFault (pairBad b)
  | .ptest d _ => groupFault (pairBad d)
  | .rcomb _ b => groupFault (pairBad b)
  | .waitaGe _ a b => groupFault (pairBad a || pairBad b)
  | .waitaEq _ a b => groupFault (pairBad a || pairBad b)
  | .waitaNe _ a b => groupFault (pairBad a || pairBad b)
  | .lnch a => groupFault (pairBad a)
  | .cntr d _ => groupFault (pairBad d)
  | .tref d => groupFault (pairBad d)
  | .twait a => groupFault (pairBad a)
  | .vadd w => laneFault 0x001 w
  | .vsub w => laneFault 0x002 w
  | .vmul w => laneFault 0x003 w
  | .vmulh w => laneFault 0x004 w
  | .vmad w => laneFault 0x005 w
  | .vmadw w => laneFault 0x006 w
  | .vand w => laneFault 0x007 w
  | .vor w => laneFault 0x008 w
  | .vxor w => laneFault 0x009 w
  | .vlop3 w => laneFault 0x00A w
  | .vshl w => laneFault 0x00B w
  | .vshr w => laneFault 0x00C w
  | .vrot w => laneFault 0x00D w
  | .vmin w => laneFault 0x00E w
  | .vmax w => laneFault 0x00F w
  | .vabsd w => laneFault 0x010 w
  | .vclz w => laneFault 0x011 w
  | .vpopc w => laneFault 0x012 w
  | .vbrev w => laneFault 0x013 w
  | .vbfe w => laneFault 0x014 w
  | .vbfi w => laneFault 0x015 w
  | .vsel w => laneFault 0x016 w
  | .vcmp w => laneFault 0x017 w
  | .vmov w => laneFault 0x018 w
  | .vpset w => laneFault 0x019 w
  | .fadd w => laneFault 0x080 w
  | .fsub w => laneFault 0x081 w
  | .fmul w => laneFault 0x082 w
  | .ffma w => laneFault 0x083 w
  | .fmin w => laneFault 0x084 w
  | .fmax w => laneFault 0x085 w
  | .fcmp w => laneFault 0x086 w
  | .fclass w => laneFault 0x087 w
  | .frnd w => laneFault 0x088 w
  | .ffrc w => laneFault 0x089 w
  | .fexf w => laneFault 0x08A w
  | .flg2 w => laneFault 0x08B w
  | .frcp w => laneFault 0x08C w
  | .frsq w => laneFault 0x08D w
  | .fsqrt w => laneFault 0x08E w
  | .finsx w => laneFault 0x08F w
  | .fexpx w => laneFault 0x090 w
  | .cvt w => laneFault 0x0F0 w
  | .cvtq w => laneFault 0x0F1 w
  | .cvtd w => laneFault 0x0F2 w
  | .pk2 w => laneFault 0x0F3 w
  | .upk2 w => laneFault 0x0F4 w
  | .vshfl w => laneFault 0x110 w
  | .vbcst w => laneFault 0x111 w
  | .vvote w => laneFault 0x112 w
  | .vredx w => laneFault 0x113 w
  | .vscan w => laneFault 0x114 w
  | .vmatch w => laneFault 0x115 w
  | .vbr w => laneFault 0x140 w
  | .vswitch w => laneFault 0x141 w
  | .vjmp w => laneFault 0x142 w
  | .vcall w => laneFault 0x143 w
  | .vret w => laneFault 0x144 w
  | .vbrk w => laneFault 0x145 w
  | .vexit w => laneFault 0x146 w
  | .vstop w => laneFault 0x147 w
  | .lds w => laneFault 0x180 w
  | .sts w => laneFault 0x181 w
  | .ldsh w => laneFault 0x182 w
  | .stsh w => laneFault 0x183 w
  | .ldtr w => laneFault 0x184 w
  | .sttr w => laneFault 0x185 w
  | .qpush w => laneFault 0x188 w
  | .qpop w => laneFault 0x189 w
  | .qtryPop w => if w.sub.getLsbD 0 then some 0x003 else laneFault 0x18A w
  | .qtryPush w => if w.sub.getLsbD 0 then laneFault 0x18A w else some 0x003
  | .qallow w => laneFault 0x18B w
  | .bar w => laneFault 0x190 w
  | .hins w => laneFault 0x1C0 w
  | .hprb w => laneFault 0x1C1 w
  | .hdel w => laneFault 0x1C2 w
  | .hacc w => laneFault 0x1C3 w
  | .ats w => laneFault 0x1E0 w
  | .atm w => laneFault 0x1E1 w
  | .adcas w => laneFault 0x1E2 w
  | .axmv w => laneFault 0x1E3 w
  | .ared w => laneFault 0x1E4 w
  | .laneFence w => laneFault 0x1E8 w
  | .lanePmark w => laneFault 0x200 w
  | .lanePcnt w => laneFault 0x201 w
  | .laneRace w => laneFault 0x202 w
  | .laneDstop w => laneFault 0x203 w
  | .sadd .. | .ssub .. | .smul .. | .smulh .. | .smin .. | .smax .. | .sminN .. | .smaxN .. | .sand .. | .sor .. | .sxor .. | .smulhN ..
  | .sshl .. | .sshr .. | .ssra .. | .smov .. | .scmpEq .. | .scmpNe .. | .scmpLt .. | .scmpLe .. | .scmpLtN .. | .scmpLeN .. | .sclz ..
  | .spopc .. | .sselQ0Q3 .. | .sselQ4Q7 .. | .sbfe .. | .sbfeI .. | .sbfi .. | .saddi .. | .slds .. | .ssts .. | .sli .. | .slui .. | .ximm ..
  | .sjmp .. | .sret | .sloop .. | .lrun .. | .lwait .. | .srd .. | .swr .. | .cbatch .. | .cwait .. | .crows .. | .cstat .. | .ccncl .. | .hrel ..
  | .mzero .. | .mwait .. | .mwaitAll | .mpri .. | .mout .. | .moutS .. | .cncl .. | .gexit | .trap .. | .brk | .eret | .snop | .spresize ..
  | .srdp .. | .swrp .. | .pmark .. | .pcnt .. | .race .. | .dstop | .nonInstructionWord .. | .launchPacket .. | .graphPacket .. | .fencePacket ..
  | .signalPacket .. | .timestampPacket .. | .cancelPacket .. | .traceOpen .. | .traceClose .. | .traceFlush .. | .nopPacket .. | .queueDoorbell ..
  | .queueStateWrite .. | .queueReset .. | .counterTargetWrite .. | .slotRecordWrite .. | .shapeEntryCommit .. | .contextDescriptorWrite ..
  | .replyRetry .. | .replyFail .. | .invalidation .. | .ringStatusClear .. | .stopRequest .. | .resumeCommand .. | .partitionSwitch ..
  | .partitionSeal .. | .partitionScrub .. | .tdpWrite .. | .serviceClear .. | .measurementExtend .. | .quoteRequest .. | .registerWrite ..
  | .barAtomicop .. | .deviceReset .. | .firmwareBoot .. | .readinessBitSet .. | .dieLost .. | .dieLinkPortFailed .. | .linkFlitRetry ..
  | .bisuoshLaneLoss .. | .bisuoshPortFailed .. | .peerInboundRequest .. | .ptpMessage .. | .powerLimitReached .. | .frequencyStep ..
  | .relockEnd .. | .thermalTrip .. | .powerTrip .. | .correctedErrorThreshold .. | .hbmRowSpare .. | .coreRetirement .. | .hubInternalError ..
  | .teamPlacement .. | .nodeEntersPool .. | .laneBlockStart .. | .splitArrival .. | .pathEntryLoad .. | .guidonResolution .. | .queueDeadlock ..
  | .issuePromotion .. | .sampleSpill .. | .copyElementTranslate .. | .translationFault .. | .copyRowLanded .. | .commandEnd ..
  | .combiningEntryEvict .. | .clusterAtomicWriteback .. | .homeReduction .. | .waitaMonitorSatisfied .. | .pacqSatisfied ..
  | .rcombRoundComplete .. | .matrixPass .. | .mzeroStep .. | .moutStep .. | .arbiterStarvation .. | .twaitExpiry .. | .teamStartTime ..
  | .fenceHostPoll .. | .teamRetire .. | .launchComplete .. | .faultSave .. | .teamRestore .. | .haltTimeout .. | .asyncTrapDelivery ..
  | .recordWrite .. | .streamerRecordWrite .. | .cacheWriteBack .. | .stallSample .. | .pcieLinkDegraded .. | .managementProcessorAccess .. => none

end Sys2Proof.Machine
end

