-- ==== Sys2Proof/WellFormed.lean ====
section
/-! DEFINITION. An instruction whose operands the spec allows: the decoder answers no other. -/

namespace Sys2Proof.WellFormed

/-- No field of i raises a decode cause (spec/02 R37, R38). -/
def wf (i : Instr) : Bool := (Machine.formFault i).isNone

end Sys2Proof.WellFormed
end

