-- ==== Sys2Proof/Decode.lean ====
section
/-! DEFINITION. The decoder of scalar and lane words (spec/02 R21-R38), total on any bits and rejecting by cause, and the encoder written from the same
tables. -/

namespace Sys2Proof

open Sys2Proof.Machine

/-! ## Scalar words -/

/-- Ends the decoding of a scalar word: a nonzero reserved bit raises 0x041, then the operands' own checks apply (spec/02 R23, R25, R38). -/
def finishScalar (reserved w : BitVec 32) (i : Instr) : Except Cause Instr :=
  if w &&& reserved = 0 then
    match formFault i with
    | some c => .error c
    | none => .ok i
  else .error 0x041

/-- The instruction of a scalar word, or the first cause it raises alone (spec/02 R27, R28, R37, R38); a trap names 0x040 for an unassigned opcode. -/
def decodeScalar (w : BitVec 32) : Except Cause Instr :=
  let fn := (w.extractLsb' 0 2).toNat
  match (w.extractLsb' 26 6).toNat with
  | 0x01 =>
    match fn with
    | 0 => finishScalar 0x00000000 w (.sadd (w.extractLsb' 18 8) (w.extractLsb' 10 8) (w.extractLsb' 2 8))
    | 1 => finishScalar 0x00000000 w (.ssub (w.extractLsb' 18 8) (w.extractLsb' 10 8) (w.extractLsb' 2 8))
    | 2 => finishScalar 0x00000000 w (.smul (w.extractLsb' 18 8) (w.extractLsb' 10 8) (w.extractLsb' 2 8))
    | _ => finishScalar 0x00000000 w (.smulh (w.extractLsb' 18 8) (w.extractLsb' 10 8) (w.extractLsb' 2 8))
  | 0x02 =>
    match fn with
    | 0 => finishScalar 0x00000000 w (.smin (w.extractLsb' 18 8) (w.extractLsb' 10 8) (w.extractLsb' 2 8))
    | 1 => finishScalar 0x00000000 w (.smax (w.extractLsb' 18 8) (w.extractLsb' 10 8) (w.extractLsb' 2 8))
    | 2 => finishScalar 0x00000000 w (.sminN (w.extractLsb' 18 8) (w.extractLsb' 10 8) (w.extractLsb' 2 8))
    | _ => finishScalar 0x00000000 w (.smaxN (w.extractLsb' 18 8) (w.extractLsb' 10 8) (w.extractLsb' 2 8))
  | 0x03 =>
    match fn with
    | 0 => finishScalar 0x00000000 w (.sand (w.extractLsb' 18 8) (w.extractLsb' 10 8) (w.extractLsb' 2 8))
    | 1 => finishScalar 0x00000000 w (.sor (w.extractLsb' 18 8) (w.extractLsb' 10 8) (w.extractLsb' 2 8))
    | 2 => finishScalar 0x00000000 w (.sxor (w.extractLsb' 18 8) (w.extractLsb' 10 8) (w.extractLsb' 2 8))
    | _ => finishScalar 0x00000000 w (.smulhN (w.extractLsb' 18 8) (w.extractLsb' 10 8) (w.extractLsb' 2 8))
  | 0x04 =>
    match fn with
    | 0 => finishScalar 0x00000000 w (.sshl (w.extractLsb' 18 8) (w.extractLsb' 10 8) (w.extractLsb' 2 8))
    | 1 => finishScalar 0x00000000 w (.sshr (w.extractLsb' 18 8) (w.extractLsb' 10 8) (w.extractLsb' 2 8))
    | 2 => finishScalar 0x00000000 w (.ssra (w.extractLsb' 18 8) (w.extractLsb' 10 8) (w.extractLsb' 2 8))
    | _ => finishScalar 0x000003FC w (.smov (w.extractLsb' 18 8) (w.extractLsb' 10 8))
  | 0x05 =>
    match fn with
    | 0 => finishScalar 0x03E00000 w (.scmpEq (w.extractLsb' 18 3) (w.extractLsb' 10 8) (w.extractLsb' 2 8))
    | 1 => finishScalar 0x03E00000 w (.scmpNe (w.extractLsb' 18 3) (w.extractLsb' 10 8) (w.extractLsb' 2 8))
    | 2 => finishScalar 0x03E00000 w (.scmpLt (w.extractLsb' 18 3) (w.extractLsb' 10 8) (w.extractLsb' 2 8))
    | _ => finishScalar 0x03E00000 w (.scmpLe (w.extractLsb' 18 3) (w.extractLsb' 10 8) (w.extractLsb' 2 8))
  | 0x06 =>
    match fn with
    | 0 => finishScalar 0x03E00000 w (.scmpLtN (w.extractLsb' 18 3) (w.extractLsb' 10 8) (w.extractLsb' 2 8))
    | 1 => finishScalar 0x03E00000 w (.scmpLeN (w.extractLsb' 18 3) (w.extractLsb' 10 8) (w.extractLsb' 2 8))
    | 2 => finishScalar 0x000003FC w (.sclz (w.extractLsb' 18 8) (w.extractLsb' 10 8))
    | _ => finishScalar 0x000003FC w (.spopc (w.extractLsb' 18 8) (w.extractLsb' 10 8))
  | 0x07 => finishScalar 0x00000000 w (.sselQ0Q3 (w.extractLsb' 18 8) (w.extractLsb' 10 8) (w.extractLsb' 2 8) (w.extractLsb' 0 2))
  | 0x08 => finishScalar 0x00000000 w (.sselQ4Q7 (w.extractLsb' 18 8) (w.extractLsb' 10 8) (w.extractLsb' 2 8) (w.extractLsb' 0 2))
  | 0x09 =>
    match fn with
    | 0 => finishScalar 0x00000000 w (.sad64 (w.extractLsb' 18 8) (w.extractLsb' 10 8) (w.extractLsb' 2 8))
    | 1 => finishScalar 0x00000000 w (.smad64 (w.extractLsb' 18 8) (w.extractLsb' 10 8) (w.extractLsb' 2 8))
    | _ => .error 0x040
  | 0x0A =>
    match fn with
    | 0 => finishScalar 0x00000000 w (.sbfe (w.extractLsb' 18 8) (w.extractLsb' 10 8) (w.extractLsb' 2 8))
    | 1 => finishScalar 0x00000000 w (.sbfeI (w.extractLsb' 18 8) (w.extractLsb' 10 8) (w.extractLsb' 2 8))
    | 2 => finishScalar 0x00000000 w (.sbfi (w.extractLsb' 18 8) (w.extractLsb' 10 8) (w.extractLsb' 2 8))
    | _ => .error 0x040
  | 0x0C => finishScalar 0x00000000 w (.saddi (w.extractLsb' 18 8) (w.extractLsb' 10 8) (w.extractLsb' 0 10))
  | 0x0D => finishScalar 0x00000000 w (.slds (w.extractLsb' 18 8) (w.extractLsb' 10 8) (w.extractLsb' 0 10))
  | 0x0E => finishScalar 0x00000000 w (.sldsD (w.extractLsb' 18 8) (w.extractLsb' 10 8) (w.extractLsb' 0 10))
  | 0x0F => finishScalar 0x00000000 w (.ssts (w.extractLsb' 18 8) (w.extractLsb' 10 8) (w.extractLsb' 0 10))
  | 0x10 => finishScalar 0x00000000 w (.sstsD (w.extractLsb' 18 8) (w.extractLsb' 10 8) (w.extractLsb' 0 10))
  | 0x14 => finishScalar 0x00000000 w (.sli (w.extractLsb' 18 8) (w.extractLsb' 0 18))
  | 0x15 => finishScalar 0x00000000 w (.slui (w.extractLsb' 18 8) (w.extractLsb' 0 18))
  | 0x16 => finishScalar 0x03C00000 w (.ximm (w.extractLsb' 0 22))
  | 0x17 => finishScalar 0x00000000 w (.sbr (w.extractLsb' 22 4) (w.extractLsb' 0 22))
  | 0x18 =>
    match fn with
    | 0 => finishScalar 0x03FC03FC w (.sjmp (w.extractLsb' 10 8))
    | 1 => finishScalar 0x03FFFFFC w (.sret)
    | _ => .error 0x040
  | 0x19 => finishScalar 0x00000000 w (.scall (w.extractLsb' 22 4) (w.extractLsb' 0 22))
  | 0x1A => finishScalar 0x0003FC00 w (.sloop (w.extractLsb' 18 8) (w.extractLsb' 0 10))
  | 0x1B => finishScalar 0x0003FC00 w (.lrun (w.extractLsb' 18 8) (w.extractLsb' 0 10))
  | 0x1C =>
    match fn with
    | 0 => finishScalar 0x03FC03FC w (.lwait (w.extractLsb' 10 8))
    | _ => .error 0x040
  | 0x1D => finishScalar 0x0003FC00 w (.srd (w.extractLsb' 18 8) (w.extractLsb' 0 10))
  | 0x1E => finishScalar 0x03FC0000 w (.swr (w.extractLsb' 10 8) (w.extractLsb' 0 10))
  | 0x20 =>
    match fn with
    | 0 => finishScalar 0x00000000 w (.cten (w.extractLsb' 18 8) (w.extractLsb' 2 16))
    | 1 => finishScalar 0x00000000 w (.cgth (w.extractLsb' 18 8) (w.extractLsb' 2 16))
    | 2 => finishScalar 0x00000000 w (.csct (w.extractLsb' 18 8) (w.extractLsb' 2 16))
    | _ => .error 0x040
  | 0x21 =>
    match fn with
    | 0 => finishScalar 0x00000000 w (.cpack (w.extractLsb' 18 8) (w.extractLsb' 2 16))
    | 1 => finishScalar 0x00000000 w (.cunpk (w.extractLsb' 18 8) (w.extractLsb' 2 16))
    | 2 => finishScalar 0x00000000 w (.cfill (w.extractLsb' 18 8) (w.extractLsb' 2 16))
    | _ => .error 0x040
  | 0x22 =>
    match fn with
    | 0 => finishScalar 0x0003FFFC w (.cbatch (w.extractLsb' 18 8))
    | 1 => finishScalar 0x03FC03FC w (.cwait (w.extractLsb' 10 8))
    | 2 => finishScalar 0x03FC0000 w (.crows (w.extractLsb' 10 8) (w.extractLsb' 2 8))
    | _ => finishScalar 0x000003FC w (.cstat (w.extractLsb' 18 8) (w.extractLsb' 10 8))
  | 0x23 =>
    match fn with
    | 0 => finishScalar 0x03FC03FC w (.ccncl (w.extractLsb' 10 8))
    | _ => .error 0x040
  | 0x28 => finishScalar 0x03FC03FC w (.hclaim (w.extractLsb' 10 8) (w.extractLsb' 0 2))
  | 0x29 => finishScalar 0x03FFFFFC w (.hrel (w.extractLsb' 0 2))
  | 0x2A => finishScalar 0x0003FFFC w (.hstat (w.extractLsb' 18 8) (w.extractLsb' 0 2))
  | 0x2B => finishScalar 0x0003FFFC w (.hdrain (w.extractLsb' 18 8) (w.extractLsb' 0 2))
  | 0x2C =>
    match fn with
    | 0 => finishScalar 0x00000380 w (.mma (w.extractLsb' 18 8) (w.extractLsb' 15 3) (w.extractLsb' 10 5) (w.extractLsb' 2 5))
    | 1 => finishScalar 0x00000000 w (.mmaSpec (w.extractLsb' 18 8) (w.extractLsb' 15 3) (w.extractLsb' 10 5) (w.extractLsb' 7 3) (w.extractLsb' 2 5))
    | 2 => finishScalar 0x00000380 w (.mmas (w.extractLsb' 18 8) (w.extractLsb' 15 3) (w.extractLsb' 10 5) (w.extractLsb' 2 5))
    | _ => finishScalar 0x00000000 w (.mmasSpec (w.extractLsb' 18 8) (w.extractLsb' 15 3) (w.extractLsb' 10 5) (w.extractLsb' 7 3) (w.extractLsb' 2 5))
  | 0x2D =>
    match fn with
    | 0 => finishScalar 0x03FC7FFC w (.mzero (w.extractLsb' 15 3))
    | 1 => if w.getLsbD 2 then finishScalar 0x03FFFFF8 w (.mwaitAll) else finishScalar 0x03FC7FF8 w (.mwait (w.extractLsb' 15 3))
    | 2 => finishScalar 0x03FC03FC w (.mpri (w.extractLsb' 10 8))
    | _ => .error 0x040
  | 0x2E =>
    match fn with
    | 0 => finishScalar 0x00007F80 w (.mout (w.extractLsb' 18 8) (w.extractLsb' 15 3) (w.extractLsb' 2 5))
    | 1 => finishScalar 0x00007C00 w (.moutS (w.extractLsb' 18 8) (w.extractLsb' 15 3) (w.extractLsb' 2 8))
    | _ => .error 0x040
  | 0x2F =>
    match fn with
    | 0 => finishScalar 0x000383FC w (.tshape (w.extractLsb' 18 8) (w.extractLsb' 10 5))
    | _ => .error 0x040
  | 0x32 =>
    match fn with
    | 0 => finishScalar 0x03FFFFE0 w (.fenceAcq (w.extractLsb' 2 3))
    | 1 => finishScalar 0x03FFFFE0 w (.fenceRel (w.extractLsb' 2 3))
    | 2 => finishScalar 0x03FFFFE0 w (.fenceAcqrel (w.extractLsb' 2 3))
    | _ => finishScalar 0x03FFFFE0 w (.fenceSc (w.extractLsb' 2 3))
  | 0x33 => finishScalar 0x000003FC w (.pbind (w.extractLsb' 18 8) (w.extractLsb' 10 8) (w.extractLsb' 0 2))
  | 0x34 =>
    match fn with
    | 0 => finishScalar 0x03FC0000 w (.pacqGe (w.extractLsb' 10 8) (w.extractLsb' 2 8))
    | 1 => finishScalar 0x03FC0000 w (.pacqEq (w.extractLsb' 10 8) (w.extractLsb' 2 8))
    | 2 => finishScalar 0x03FC0000 w (.pacqNe (w.extractLsb' 10 8) (w.extractLsb' 2 8))
    | _ => .error 0x040
  | 0x35 =>
    match fn with
    | 0 => finishScalar 0x03FC0000 w (.prelAdd (w.extractLsb' 10 8) (w.extractLsb' 2 8))
    | 1 => finishScalar 0x03FC0000 w (.prelSet (w.extractLsb' 10 8) (w.extractLsb' 2 8))
    | _ => .error 0x040
  | 0x36 =>
    match fn with
    | 0 => finishScalar 0x000003FC w (.ptest (w.extractLsb' 18 8) (w.extractLsb' 10 8))
    | 1 => finishScalar 0x03FC0000 w (.rcomb (w.extractLsb' 10 8) (w.extractLsb' 2 8))
    | _ => .error 0x040
  | 0x37 =>
    match fn with
    | 0 => finishScalar 0x03E00000 w (.waitaGe (w.extractLsb' 18 3) (w.extractLsb' 10 8) (w.extractLsb' 2 8))
    | 1 => finishScalar 0x03E00000 w (.waitaEq (w.extractLsb' 18 3) (w.extractLsb' 10 8) (w.extractLsb' 2 8))
    | 2 => finishScalar 0x03E00000 w (.waitaNe (w.extractLsb' 18 3) (w.extractLsb' 10 8) (w.extractLsb' 2 8))
    | _ => .error 0x040
  | 0x38 =>
    match fn with
    | 0 => finishScalar 0x03FC03FC w (.lnch (w.extractLsb' 10 8))
    | 1 => finishScalar 0x000003FC w (.cntr (w.extractLsb' 18 8) (w.extractLsb' 10 8))
    | 2 => finishScalar 0x03FC03FC w (.cncl (w.extractLsb' 10 8))
    | _ => finishScalar 0x03FFFFFC w (.gexit)
  | 0x39 =>
    match fn with
    | 0 => finishScalar 0x0003FFFC w (.tref (w.extractLsb' 18 8))
    | 1 => finishScalar 0x03FC03FC w (.twait (w.extractLsb' 10 8))
    | _ => .error 0x040
  | 0x3B => finishScalar 0x03FFFC00 w (.trap (w.extractLsb' 0 10))
  | 0x3C =>
    match fn with
    | 0 => finishScalar 0x03FFFFFC w (.brk)
    | 1 => finishScalar 0x03FFFFFC w (.eret)
    | 2 => finishScalar 0x03FFFFFC w (.snop)
    | _ => finishScalar 0x03E003FC w (.spresize (w.extractLsb' 18 3) (w.extractLsb' 10 8))
  | 0x3D => if w.getLsbD 9 then finishScalar 0x03FC0000 w (.swrp (w.extractLsb' 10 8) (w.extractLsb' 0 9)) else finishScalar 0x0003FC00 w (.srdp (w.extractLsb' 18 8) (w.extractLsb' 0 9))
  | 0x3E =>
    match fn with
    | 0 => finishScalar 0x03FC03FC w (.pmark (w.extractLsb' 10 8))
    | 1 => finishScalar 0x000003FC w (.pcnt (w.extractLsb' 18 8) (w.extractLsb' 10 8))
    | 2 => finishScalar 0x03FC03FC w (.race (w.extractLsb' 10 8))
    | _ => finishScalar 0x03FFFFFC w (.dstop)
  | _ => .error 0x040

/-- The first cause that an XIMM word and the word after it raise together, given the cause or the instruction each raises alone (spec/02 R24, R38).
Rests on notes/assumptions 16 (DEDUCED). -/
def unitCause (a b : Option Cause) (partner : Bool) : Option Cause :=
  if a = some 0x040 ∨ b = some 0x040 then some 0x040
  else if a = some 0x041 ∨ b = some 0x041 then some 0x041
  else if a = some 0x043 ∨ b = some 0x043 then some 0x043
  else if partner then none else some 0x042

/-- The partners of XIMM (spec/02 R24). -/
def isPartner (i : Instr) : Bool :=
  match i with
  | .saddi .. | .slds .. | .sldsD .. | .ssts .. | .sstsD .. | .lrun .. => true
  | _ => false

/-- The cause that an XIMM unit raises (spec/02 R24): `x` is the XIMM word, `n` the word after it.
Rests on notes/assumptions 16 (DEDUCED). -/
def ximmFault (x n : BitVec 32) : Option Cause :=
  let a := match decodeScalar x with | .error c => some c | .ok _ => none
  match decodeScalar n with
  | .error c => unitCause a (some c) false
  | .ok i => unitCause a none (isPartner i)

/-! ## Lane words -/

/-- The fields of a lane word (spec/02 R29). -/
def laneFields (w : BitVec 96) : LaneWord :=
  { guard := w.extractLsb' 82 4, hold := w.getLsbD 81, nowb := w.getLsbD 80, dlat := w.extractLsb' 78 2, dst := w.extractLsb' 70 8,
    srcA := w.extractLsb' 60 10, srcB := w.extractLsb' 50 10, srcC := w.extractLsb' 40 10, type := w.extractLsb' 36 4, sub := w.extractLsb' 32 4,
    imm := w.extractLsb' 0 32 }

/-- The lane opcode map (spec/02 R36); QTRY's push bit is SUB[32] (spec/08 R162). -/
def laneInstr (opc : Nat) (w : LaneWord) : Option Instr :=
  match opc with
  | 0x001 => some (.vadd w)
  | 0x002 => some (.vsub w)
  | 0x003 => some (.vmul w)
  | 0x004 => some (.vmulh w)
  | 0x005 => some (.vmad w)
  | 0x006 => some (.vmadw w)
  | 0x007 => some (.vand w)
  | 0x008 => some (.vor w)
  | 0x009 => some (.vxor w)
  | 0x00A => some (.vlop3 w)
  | 0x00B => some (.vshl w)
  | 0x00C => some (.vshr w)
  | 0x00D => some (.vrot w)
  | 0x00E => some (.vmin w)
  | 0x00F => some (.vmax w)
  | 0x010 => some (.vabsd w)
  | 0x011 => some (.vclz w)
  | 0x012 => some (.vpopc w)
  | 0x013 => some (.vbrev w)
  | 0x014 => some (.vbfe w)
  | 0x015 => some (.vbfi w)
  | 0x016 => some (.vsel w)
  | 0x017 => some (.vcmp w)
  | 0x018 => some (.vmov w)
  | 0x019 => some (.vpset w)
  | 0x080 => some (.fadd w)
  | 0x081 => some (.fsub w)
  | 0x082 => some (.fmul w)
  | 0x083 => some (.ffma w)
  | 0x084 => some (.fmin w)
  | 0x085 => some (.fmax w)
  | 0x086 => some (.fcmp w)
  | 0x087 => some (.fclass w)
  | 0x088 => some (.frnd w)
  | 0x089 => some (.ffrc w)
  | 0x08A => some (.fexf w)
  | 0x08B => some (.flg2 w)
  | 0x08C => some (.frcp w)
  | 0x08D => some (.frsq w)
  | 0x08E => some (.fsqrt w)
  | 0x08F => some (.finsx w)
  | 0x090 => some (.fexpx w)
  | 0x0F0 => some (.cvt w)
  | 0x0F1 => some (.cvtq w)
  | 0x0F2 => some (.cvtd w)
  | 0x0F3 => some (.pk2 w)
  | 0x0F4 => some (.upk2 w)
  | 0x110 => some (.vshfl w)
  | 0x111 => some (.vbcst w)
  | 0x112 => some (.vvote w)
  | 0x113 => some (.vredx w)
  | 0x114 => some (.vscan w)
  | 0x115 => some (.vmatch w)
  | 0x140 => some (.vbr w)
  | 0x141 => some (.vswitch w)
  | 0x142 => some (.vjmp w)
  | 0x143 => some (.vcall w)
  | 0x144 => some (.vret w)
  | 0x145 => some (.vbrk w)
  | 0x146 => some (.vexit w)
  | 0x147 => some (.vstop w)
  | 0x180 => some (.lds w)
  | 0x181 => some (.sts w)
  | 0x182 => some (.ldsh w)
  | 0x183 => some (.stsh w)
  | 0x184 => some (.ldtr w)
  | 0x185 => some (.sttr w)
  | 0x188 => some (.qpush w)
  | 0x189 => some (.qpop w)
  | 0x18A => if w.sub.getLsbD 0 then some (.qtryPush w) else some (.qtryPop w)
  | 0x18B => some (.qallow w)
  | 0x190 => some (.bar w)
  | 0x1C0 => some (.hins w)
  | 0x1C1 => some (.hprb w)
  | 0x1C2 => some (.hdel w)
  | 0x1C3 => some (.hacc w)
  | 0x1E0 => some (.ats w)
  | 0x1E1 => some (.atm w)
  | 0x1E2 => some (.adcas w)
  | 0x1E3 => some (.axmv w)
  | 0x1E4 => some (.ared w)
  | 0x1E8 => some (.laneFence w)
  | 0x200 => some (.lanePmark w)
  | 0x201 => some (.lanePcnt w)
  | 0x202 => some (.laneRace w)
  | 0x203 => some (.laneDstop w)
  | _ => none

/-- The instruction of a lane word, or the first cause it raises apart from the chain rules of its group (spec/02 R32, R36-R38). -/
def decodeLane (w : BitVec 96) : Except Cause Instr :=
  let opc := (w.extractLsb' 86 10).toNat
  let f := laneFields w
  match laneFault opc f with
  | some c => .error c
  | none =>
    match laneInstr opc f with
    | some i => .ok i
    | none => .error 0x001

/-! ## The encoder -/

/-- The 96 bits of a lane word (spec/02 R29). -/
def encodeLane (opc : BitVec 10) (w : LaneWord) : BitVec 96 :=
  opc ++ w.guard ++ BitVec.ofBool w.hold ++ BitVec.ofBool w.nowb ++ w.dlat ++ w.dst ++ w.srcA ++ w.srcB ++ w.srcC ++ w.type ++ w.sub ++ w.imm

/-- The word of an instruction that has one; the steps of the engines, the hub and the outside have none. -/
def encode (i : Instr) : Option Code :=
  match i with
  | .sadd d a b => some (.scalar (0x1#6 ++ d ++ a ++ b ++ 0x0#2))
  | .ssub d a b => some (.scalar (0x1#6 ++ d ++ a ++ b ++ 0x1#2))
  | .smul d a b => some (.scalar (0x1#6 ++ d ++ a ++ b ++ 0x2#2))
  | .smulh d a b => some (.scalar (0x1#6 ++ d ++ a ++ b ++ 0x3#2))
  | .smin d a b => some (.scalar (0x2#6 ++ d ++ a ++ b ++ 0x0#2))
  | .smax d a b => some (.scalar (0x2#6 ++ d ++ a ++ b ++ 0x1#2))
  | .sminN d a b => some (.scalar (0x2#6 ++ d ++ a ++ b ++ 0x2#2))
  | .smaxN d a b => some (.scalar (0x2#6 ++ d ++ a ++ b ++ 0x3#2))
  | .sand d a b => some (.scalar (0x3#6 ++ d ++ a ++ b ++ 0x0#2))
  | .sor d a b => some (.scalar (0x3#6 ++ d ++ a ++ b ++ 0x1#2))
  | .sxor d a b => some (.scalar (0x3#6 ++ d ++ a ++ b ++ 0x2#2))
  | .smulhN d a b => some (.scalar (0x3#6 ++ d ++ a ++ b ++ 0x3#2))
  | .sshl d a b => some (.scalar (0x4#6 ++ d ++ a ++ b ++ 0x0#2))
  | .sshr d a b => some (.scalar (0x4#6 ++ d ++ a ++ b ++ 0x1#2))
  | .ssra d a b => some (.scalar (0x4#6 ++ d ++ a ++ b ++ 0x2#2))
  | .smov d a => some (.scalar (0x4#6 ++ d ++ a ++ 0x3#10))
  | .scmpEq q a b => some (.scalar (0xA0#11 ++ q ++ a ++ b ++ 0x0#2))
  | .scmpNe q a b => some (.scalar (0xA0#11 ++ q ++ a ++ b ++ 0x1#2))
  | .scmpLt q a b => some (.scalar (0xA0#11 ++ q ++ a ++ b ++ 0x2#2))
  | .scmpLe q a b => some (.scalar (0xA0#11 ++ q ++ a ++ b ++ 0x3#2))
  | .scmpLtN q a b => some (.scalar (0xC0#11 ++ q ++ a ++ b ++ 0x0#2))
  | .scmpLeN q a b => some (.scalar (0xC0#11 ++ q ++ a ++ b ++ 0x1#2))
  | .sclz d a => some (.scalar (0x6#6 ++ d ++ a ++ 0x2#10))
  | .spopc d a => some (.scalar (0x6#6 ++ d ++ a ++ 0x3#10))
  | .sselQ0Q3 d a b k => some (.scalar (0x7#6 ++ d ++ a ++ b ++ k))
  | .sselQ4Q7 d a b k => some (.scalar (0x8#6 ++ d ++ a ++ b ++ k))
  | .sad64 d a b => some (.scalar (0x9#6 ++ d ++ a ++ b ++ 0x0#2))
  | .smad64 d a b => some (.scalar (0x9#6 ++ d ++ a ++ b ++ 0x1#2))
  | .sbfe d a b => some (.scalar (0xA#6 ++ d ++ a ++ b ++ 0x0#2))
  | .sbfeI d a b => some (.scalar (0xA#6 ++ d ++ a ++ b ++ 0x1#2))
  | .sbfi d a b => some (.scalar (0xA#6 ++ d ++ a ++ b ++ 0x2#2))
  | .saddi d a i => some (.scalar (0xC#6 ++ d ++ a ++ i))
  | .slds d a i => some (.scalar (0xD#6 ++ d ++ a ++ i))
  | .sldsD d a i => some (.scalar (0xE#6 ++ d ++ a ++ i))
  | .ssts d a i => some (.scalar (0xF#6 ++ d ++ a ++ i))
  | .sstsD d a i => some (.scalar (0x10#6 ++ d ++ a ++ i))
  | .sli d i => some (.scalar (0x14#6 ++ d ++ i))
  | .slui d i => some (.scalar (0x15#6 ++ d ++ i))
  | .ximm i => some (.scalar (0x160#10 ++ i))
  | .sbr g o => some (.scalar (0x17#6 ++ g ++ o))
  | .sjmp a => some (.scalar (0x1800#14 ++ a ++ 0x0#10))
  | .sret => some (.scalar (0x60000001#32))
  | .scall g o => some (.scalar (0x19#6 ++ g ++ o))
  | .sloop d i => some (.scalar (0x1A#6 ++ d ++ 0x0#8 ++ i))
  | .lrun d i => some (.scalar (0x1B#6 ++ d ++ 0x0#8 ++ i))
  | .lwait a => some (.scalar (0x1C00#14 ++ a ++ 0x0#10))
  | .srd d n => some (.scalar (0x1D#6 ++ d ++ 0x0#8 ++ n))
  | .swr a n => some (.scalar (0x1E00#14 ++ a ++ n))
  | .cten d i => some (.scalar (0x20#6 ++ d ++ i ++ 0x0#2))
  | .cgth d i => some (.scalar (0x20#6 ++ d ++ i ++ 0x1#2))
  | .csct d i => some (.scalar (0x20#6 ++ d ++ i ++ 0x2#2))
  | .cpack d i => some (.scalar (0x21#6 ++ d ++ i ++ 0x0#2))
  | .cunpk d i => some (.scalar (0x21#6 ++ d ++ i ++ 0x1#2))
  | .cfill d i => some (.scalar (0x21#6 ++ d ++ i ++ 0x2#2))
  | .cbatch d => some (.scalar (0x22#6 ++ d ++ 0x0#18))
  | .cwait a => some (.scalar (0x2200#14 ++ a ++ 0x1#10))
  | .crows a b => some (.scalar (0x2200#14 ++ a ++ b ++ 0x2#2))
  | .cstat d a => some (.scalar (0x22#6 ++ d ++ a ++ 0x3#10))
  | .ccncl a => some (.scalar (0x2300#14 ++ a ++ 0x0#10))
  | .hclaim a t => some (.scalar (0x2800#14 ++ a ++ 0x0#8 ++ t))
  | .hrel t => some (.scalar (0x29000000#30 ++ t))
  | .hstat d t => some (.scalar (0x2A#6 ++ d ++ 0x0#16 ++ t))
  | .hdrain d t => some (.scalar (0x2B#6 ++ d ++ 0x0#16 ++ t))
  | .mma d c a b => some (.scalar (0x2C#6 ++ d ++ c ++ a ++ 0x0#3 ++ b ++ 0x0#2))
  | .mmaSpec d c a q b => some (.scalar (0x2C#6 ++ d ++ c ++ a ++ q ++ b ++ 0x1#2))
  | .mmas d c a b => some (.scalar (0x2C#6 ++ d ++ c ++ a ++ 0x0#3 ++ b ++ 0x2#2))
  | .mmasSpec d c a q b => some (.scalar (0x2C#6 ++ d ++ c ++ a ++ q ++ b ++ 0x3#2))
  | .mzero c => some (.scalar (0x2D00#14 ++ c ++ 0x0#15))
  | .mwait c => some (.scalar (0x2D00#14 ++ c ++ 0x1#15))
  | .mwaitAll => some (.scalar (0xB4000005#32))
  | .mpri a => some (.scalar (0x2D00#14 ++ a ++ 0x2#10))
  | .mout d c t => some (.scalar (0x2E#6 ++ d ++ c ++ 0x0#8 ++ t ++ 0x0#2))
  | .moutS d c b => some (.scalar (0x2E#6 ++ d ++ c ++ 0x0#5 ++ b ++ 0x1#2))
  | .tshape d t => some (.scalar (0x2F#6 ++ d ++ 0x0#3 ++ t ++ 0x0#10))
  | .fenceAcq s => some (.scalar (0x6400000#27 ++ s ++ 0x0#2))
  | .fenceRel s => some (.scalar (0x6400000#27 ++ s ++ 0x1#2))
  | .fenceAcqrel s => some (.scalar (0x6400000#27 ++ s ++ 0x2#2))
  | .fenceSc s => some (.scalar (0x6400000#27 ++ s ++ 0x3#2))
  | .pbind d a n => some (.scalar (0x33#6 ++ d ++ a ++ 0x0#8 ++ n))
  | .pacqGe a b => some (.scalar (0x3400#14 ++ a ++ b ++ 0x0#2))
  | .pacqEq a b => some (.scalar (0x3400#14 ++ a ++ b ++ 0x1#2))
  | .pacqNe a b => some (.scalar (0x3400#14 ++ a ++ b ++ 0x2#2))
  | .prelAdd a b => some (.scalar (0x3500#14 ++ a ++ b ++ 0x0#2))
  | .prelSet a b => some (.scalar (0x3500#14 ++ a ++ b ++ 0x1#2))
  | .ptest d a => some (.scalar (0x36#6 ++ d ++ a ++ 0x0#10))
  | .rcomb a b => some (.scalar (0x3600#14 ++ a ++ b ++ 0x1#2))
  | .waitaGe q a b => some (.scalar (0x6E0#11 ++ q ++ a ++ b ++ 0x0#2))
  | .waitaEq q a b => some (.scalar (0x6E0#11 ++ q ++ a ++ b ++ 0x1#2))
  | .waitaNe q a b => some (.scalar (0x6E0#11 ++ q ++ a ++ b ++ 0x2#2))
  | .lnch a => some (.scalar (0x3800#14 ++ a ++ 0x0#10))
  | .cntr d a => some (.scalar (0x38#6 ++ d ++ a ++ 0x1#10))
  | .cncl a => some (.scalar (0x3800#14 ++ a ++ 0x2#10))
  | .gexit => some (.scalar (0xE0000003#32))
  | .tref d => some (.scalar (0x39#6 ++ d ++ 0x0#18))
  | .twait a => some (.scalar (0x3900#14 ++ a ++ 0x1#10))
  | .trap i => some (.scalar (0x3B0000#22 ++ i))
  | .brk => some (.scalar (0xF0000000#32))
  | .eret => some (.scalar (0xF0000001#32))
  | .snop => some (.scalar (0xF0000002#32))
  | .spresize q a => some (.scalar (0x780#11 ++ q ++ a ++ 0x3#10))
  | .srdp d n => some (.scalar (0x3D#6 ++ d ++ 0x0#9 ++ n))
  | .swrp a n => some (.scalar (0x3D00#14 ++ a ++ 0x1#1 ++ n))
  | .pmark a => some (.scalar (0x3E00#14 ++ a ++ 0x0#10))
  | .pcnt d a => some (.scalar (0x3E#6 ++ d ++ a ++ 0x1#10))
  | .race a => some (.scalar (0x3E00#14 ++ a ++ 0x2#10))
  | .dstop => some (.scalar (0xF8000003#32))
  | .vadd w => some (.lane (encodeLane 0x001 w))
  | .vsub w => some (.lane (encodeLane 0x002 w))
  | .vmul w => some (.lane (encodeLane 0x003 w))
  | .vmulh w => some (.lane (encodeLane 0x004 w))
  | .vmad w => some (.lane (encodeLane 0x005 w))
  | .vmadw w => some (.lane (encodeLane 0x006 w))
  | .vand w => some (.lane (encodeLane 0x007 w))
  | .vor w => some (.lane (encodeLane 0x008 w))
  | .vxor w => some (.lane (encodeLane 0x009 w))
  | .vlop3 w => some (.lane (encodeLane 0x00A w))
  | .vshl w => some (.lane (encodeLane 0x00B w))
  | .vshr w => some (.lane (encodeLane 0x00C w))
  | .vrot w => some (.lane (encodeLane 0x00D w))
  | .vmin w => some (.lane (encodeLane 0x00E w))
  | .vmax w => some (.lane (encodeLane 0x00F w))
  | .vabsd w => some (.lane (encodeLane 0x010 w))
  | .vclz w => some (.lane (encodeLane 0x011 w))
  | .vpopc w => some (.lane (encodeLane 0x012 w))
  | .vbrev w => some (.lane (encodeLane 0x013 w))
  | .vbfe w => some (.lane (encodeLane 0x014 w))
  | .vbfi w => some (.lane (encodeLane 0x015 w))
  | .vsel w => some (.lane (encodeLane 0x016 w))
  | .vcmp w => some (.lane (encodeLane 0x017 w))
  | .vmov w => some (.lane (encodeLane 0x018 w))
  | .vpset w => some (.lane (encodeLane 0x019 w))
  | .fadd w => some (.lane (encodeLane 0x080 w))
  | .fsub w => some (.lane (encodeLane 0x081 w))
  | .fmul w => some (.lane (encodeLane 0x082 w))
  | .ffma w => some (.lane (encodeLane 0x083 w))
  | .fmin w => some (.lane (encodeLane 0x084 w))
  | .fmax w => some (.lane (encodeLane 0x085 w))
  | .fcmp w => some (.lane (encodeLane 0x086 w))
  | .fclass w => some (.lane (encodeLane 0x087 w))
  | .frnd w => some (.lane (encodeLane 0x088 w))
  | .ffrc w => some (.lane (encodeLane 0x089 w))
  | .fexf w => some (.lane (encodeLane 0x08A w))
  | .flg2 w => some (.lane (encodeLane 0x08B w))
  | .frcp w => some (.lane (encodeLane 0x08C w))
  | .frsq w => some (.lane (encodeLane 0x08D w))
  | .fsqrt w => some (.lane (encodeLane 0x08E w))
  | .finsx w => some (.lane (encodeLane 0x08F w))
  | .fexpx w => some (.lane (encodeLane 0x090 w))
  | .cvt w => some (.lane (encodeLane 0x0F0 w))
  | .cvtq w => some (.lane (encodeLane 0x0F1 w))
  | .cvtd w => some (.lane (encodeLane 0x0F2 w))
  | .pk2 w => some (.lane (encodeLane 0x0F3 w))
  | .upk2 w => some (.lane (encodeLane 0x0F4 w))
  | .vshfl w => some (.lane (encodeLane 0x110 w))
  | .vbcst w => some (.lane (encodeLane 0x111 w))
  | .vvote w => some (.lane (encodeLane 0x112 w))
  | .vredx w => some (.lane (encodeLane 0x113 w))
  | .vscan w => some (.lane (encodeLane 0x114 w))
  | .vmatch w => some (.lane (encodeLane 0x115 w))
  | .vbr w => some (.lane (encodeLane 0x140 w))
  | .vswitch w => some (.lane (encodeLane 0x141 w))
  | .vjmp w => some (.lane (encodeLane 0x142 w))
  | .vcall w => some (.lane (encodeLane 0x143 w))
  | .vret w => some (.lane (encodeLane 0x144 w))
  | .vbrk w => some (.lane (encodeLane 0x145 w))
  | .vexit w => some (.lane (encodeLane 0x146 w))
  | .vstop w => some (.lane (encodeLane 0x147 w))
  | .lds w => some (.lane (encodeLane 0x180 w))
  | .sts w => some (.lane (encodeLane 0x181 w))
  | .ldsh w => some (.lane (encodeLane 0x182 w))
  | .stsh w => some (.lane (encodeLane 0x183 w))
  | .ldtr w => some (.lane (encodeLane 0x184 w))
  | .sttr w => some (.lane (encodeLane 0x185 w))
  | .qpush w => some (.lane (encodeLane 0x188 w))
  | .qpop w => some (.lane (encodeLane 0x189 w))
  | .qtryPop w => some (.lane (encodeLane 0x18A w))
  | .qtryPush w => some (.lane (encodeLane 0x18A w))
  | .qallow w => some (.lane (encodeLane 0x18B w))
  | .bar w => some (.lane (encodeLane 0x190 w))
  | .hins w => some (.lane (encodeLane 0x1C0 w))
  | .hprb w => some (.lane (encodeLane 0x1C1 w))
  | .hdel w => some (.lane (encodeLane 0x1C2 w))
  | .hacc w => some (.lane (encodeLane 0x1C3 w))
  | .ats w => some (.lane (encodeLane 0x1E0 w))
  | .atm w => some (.lane (encodeLane 0x1E1 w))
  | .adcas w => some (.lane (encodeLane 0x1E2 w))
  | .axmv w => some (.lane (encodeLane 0x1E3 w))
  | .ared w => some (.lane (encodeLane 0x1E4 w))
  | .laneFence w => some (.lane (encodeLane 0x1E8 w))
  | .lanePmark w => some (.lane (encodeLane 0x200 w))
  | .lanePcnt w => some (.lane (encodeLane 0x201 w))
  | .laneRace w => some (.lane (encodeLane 0x202 w))
  | .laneDstop w => some (.lane (encodeLane 0x203 w))
  | .nonInstructionWord .. | .launchPacket .. | .graphPacket .. | .fencePacket .. | .signalPacket .. | .timestampPacket .. | .cancelPacket ..
  | .traceOpen .. | .traceClose .. | .traceFlush .. | .nopPacket .. | .queueDoorbell .. | .queueStateWrite .. | .queueReset ..
  | .counterTargetWrite .. | .slotRecordWrite .. | .shapeEntryCommit .. | .contextDescriptorWrite .. | .replyRetry .. | .replyFail ..
  | .invalidation .. | .ringStatusClear .. | .stopRequest .. | .resumeCommand .. | .partitionSwitch .. | .partitionSeal .. | .partitionScrub ..
  | .tdpWrite .. | .serviceClear .. | .measurementExtend .. | .quoteRequest .. | .registerWrite .. | .barAtomicop .. | .deviceReset ..
  | .firmwareBoot .. | .readinessBitSet .. | .dieLost .. | .dieLinkPortFailed .. | .linkFlitRetry .. | .bisuoshLaneLoss .. | .bisuoshPortFailed ..
  | .peerInboundRequest .. | .ptpMessage .. | .powerLimitReached .. | .frequencyStep .. | .relockEnd .. | .thermalTrip .. | .powerTrip ..
  | .correctedErrorThreshold .. | .hbmRowSpare .. | .coreRetirement .. | .hubInternalError .. | .teamPlacement .. | .nodeEntersPool ..
  | .laneBlockStart .. | .splitArrival .. | .pathEntryLoad .. | .guidonResolution .. | .queueDeadlock .. | .issuePromotion .. | .sampleSpill ..
  | .copyElementTranslate .. | .translationFault .. | .copyRowLanded .. | .commandEnd .. | .combiningEntryEvict .. | .clusterAtomicWriteback ..
  | .homeReduction .. | .waitaMonitorSatisfied .. | .pacqSatisfied .. | .rcombRoundComplete .. | .matrixPass .. | .mzeroStep .. | .moutStep ..
  | .arbiterStarvation .. | .twaitExpiry .. | .teamStartTime .. | .fenceHostPoll .. | .teamRetire .. | .launchComplete .. | .faultSave ..
  | .teamRestore .. | .haltTimeout .. | .asyncTrapDelivery .. | .recordWrite .. | .streamerRecordWrite .. | .cacheWriteBack .. | .stallSample ..
  | .pcieLinkDegraded .. | .managementProcessorAccess .. => none

/-- The instruction of a row of spec/opcode_table.json, whose bits are numbered from the least significant bit of the word: 96 bits are a lane word,
fewer are a scalar word. -/
def decodeTableWord (nbits w : Nat) : Option Instr :=
  if nbits = 96 then (decodeLane (BitVec.ofNat 96 w)).toOption else (decodeScalar (BitVec.ofNat 32 w)).toOption

end Sys2Proof
end

