-- ==== Sys2Proof/Machine/State.lean ====
section
/-! DEFINITION. The state of the A8 as plain data: the resident teams with their groups, the cores, clusters and dies, the hub's tables, the
windows of the outside world, the memories, and the schedule that says which agent moves next. State.reset is the machine right after reset. -/

namespace Sys2Proof.Machine

/-- Why a step stops. -/
inductive Fault where
  /-- A thermal or power trip has stopped every clock (spec/18 R371): raised by step in a state whose `halted` is set, for every step
  but DEVICE_RESET. Safe: the hardware issues nothing either. -/
  | clocksStopped
  deriving DecidableEq, Repr

/-- Why a step is refused. -/
inductive Refusal where
  /-- An instruction whose arm of exec has no meaning yet: raised by Dispatch alone. Safe: nothing is claimed of it. -/
  | notModelled (mnemonic : String)
  deriving DecidableEq, Repr

/-- A byte store: strictly rising addresses, no entry equal to what an unlisted address reads as (Memory.wf). -/
abbrev Mem := List Host.Cell

/-! ## Records of the lane stream -/

/-- A register, predicate, latch, split entry or stack entry of a group that holds an uncorrectable error (spec/16 R318, cause 0x100). -/
inductive ErrAt where
  | sreg (r : Reg)
  | qreg (q : BitVec 3)
  | vreg (r : Reg) (l : Fin 64)
  | pred (k : Nat) (l : Fin 64)
  | latch (b : BitVec 2) (l : Fin 64)
  | split (k : SplitIx)
  | stack (j : Nat)
  deriving DecidableEq, Repr

/-- A queue, barrier or row counter of a team that holds an uncorrectable error (spec/16 R318, cause 0x103). -/
inductive TeamErr where
  | queue (q : Nat)
  | barrier (b : Nat)
  | rowCnt (k : Nat)
  deriving DecidableEq, Repr

/-- The lane words that use a hash table (spec/09 R176). -/
inductive HashWord where
  | ins | prb | del | acc (sub : Nat)
  deriving DecidableEq, Repr

/-- A lane hash word between its steps (spec/09 R178, R181): the word and its executing lanes, CMDSEQ when it issued (spec/17 R338), the keys not yet
stepped, as (key, combined operand, lanes), the results by lane as (lane, code, value), the spill writes so far, and the slots read so far (R189). -/
structure HashProg where
  kind   : HashWord
  word   : LaneWord
  lanes  : Mask
  seq    : Word
  left   : List (Nat × Nat × List (Fin 64))
  res    : List (Fin 64 × Nat × Nat)
  writes : List (DWord × List Byte)
  reads  : List Nat
  deriving DecidableEq, Repr

/-- The chain in progress and the checkpoint of its head (spec/02 R31, R32, spec/16 R323); `hash` is its last word where that is a hash word between
its steps. -/
structure Chain where
  split  : SplitIx
  head   : Word
  pos    : Nat
  reads  : List Reg
  savedV : Vector (Lanes Word) 256
  savedP : Vector Mask 8
  savedR : List (Reg × Word)
  savedE : List ErrAt
  flags  : List (Nat × List (Nat × BitVec 5))
  hash   : Option HashProg
  deriving DecidableEq, Repr

/-- A live split (spec/07 R130, R135). `cstack` has its oldest entry first; `atBar` names the barrier and generation the split waits for, standing at
the word after its BAR. -/
structure Split where
  lpc    : Word
  mask   : Mask
  rank   : Nat
  join   : Option Nat
  cstack : List Word
  hist   : BitVec 10
  atBar  : Option (Nat × BitVec 16)
  dbgSkip : Option Word
  deriving DecidableEq, Repr

/-- An entry of the reconvergence stack (spec/07 R132-R135). -/
inductive StackEntry where
  | free
  | join (outer : Option Nat) (pc : Word) (expected arrived : Mask) (hist : BitVec 10) (cstack : List Word)
  | path (join : Nat) (deferred : Bool) (pc : Word) (mask : Mask) (hist : BitVec 10) (cstack : List Word)
  deriving DecidableEq, Repr

/-- A lane block from its LRUN until its results are applied (spec/03 R69-R72); `snapErr` names the snapshot's registers that hold an uncorrectable
error. -/
structure Block where
  pc      : Word
  snap    : Vector Word 256
  snapErr : List Reg
  en      : Word
  ticket  : Word
  spc     : Word
  started : Bool
  done    : Bool
  results : List (Reg × Word)
  flags   : BitVec 5
  deriving DecidableEq, Repr

/-- The fields of a trap record (spec/16 R319); `hw` marks the copy that goes on the fatal lane as a hardware-error record (R317). -/
structure TrapRec where
  cause    : Cause
  pos      : Nat
  async    : Bool
  reply    : Bool
  fwd      : Bool
  hw       : Bool
  lane     : Byte
  gslot    : Byte
  ctx      : BitVec 16
  part     : Byte
  die      : Byte
  cluster  : Byte
  core     : Byte
  grpix    : Byte
  spc      : Word
  lpc      : Word
  cmdseq   : Word
  elem     : Word
  launchid : Word
  addr     : DWord
  reft     : DWord
  info     : DWord
  tag      : Word
  seq      : Word
  deriving DecidableEq, Repr

/-- An asynchronous trap not yet taken (spec/16 R324): whether its record names a copy command, and the split it blocks in (spec/08 R164). -/
structure Pend where
  cmd   : Bool
  split : Option SplitIx
  trap  : TrapRec
  deriving DecidableEq, Repr

/-- The privileged registers (spec/16 R327), the record the trap would write, the split it trapped in, and whether that split waited at a barrier, at which
it had arrived (spec/08 R163). -/
structure Priv where
  epc     : Word
  elpc    : Word
  ecause  : Word
  eaddr   : DWord
  ecmdseq : Word
  eelem   : Word
  elane   : Word
  einfo   : DWord
  fwd     : Bool
  hscr    : Vector Word 4
  record  : TrapRec
  split   : Option SplitIx
  waited  : Bool
  deriving DecidableEq, Repr

/-! ## Records of the copy engine -/

/-- A shape-table entry as the engine reads it (spec/10 R196). -/
structure Shape where
  base   : DWord
  fmt    : Nat
  rank   : Nat
  rights : BitVec 4
  fill   : Bool
  ctx    : Nat
  valid  : Bool
  ext    : List Nat
  str    : List Int
  deriving DecidableEq, Repr

/-- What a command does (spec/10, 11, 13; spill writes of spec/09 R183). -/
inductive CmdOp where
  | cten | cgth | csct | cpack | cunpk | cfill
  | atm | adcas | axmv | ared
  | spill
  deriving DecidableEq, Repr

/-- How a command stands (spec/10 R206). -/
inductive CmdStat where
  | running | suspended | ok | poisoned | overrun | cancelled | faultCancelled | error
  deriving DecidableEq, Repr

/-- One lane's operands of a lane memory atomic (spec/13 R257). -/
structure AtomLane where
  lane : Nat
  xa   : Word
  xb   : Word
  b    : BitVec 128
  c    : BitVec 128
  deriving DecidableEq, Repr

/-- The shape of a tile register (spec/08 R159): rows and row bytes as counts. -/
structure TileShape where
  rows   : Nat
  rb     : Nat
  fmt    : Nat
  layout : Nat
  deriving DecidableEq, Repr

/-- The name of a command of a resident team. -/
structure CmdName where
  team : TeamIx
  grp  : GrpIx
  seq  : Word
  sub  : Nat
  deriving DecidableEq, Repr

/-- A posted command (spec/10 R192, R216). `pos` is the number of elements performed; `fault` is a stop found but not yet
recorded; `index` is the list index read last and `indexRow` its row (spec/10 R201); `paged` says that a poisoned page was met; `ahead` are the bytes that a
CPACK has read from the unit in hand on, with their poison (spec/11 R227), and `half` what an atomic whose write comes later has read (spec/13 R254);
`crcHalf` says that the last byte of `crc` waits for its second nibble (spec/11 R229); `posted` is the step of its post and `beside` names the commands of
the core that had not ended then (spec/11 R223). -/
structure Cmd where
  gix    : GrpIx
  seq    : Word
  sub    : Nat
  split  : Option SplitIx
  op     : CmdOp
  w      : Vector Word 8
  shape  : Shape
  spc    : Word
  lpc    : Option Word
  local0 : Nat
  limit  : Nat
  tile   : TileShape
  aop    : Nat
  aty    : BitVec 4
  scope  : Nat
  lanes  : List AtomLane
  writes : List (DWord × List Byte)
  pos    : Nat
  rows   : Nat
  packOff : Nat
  stat   : CmdStat
  fault  : Option (Cause × DWord)
  tag    : Word
  crc    : List Byte
  pois   : Bool
  paged  : Bool
  index  : Nat
  indexRow : Option Nat
  ahead  : List (Byte × Bool)
  half   : Option (List Byte)
  crcHalf : Bool
  posted : Nat
  beside : List CmdName
  deriving DecidableEq, Repr

/-- A command as its batch remembers it (spec/10 R206, spec/11 R229); `sub` is nonzero for the spill writes of a hash word, which share the sequence
number of the command before them (spec/17 R338). -/
structure CmdRec where
  seq  : Word
  sub  : Nat
  stat : CmdStat
  stop : Word
  crcOn : Bool
  crc  : List Byte
  deriving DecidableEq, Repr

/-- A closed batch (spec/10 R204). -/
structure Batch where
  seq  : BitVec 16
  cmds : List CmdRec
  deriving DecidableEq, Repr

/-- A HCLAIM in progress (spec/09 R172): its table and region, what it has read of the ring's header, the turns of its initialisation that are left, and the
words of the region that are initialised. -/
structure Claim where
  tbl   : Nat
  base  : Nat
  size  : Nat
  ringP : DWord
  ringC : DWord
  left  : Nat
  words : List Nat
  deriving DecidableEq, Repr

/-! ## Groups -/

/-- Where a group stands. -/
inductive Phase where
  | none | running | stopped | exited
  deriving DecidableEq, Repr

/-- What the scoreboard keeps a producer of: a scalar register or predicate, a vector register or lane predicate (spec/17 R339). -/
inductive RegName where
  | sreg (r : Reg)
  | qreg (q : BitVec 3)
  | vreg (r : Reg)
  | pred (k : Nat)
  deriving DecidableEq, Repr

/-- A group: its scalar stream, its lane stream, its checkpoint and its handler state (spec/03 R56, R72; spec/07 R130; spec/16 R327). `fence` holds the
SPC of an ordering word that waits and CMDSEQ when it first issued (spec/12 R238), or of a waiting MWAIT and the age of the next matrix request then
(spec/14 R287). `lnch` holds the body of a LNCH from the hub's read of it, and its argument block once the counter is
re-armed (spec/15 R305). `errs` lists what holds an uncorrectable error; `late` are the lanes in which a word of the running block has written each lane
predicate, less those that a word has read since (spec/07 R145); `guessed` is the lane PC of a mispredicted VBR until the lane stream moves on (spec/17
R339); `claim` is a HCLAIM in progress (spec/09 R172, R188), and `uses` the table whose HSTAT (true) or HDRAIN (false) of the group has issued and waits (spec/09
R173); `parked` are
the chains of the splits whose hash word is between its steps while another split's steps go on (spec/09 R181);
`producers` names the PC of the word that last issued with each register or predicate as its destination (spec/17 R339);
`lastIssue` holds CCYC when the scalar stream and each split entry last issued (spec/15 R313). -/
structure Group where
  phase    : Phase
  sregs    : Vector Word 256
  qregs    : Vector Bool 8
  spc      : Word
  prevSpc  : Word
  calls    : List Word
  lticket  : Word
  fflags   : Word
  trapen   : Word
  reftHi   : Word
  ccycHi   : Word
  ncycHi   : Word
  pcntHi   : Word
  batchSeq : BitVec 16
  cmdSeq   : Word
  blocks   : List Block
  vregs    : Vector (Lanes Word) 256
  preds    : Vector Mask 8
  latches  : Vector (Lanes DWord) 4
  retired  : Mask
  splits   : Vector (Option Split) 4
  stack    : Vector StackEntry 16
  chain    : Option Chain
  parked   : List Chain
  handler  : Bool
  priv     : Priv
  pend     : List Pend
  openB    : List CmdRec
  batches  : List Batch
  mpri     : BitVec 2
  laneCnt  : DWord
  scalCnt  : DWord
  dbgSkip  : Option Word
  stopReq  : Bool
  stepping : Bool
  waitaRes : Option Bool
  armed    : Bool
  fence    : Option (Word × Word)
  lnch     : Option (List Byte × Option (List Byte))
  errs     : List ErrAt
  late     : Vector Mask 7
  guessed  : Option Word
  claim    : Option Claim
  uses     : Option (Nat × Bool)
  lastIssue : Vector DWord 5
  producers : List (RegName × Word)
  deriving DecidableEq, Repr

/-! ## Teams -/

/-- A tile register: its shape and its bytes by storage offset (spec/08 R159, spec/14 R271); `poison` lists poisoned word offsets. -/
structure Tile where
  shape  : TileShape
  bytes  : Mem
  poison : List Nat
  deriving DecidableEq, Repr

/-- An accumulator, its shadow, its pending predicate with the age of the word that armed it, and its poison mark (spec/14 R275, R282, R288); `err` and
`serr` say that it and its shadow hold an uncorrectable error that nothing has read yet. -/
structure Acc where
  prim   : Vector Word 4096
  shadow : Vector Word 4096
  filled : Bool
  pend   : Option (GrpIx × BitVec 3)
  pendAge : Word
  poison : Bool
  spoison : Bool
  err    : Bool
  serr   : Bool
  deriving DecidableEq, Repr

/-- What a matrix request does (spec/14 R273, R284, R285). -/
inductive MxKind where
  | mma (scaled : Bool) | mzero | mout (toSpad : Bool)
  deriving DecidableEq, Repr

/-- A posted matrix request (spec/14 R276, R288): `f0` and `f1` are the format block, or the control word and the address of a MOUT; `post` is the step
that posted it, and `since` its die's CCYC when it became eligible or was last granted, none while it is not eligible (spec/14 R280). -/
structure MxReq where
  age   : Word
  gix   : GrpIx
  kind  : MxKind
  acc   : Nat
  ta    : Nat
  tb    : Nat
  f0    : Word
  f1    : Word
  kLen  : Nat
  next  : Nat
  spec  : Bool
  prio  : Nat
  starved : Bool
  spc   : Word
  word  : Word
  post  : Nat
  since : Option DWord
  deriving DecidableEq, Repr

/-- A hash table of a team (spec/09 R170, R184, R188); `dgrp` is the group whose HDRAIN is in progress while `dstate` is set,
`dout` the address and the bytes of its output area, and `rel` the group whose HREL waits for earlier words (R173). -/
structure HashTab where
  claimed : Bool
  desc    : Vector Word 4
  live    : Word
  tomb    : Word
  spilled : Word
  lost    : Word
  ringP   : DWord
  ringC   : DWord
  ring    : Shape
  dstate  : Bool
  dgrp    : GrpIx
  dout    : Nat × Nat
  rel     : Option GrpIx
  dcur    : Word
  dcnt    : Word
  deriving DecidableEq, Repr

/-- A hoist queue (spec/08 R161, R162). A waiter is a split, whether it pushes, and how many handles. -/
structure Hoist where
  cap     : Nat
  items   : List Word
  allow   : Nat
  resv    : Nat
  waiters : List (GrpIx × SplitIx × Bool × Nat)
  deriving DecidableEq, Repr

/-- A team barrier (spec/08 R163). -/
structure Barrier where
  count : Nat
  n     : Nat
  gen   : BitVec 16
  deriving DecidableEq, Repr

/-- A loaded code object's record (spec/02 R51, R53). -/
structure Obj where
  stext  : DWord
  ssize  : Nat
  entry  : Word
  lbase  : Nat
  lwords : Nat
  groups : Nat
  vregs  : Nat
  tiles  : Nat
  accs   : Nat
  htabs  : Nat
  hoists : Nat
  bars   : Nat
  spadG  : Nat
  caps   : List Nat
  deriving DecidableEq, Repr

/-- What a word of the scratchpad held before a store (spec/08 R154, spec/03 R63): `seen` names the streams, as group and whether its lanes, that no longer
read it; `rel` says that a release has come after the store; `til` is the core's CCYC until which the store may stay unseen. -/
structure PastWord where
  a    : Nat
  val  : Word
  seen : List (GrpIx × Bool)
  rel  : Bool
  til  : Nat
  deriving DecidableEq, Repr

/-- A team resident on a core (spec/01 R13, spec/15 R297): `index` is its linear index in its launch; `placed` is the step of its placement (R313); `poolGrp` says which group took a pool entry in use (spec/07 R134). -/
structure Team where
  live     : Bool
  launch   : Nat
  launchId : Word
  ctx      : CtxIx
  part     : Nat
  coord    : Vector Word 3
  dims     : Vector Word 3
  obj      : Obj
  handler  : Option Word
  prio     : Nat
  scope    : Nat
  race     : Bool
  raceTrap : Bool
  core     : CoreIx
  slots    : List Nat
  spadBase : Nat
  spadSize : Nat
  index    : Nat
  groups   : Vector Group 16
  spad     : Mem
  spadPoison : List Nat
  past     : List PastWord
  pool     : Vector StackEntry 32
  poolGrp  : Vector GrpIx 32
  tiles    : Vector Tile 32
  accs     : Vector Acc 8
  tabs     : Vector HashTab 4
  hoists   : Vector Hoist 16
  bars     : Vector Barrier 16
  rowCnt   : Vector Word 16
  filling  : BitVec 64
  epoch    : BitVec 10
  shadow   : List (Nat × Nat × BitVec 10)
  cmds     : List Cmd
  reqs     : List MxReq
  mxAge    : Word
  waitSince : Option Nat
  errs     : List TeamErr
  placed   : Nat
  deriving DecidableEq, Repr

/-! ## Cores, clusters and dies -/

/-- An acqrel fence whose push is on its way: the group whose later writes wait for it and the fence's SPC (spec/12 R238, R250). -/
structure Leaving where
  team : TeamIx
  grp  : GrpIx
  spc  : Word
  deriving DecidableEq, Repr

/-- A cached byte: its physical address, value, dirty bit, poison, home die, L1 way, the codec of its page, and whether its line was allocated as a
streaming one (spec/12 R234, spec/08 R150, spec/10 R215, spec/11 R230). -/
structure CByte where
  pa    : Nat
  val   : Byte
  dirty : Bool
  pois  : Bool
  home  : Nat
  way   : Nat
  codec : Nat
  stream : Bool
  deriving DecidableEq, Repr

/-- The metadata of a stored line of 256 bytes: its codec (spec/11 R230), and the die that homes it (spec/01 R8). -/
structure LineTag where
  codec : Nat
  home  : Nat
  deriving DecidableEq, Repr

/-- An atomic's work on an element of n bytes of device memory (spec/13 R254): at home, or in a cluster's unit; by a core; `released` says that a device-scope
release of that core came after it, and `acquired` names the cores that acquired at device scope since. -/
structure ScopeUse where
  pa       : Nat
  n        : Nat
  cluster  : Option (Fin 40)
  core     : CoreIx
  released : Bool
  acquired : List CoreIx
  deriving DecidableEq, Repr

/-- A byte that an acqrel fence of a core has sent on its way: home, or to the die's L2 (spec/12 R238); `by_` are the fences that wait for it. -/
structure Outgoing where
  src  : CoreIx
  far  : Bool
  byte : CByte
  by_  : List Leaving
  deriving DecidableEq, Repr

/-- A partial of a combining entry: the element's physical address, its value and its poison; `who` names the commands that contributed to it and the
step at which each did (spec/11 R223). -/
structure Part where
  pa   : Nat
  val  : DWord
  pois : Bool
  who  : List (CmdName × Nat)
  deriving DecidableEq, Repr

/-- A reduction-combining entry of a core: one 64-byte sector, one operation and format, partials by element address (spec/11 R222); `out` are
the acqrel fences whose push it belongs to. -/
structure Comb where
  src    : CoreIx
  sector : Nat
  op     : Nat
  fmt    : Nat
  home   : Nat
  codec  : Nat
  way    : Nat
  parts  : List Part
  out    : List Leaving
  deriving DecidableEq, Repr

/-- The target memory of a translation (spec/10 R211, R215). -/
inductive Space where
  | device | host | peer (n : Nat)
  deriving DecidableEq, Repr

/-- A translation of one page (spec/10 R210-R212). -/
structure TlbE where
  ctx    : CtxIx
  va     : Nat
  size   : Nat
  pa     : Nat
  space  : Space
  homeF  : Nat
  cp     : Nat
  codec  : Nat
  poison : Bool
  rights : BitVec 4
  deriving DecidableEq, Repr

/-- An entry of the sample table (spec/17 R340). -/
structure Sample where
  launch : Word
  ctx    : CtxIx
  lane   : Bool
  pc     : Word
  reason : BitVec 4
  blame  : Word
  count  : Nat
  deriving DecidableEq, Repr

/-- A core (spec/01 R12); `cntBase` is CCYC when its event counters last returned to zero (spec/17 R349); `retiring` says that its retirement waits for
its teams (spec/18 R368); `held` names, by quarter, the group that
issued lane words there last with its chain left open (spec/04 R92), and `resolving` the VBR whose Guidon resolution holds the lane slot (spec/07 R147). -/
structure CoreSt where
  ways    : Nat
  l1      : List CByte
  comb    : List Comb
  utlb    : List TlbE
  guidon  : List (Nat × Mask × Nat)
  samples : List (Nat × Sample)
  rr      : Vector Nat 4
  cnt     : Vector DWord 16
  cntBase : DWord
  lastCtx : Option CtxIx
  retiredC : Bool
  retiring : Bool
  promoted : List (TeamIx × GrpIx × Option SplitIx)
  held    : Vector (Option (TeamIx × GrpIx)) 4
  resolving : Vector (Option (TeamIx × GrpIx × Word)) 4
  deriving DecidableEq, Repr

/-- A cluster's atomic unit and matrix pass counter (spec/13 R253, spec/17 R349). -/
structure ClusterSt where
  atom   : List CByte
  passes : DWord
  deriving DecidableEq, Repr

/-- A step-log record (spec/15 R312). -/
structure StepRec where
  t0   : DWord
  oldf : Byte
  newf : Byte
  lock : BitVec 16
  seq  : Word
  deriving DecidableEq, Repr

/-- A die: its clock, counters, far copies and translations (spec/15 R311, R312; spec/12 R234). `phase` counts ten-millionths of a core clock;
`relock` is how many ticks a relock has left, after which `newFreq` applies; `skew` less 4 is what REFT reads here beyond the hub's value (spec/01 R11). -/
structure DieSt where
  up      : Bool
  skew    : Fin 9
  freq    : Nat
  phase   : Nat
  ccyc    : DWord
  ncyc    : Nat
  relock  : Option Nat
  newFreq : Nat
  stepSeq : Word
  steps   : List StepRec
  far     : List CByte
  tlb     : List TlbE
  waitaFalse : List (CtxIx × DWord)
  deriving DecidableEq, Repr

/-! ## The hub -/

/-- A condition on a 64-bit word: the codes of spec/15 R295. -/
inductive Cond where
  | ge | eq | ne
  deriving DecidableEq, Repr

/-- A monitor armed at a home slice by a WAITA (spec/12 R249). -/
structure Monitor where
  team : TeamIx
  grp  : GrpIx
  die  : Nat
  pa   : Nat
  cond : Cond
  v    : DWord
  sat  : Bool
  deriving DecidableEq, Repr

/-- A PACQ waiting at the hub; `sat` holds the regions and scope of the satisfying update (spec/12 R247). -/
structure PacqWait where
  team : TeamIx
  grp  : GrpIx
  pen  : Nat
  cond : Cond
  v    : DWord
  sat  : Option (Nat × List (Nat × Nat))
  deriving DecidableEq, Repr

/-- A condition of a FENCE packet (spec/15 R295, R296). -/
structure FenceCond where
  space : Space
  pa    : Nat
  cond  : Cond
  v     : DWord
  seen  : Bool
  deriving DecidableEq, Repr

/-- A hardware queue (spec/15 R291). `packet` is the packet in hand, read once; `waitTag` the tag of the reply that the queue waits for, and `failed` says
that such a reply was fail. -/
structure Queue where
  ring    : DWord
  log2n   : Nat
  state   : Nat
  ctx     : BitVec 16
  ridxa   : DWord
  ridx    : DWord
  widx    : DWord
  fence   : Option (List FenceCond)
  packet  : Option (List Byte)
  waitTag : Option Word
  failed  : Bool
  deriving DecidableEq, Repr

/-- A completion counter (spec/15 R298). -/
structure Counter where
  count   : Word
  target  : Word
  parent  : BitVec 16
  level   : Byte
  act     : Byte
  msix    : BitVec 16
  pen     : BitVec 16
  waddr   : DWord
  wval    : DWord
  status  : Byte
  scope   : Byte
  retired : DWord
  done    : DWord
  worst   : Byte
  deriving DecidableEq, Repr

/-- A pennant (spec/12 R244): regions are (base, log2 size). -/
structure Pennant where
  ctr     : DWord
  scope   : Nat
  regions : List (Nat × Nat)
  deriving DecidableEq, Repr

/-- A combining slot (spec/13 R266, R268): `contribs` are the accepted contributions, oldest first. -/
structure Slot where
  resaddr  : DWord
  expect   : Nat
  op       : Nat
  armed    : Bool
  penen    : Bool
  pen      : Nat
  count    : Nat
  round    : Word
  contribs : List DWord
  deriving DecidableEq, Repr

/-- What waits for a reply to a replayable record (spec/16 R321); `saved` is a command of a team that is saved, named by its launch and its index there
(spec/10 R214). -/
inductive ReplyFor where
  | cmd (t : TeamIx) (g : GrpIx) (seq : Word)
  | waita (t : TeamIx) (g : GrpIx)
  | lnch (t : TeamIx) (g : GrpIx)
  | queue (q : QueueIx)
  | saved (launch index : Nat) (g : GrpIx) (seq : Word)
  deriving DecidableEq, Repr

/-- A record ring's progress and the records waiting for it (spec/16 R320, R322). -/
structure RingSt where
  produced : Nat
  waiting  : List TrapRec
  overflow : Nat
  seq      : Word
  deriving DecidableEq, Repr

/-- A Streamer session (spec/17 R341-R344): `last` is each emitter's previous record time; `held` are records not yet in the buffer. -/
structure Session where
  mask    : Byte
  log2    : Nat
  buf     : DWord
  start   : DWord
  trunc   : Bool
  full    : Bool
  written : Nat
  dropped : DWord
  last    : List (Nat × DWord)
  held    : List (List Byte)
  deriving DecidableEq, Repr

/-- A context: its descriptor (spec/16 R329, as the 128 bytes written) and the registers of its window (spec/18 R355). -/
structure Ctx where
  raw     : BitVec 1024
  valid   : Bool
  dsen    : Bool
  stepOn  : Bool
  invDone : Bool
  invErr  : Bool
  ringBad : BitVec 3
  shapeIx : Nat
  shapeBuf : BitVec 512
  fring   : RingSt
  rring   : RingSt
  nextTag : Word
  replies : List (Word × ReplyFor)
  session : Option Session
  ignored : DWord
  deriving DecidableEq, Repr

/-- A partition record (spec/18 R365). While STATE is 2, `next` is the context that a switch brings in, `swapped` says that the outgoing teams are saved,
and `since` is REFT at its request (spec/16 R331, R336). -/
structure Partition where
  clmask  : BitVec 64
  ctx     : BitVec 16
  st      : Nat
  sealed  : Bool
  sealack : Bool
  scrub   : Bool
  shadow  : Nat
  ranges  : List (Nat × Nat)
  next    : BitVec 16
  swapped : Bool
  since   : DWord
  deriving DecidableEq, Repr

/-- A launch that the Work Distributor holds, from acceptance to completion (spec/15 R293, R297, R301): a packet's (`queue`), a graph node's (`node`: the
graph's number and the node's) or an LNCH's. `after` names the launches and graphs that an ORD waits for; `next` is the number of teams
dispatched; `stopped` says that no further team is dispatched; `started` that REFT has reached START; `spc` is the SPC of the LNCH that it comes from, 0
for any other (spec/17 R338). -/
structure Launch where
  id       : Nat
  lid      : Word
  ctx      : CtxIx
  queue    : Option QueueIx
  node     : Option (Nat × Nat)
  after    : List Nat
  prio     : Nat
  scope    : Nat
  cnt      : Option Nat
  spc      : Word
  dieMask  : BitVec 4
  obj      : Obj
  tdim     : Vector Word 3
  handler  : Option Word
  args     : List Byte
  start    : DWord
  started  : Bool
  spadX    : Nat
  race     : Bool
  raceTrap : Bool
  next     : Nat
  stopped  : Bool
  retired  : Nat
  status   : Nat
  coresInv : List CoreIx
  diesInv  : List DieIx
  deriving DecidableEq, Repr

/-- An accepted graph (spec/15 R302): `recs` are its node records as the hub read them, `cnt` its counter's number in the table, `dropped` its nodes that a
cancel dropped (R307). -/
structure Graph where
  id      : Nat
  ctx     : CtxIx
  queue   : QueueIx
  after   : List Nat
  cnt     : Nat
  recs    : List (List Byte)
  area    : DWord
  finished : Bool
  dropped : List Nat
  deriving DecidableEq, Repr

/-- A saved team and where its image lies (spec/16 R332, R333, R336); `fault` marks a fault save (spec/10 R214) `head` is the image's header as it
was written, nothing for an image in shadow storage, and `ways` the way count of the core it left. -/
structure Saved where
  team   : Team
  fault  : Bool
  shadow : Bool
  addr   : Nat
  size   : Nat
  head   : List Byte
  ways   : Nat
  deriving DecidableEq, Repr

/-! ## The outside world and the management functions -/

/-- What the security engine last answered (spec/18 R362): a quote is its nonce, the measurement registers, READY0, READY1, the seal mask, and the
signature over them. -/
inductive Answer where
  | none
  | exhausted
  | quote (nonce : BitVec 256) (meas : Vector (BitVec 256) 8) (ready0 ready1 : DWord) (sealMask : BitVec 16) (signature : List Byte)
  deriving DecidableEq, Repr

/-- The time source that system software has selected (spec/15 R309): PTP over a Bisuosh port, or the host through PCIe Precision Time Measurement. -/
inductive TimeSource where
  | port (p : Fin 12)
  | host
  deriving DecidableEq, Repr

/-- What the fuses hold of the links and the cores: which Bisuosh ports and whether the host port may come up (spec/18 R363), and each die's two spare cores
by physical number (spec/01 R10). -/
structure Fuses where
  ports  : BitVec 12
  host   : Bool
  spares : Vector (Fin 42 × Fin 42) 4
  deriving DecidableEq, Repr

/-- The management window, the links and the security engine (spec/18). `booted` says that a firmware image was accepted; `aliasSeed` is the seed of the
alias key and `quotes` how many quotes it has signed; `mpGrants` are the host windows granted to the management processor and `mpData` what it last
read; `stepDown` names the dies that the power manager is about to step down; `peerOut` are the answers to inbound peer requests, with none for an error; `hostData`
is what the host's last read of a BAR returned;
`deadSpares` are the spare cores that have been retired in their turn, as die and physical number (spec/01 R10, R368);
`unsupported` are the AtomicOps that completed with Unsupported Request, as function and offset; `msix` are the interrupts raised, as function and
vector, `msixMask` the masked vectors and `msixPend` those with their pending bit set; `aliasCert` is the identity key's signature of the boot
(spec/18 R361); `corrected` and `ceLimit` are the corrected errors and the threshold of each unit: the clusters, then the hub with the L2s. -/
structure Mgmt where
  ready0    : DWord
  ready1    : DWord
  service   : Word
  filtered  : DWord
  tdp       : Word
  subst     : Vector DWord 4
  routes    : Vector (BitVec 16) 256
  grants    : Vector (Option (Nat × Nat × Nat)) 64
  portsDeg  : BitVec 12
  linksDown : List (DieIx × DieIx)
  meas      : Vector (BitVec 256) 8
  bootErr   : Word
  idIndex   : Nat
  bootCount : Nat
  aliasOk   : Bool
  aliasSeed : List Byte
  aliasCert : List Byte
  booted    : Bool
  quotes    : Nat
  answer    : Answer
  mpGrants  : List (Nat × Nat)
  mpDropped : DWord
  mpData    : List Byte
  timeSrc   : Option TimeSource
  timeSteps : Bool
  stepDown  : BitVec 4
  pcieDeg   : Bool
  spared    : List (Fin 8 × Nat)
  deadSpares : List (DieIx × Nat)
  peerOut   : List (Nat × Option (List Byte))
  hostData  : List Byte
  unsupported : List (Nat × Nat)
  msix      : List (Nat × Nat)
  msixMask  : List (Nat × Nat)
  msixPend  : List (Nat × Nat)
  vfOn      : BitVec 16
  fuses     : Fuses
  corrected : Vector Nat 41
  ceLimit   : Vector Nat 41
  deriving DecidableEq, Repr

/-! ## The schedule and the whole state -/

/-- Where an uncorrectable error strikes (spec/16 R318, spec/18 R366): state of a group or a team, a word of a scratchpad, of a tile, an accumulator or its
shadow, a word of device memory, the metadata of a stored line, or a byte of an L1 or of a die's far copies. -/
inductive Upset where
  | group (t : TeamIx) (g : GrpIx) (e : ErrAt)
  | team (t : TeamIx) (e : TeamErr)
  | spad (t : TeamIx) (a : Nat)
  | tile (t : TeamIx) (n off : Nat)
  | acc (t : TeamIx) (a : Fin 8) (shadow : Bool)
  | memory (pa : Nat)
  | lineTag (line : Nat)
  | l1 (c : CoreIx) (pa : Nat)
  | far (d : DieIx) (pa : Nat)
  deriving DecidableEq, Repr

/-- What happens to the machine without an instruction: an uncorrectable error; a host read of n bytes at an offset of a BAR by a function (spec/18
R354-R356); system software's choice of a time source and of steps (spec/15 R309); a mask bit of an MSI-X vector and the enabling of a VF (spec/18 R357);
an entry of the inbound grant table (spec/18 R359); a corrected error in a unit (spec/18 R366); the table engine's choice of the n-th key left of a split's
hash word as the one it steps next (spec/09 R181). -/
inductive Outer where
  | upset (u : Upset)
  | hostRead (f : Func) (bar off n : Nat)
  | timeSource (src : Option TimeSource) (steps : Bool)
  | msixMask (f : Func) (v : Nat) (on : Bool)
  | vfEnable (k : Fin 16) (on : Bool)
  | inboundGrant (i : Fin 64) (g : Option (Nat × Nat × Nat))
  | corrected (u : Fin 41)
  | hashKey (t : TeamIx) (g : GrpIx) (k : SplitIx) (n : Nat)
  deriving DecidableEq, Repr

/-- Who moves in a step: a group's scalar stream, one of its splits, the contender that a quarter of a core chooses among the ready ones for its scalar or its
lane slot (spec/15 R313), the step of an engine, of the hub or of the outside, or what has no instruction. -/
inductive Act where
  | scalar (t : TeamIx) (g : GrpIx)
  | lane (t : TeamIx) (g : GrpIx) (k : SplitIx)
  | slot (c : CoreIx) (q : Fin 4) (lane : Bool) (ready : List (TeamIx × GrpIx × SplitIx))
  | event (i : Instr)
  | outer (o : Outer)
  deriving DecidableEq, Repr

/-- One entry of the schedule: the reference ticks that pass, then who moves. -/
structure Turn where
  ticks : Nat
  act   : Act
  deriving DecidableEq, Repr

/-- The whole machine. `lines` is the metadata of the lines that were written through a page, by line number (spec/11 R230); `uses` are the atomics' works on
elements that no device-scope release and acquire has closed (spec/13 R254); `completing` are the counters that have completed and whose release has not (spec/15 R300).
`outgoing` are the bytes that acqrel fences have sent on their way, oldest first. `readyNodes` are the graph nodes that became ready and have not entered the ready pool, in that order (spec/15 R302). `cur`, `gix` and `spl` name the stream whose word is being run; `sched` is the schedule still to come; `tick` counts steps
and feeds the free values; `blocked` says that the step just made found its word or event waiting, and `stalled` lists who waited since the last
step that moved; `slew` is by how many millionths the servo runs REFT's rate ahead of the clocks' (spec/15 R309). -/
structure State where
  cur      : TeamIx
  gix      : GrpIx
  spl      : SplitIx
  sched    : List Turn
  tick     : Nat
  blocked  : Bool
  stalled  : List Act
  halted   : Bool
  reft     : DWord
  slew     : Int
  teams    : Vector Team 10240
  cores    : Vector CoreSt 160
  clusters : Vector ClusterSt 40
  dies     : Vector DieSt 4
  queues   : Vector Queue 256
  counters : Vector Counter 4096
  pennants : Vector Pennant 4096
  slots    : Vector Slot 256
  ctxs     : Vector Ctx 256
  parts    : Vector Partition 16
  mgmt     : Mgmt
  monitors : List Monitor
  pacqs    : List PacqWait
  homeRed  : List Comb
  outgoing : List Outgoing
  launches : List Launch
  graphs   : List Graph
  readyNodes : List (Nat × Nat)
  saved    : List Saved
  nextId   : Nat
  nextLid  : Word
  mem      : Mem
  memPoison : List Nat
  lines    : List (Nat × LineTag)
  uses     : List ScopeUse
  completing : List (Nat × Counter)
  hostMem  : Mem
  peerMem  : Mem
  deriving DecidableEq, Repr

/-! ## Reset values -/

/-- A trap record with every field as an inapplicable field reads (spec/16 R319). -/
def TrapRec.zero : TrapRec :=
  { cause := 0, pos := 0, async := false, reply := false, fwd := false, hw := false, lane := 0xFF, gslot := 0, ctx := 0, part := 0, die := 0, cluster := 0, core := 0,
    grpix := 0, spc := 0, lpc := 0xFFFFFFFF, cmdseq := 0, elem := 0, launchid := 0, addr := 0, reft := 0, info := 0, tag := 0, seq := 0 }

def Priv.zero : Priv :=
  { epc := 0, elpc := 0xFFFFFFFF, ecause := 0, eaddr := 0, ecmdseq := 0, eelem := 0, elane := 0xFF, einfo := 0, fwd := false,
    hscr := Vector.replicate 4 0, record := TrapRec.zero, split := none, waited := false }

def Shape.zero : Shape :=
  { base := 0, fmt := 0, rank := 1, rights := 0, fill := false, ctx := 0, valid := false, ext := [1, 1, 1, 1, 1], str := [0, 0, 0, 0] }

/-- A group slot that holds no group; its registers are those of a group that starts (spec/03 R56).
Rests on notes/assumptions 1 (DESIGN CHOICE). -/
def Group.zero : Group :=
  { phase := .none, sregs := Vector.replicate 256 0, qregs := Vector.replicate 8 false, spc := 0, prevSpc := 0, calls := [], lticket := 0, fflags := 0,
    trapen := 0, reftHi := 0, ccycHi := 0, ncycHi := 0, pcntHi := 0, batchSeq := 0, cmdSeq := 0, blocks := [],
    vregs := Vector.replicate 256 (Vector.replicate 64 0), preds := Vector.replicate 8 0, latches := Vector.replicate 4 (Vector.replicate 64 0),
    retired := 0, splits := Vector.replicate 4 none, stack := Vector.replicate 16 .free, chain := none, parked := [], handler := false, priv := Priv.zero, pend := [],
    openB := [], batches := [], mpri := 0, laneCnt := 0, scalCnt := 0, dbgSkip := none, stopReq := false, stepping := false, waitaRes := none,
    armed := false, fence := none, lnch := none, errs := [], late := Vector.replicate 7 0, guessed := none, claim := none, uses := none,
    lastIssue := Vector.replicate 5 0, producers := [] }

/-- The shape a tile register takes at placement (spec/08 R159): 64 rows of 256 bytes, format 0, row-major.
Rests on notes/assumptions 6 (DESIGN CHOICE). -/
def Tile.zero : Tile :=
  { shape := { rows := 64, rb := 256, fmt := 0, layout := 0 }, bytes := [], poison := [] }

/-- Rests on notes/assumptions 1 (DESIGN CHOICE), 6 (DESIGN CHOICE). -/
def Acc.zero : Acc :=
  { prim := Vector.replicate 4096 0, shadow := Vector.replicate 4096 0, filled := false, pend := none, pendAge := 0, poison := false, spoison := false,
    err := false, serr := false }

/-- Rests on notes/assumptions 1 (DESIGN CHOICE). -/
def HashTab.zero : HashTab :=
  { claimed := false, desc := Vector.replicate 4 0, live := 0, tomb := 0, spilled := 0, lost := 0, ringP := 0, ringC := 0, ring := Shape.zero,
    dstate := false, dgrp := 0, dout := (0, 0), rel := none, dcur := 0, dcnt := 0 }

/-- Rests on notes/assumptions 1 (DESIGN CHOICE). -/
def Hoist.zero : Hoist := { cap := 0, items := [], allow := 0, resv := 0, waiters := [] }

/-- Rests on notes/assumptions 1 (DESIGN CHOICE). -/
def Barrier.zero : Barrier := { count := 0, n := 0, gen := 0 }

def Obj.zero : Obj :=
  { stext := 0, ssize := 0, entry := 0, lbase := 0, lwords := 0, groups := 1, vregs := 32, tiles := 0, accs := 0, htabs := 0, hoists := 0, bars := 0,
    spadG := 0, caps := [] }

/-- Rests on notes/assumptions 1 (DESIGN CHOICE). -/
def Team.zero : Team :=
  { live := false, launch := 0, launchId := 0, ctx := 0, part := 0, coord := Vector.replicate 3 0, dims := Vector.replicate 3 0, obj := Obj.zero,
    handler := none, prio := 0, scope := 4, race := false, raceTrap := false, core := 0, slots := [], spadBase := 0, spadSize := 0, index := 0,
    groups := Vector.replicate 16 Group.zero, spad := [], spadPoison := [], past := [], pool := Vector.replicate 32 .free, poolGrp := Vector.replicate 32 0, tiles := Vector.replicate 32 Tile.zero,
    accs := Vector.replicate 8 Acc.zero, tabs := Vector.replicate 4 HashTab.zero, hoists := Vector.replicate 16 Hoist.zero,
    bars := Vector.replicate 16 Barrier.zero, rowCnt := Vector.replicate 16 0, filling := 0, epoch := 0, shadow := [], cmds := [], reqs := [], mxAge := 0,
    waitSince := none, errs := [], placed := 0 }

/-- A core at device reset: 2 L1 ways (spec/08 R150), an empty Guidon table (spec/07 R143), zero event counters (spec/17 R349).
Rests on notes/assumptions 1 (DESIGN CHOICE). -/
def CoreSt.zero : CoreSt :=
  { ways := 2, l1 := [], comb := [], utlb := [], guidon := [], samples := [], rr := Vector.replicate 4 0, cnt := Vector.replicate 16 0, cntBase := 0, lastCtx := none,
    retiredC := false, retiring := false, promoted := [], held := Vector.replicate 4 none, resolving := Vector.replicate 4 none }

def ClusterSt.zero : ClusterSt := { atom := [], passes := 0 }

/-- A die at device reset: 1.6 GHz nominal (spec/01 R11), counters zero (spec/15 R311).
Rests on notes/assumptions 1 (DESIGN CHOICE), 25 (DEDUCED). -/
def DieSt.zero : DieSt :=
  { up := true, skew := 4, freq := 16, phase := 0, ccyc := 0, ncyc := 0, relock := none, newFreq := 16, stepSeq := 0, steps := [], far := [], tlb := [],
    waitaFalse := [] }

/-- Rests on notes/assumptions 1 (DESIGN CHOICE). -/
def Queue.zero : Queue :=
  { ring := 0, log2n := 4, state := 0, ctx := 0, ridxa := 0, ridx := 0, widx := 0, fence := none, packet := none, waitTag := none, failed := false }

/-- A completion counter after device reset (spec/15 R299). -/
def Counter.fresh : Counter :=
  { count := 0, target := 1, parent := 0xFFFF, level := 0, act := 0, msix := 0, pen := 0, waddr := 0, wval := 0, status := 1, scope := 4, retired := 0,
    done := 0, worst := 1 }

/-- A pennant as it is assigned to a context (spec/12 R244). -/
def Pennant.fresh : Pennant := { ctr := 0, scope := 4, regions := [] }

/-- Rests on notes/assumptions 1 (DESIGN CHOICE). -/
def Slot.zero : Slot :=
  { resaddr := 0, expect := 1, op := 0, armed := false, penen := false, pen := 0, count := 0, round := 0, contribs := [] }

def RingSt.zero : RingSt := { produced := 0, waiting := [], overflow := 0, seq := 0 }

/-- Rests on notes/assumptions 1 (DESIGN CHOICE). -/
def Ctx.zero : Ctx :=
  { raw := 0, valid := false, dsen := false, stepOn := false, invDone := false, invErr := false, ringBad := 0, shapeIx := 0, shapeBuf := 0,
    fring := RingSt.zero, rring := RingSt.zero, nextTag := 0, replies := [], session := none, ignored := 0 }

/-- Rests on notes/assumptions 1 (DESIGN CHOICE). -/
def Partition.zero : Partition :=
  { clmask := 0, ctx := 0xFFFF, st := 0, sealed := false, sealack := false, scrub := false, shadow := 0, ranges := List.replicate 8 (0, 0),
    next := 0xFFFF, swapped := false, since := 0 }

/-- Fuses that gate nothing, with the two highest physical cores of each die as its spares.
Rests on notes/assumptions 119 (DESIGN CHOICE). -/
def Fuses.whole : Fuses := { ports := 0xFFF, host := true, spares := Vector.replicate 4 (40, 41) }

/-- The management window after device reset (spec/18 R362, R367, R369; unused spares read 0x3F in both fields, spec/01 R10).
Rests on notes/assumptions 5 (DESIGN CHOICE), 68 (DEDUCED), 72 (DESIGN CHOICE). -/
def Mgmt.zero : Mgmt :=
  { ready0 := 0, ready1 := 0, service := 0, filtered := 0, tdp := 1600, subst := Vector.replicate 4 0x3F3F3F3F, routes := Vector.replicate 256 0,
    grants := Vector.replicate 64 none, portsDeg := 0, linksDown := [], meas := Vector.replicate 8 0, bootErr := 0, idIndex := 0, bootCount := 0,
    aliasOk := false, aliasSeed := [], aliasCert := [], booted := false, quotes := 0, answer := .none, mpGrants := List.replicate 16 (0, 0), mpDropped := 0, mpData := [],
    timeSrc := none, timeSteps := false, stepDown := 0, pcieDeg := false, spared := [], deadSpares := [], peerOut := [], hostData := [], unsupported := [], msix := [],
    msixMask := [], msixPend := [], vfOn := 0, fuses := Fuses.whole, corrected := Vector.replicate 41 0, ceLimit := Vector.replicate 41 0 }

/-- The machine right after device reset: no team is resident, no queue runs, every table is in its reset state.
Rests on notes/assumptions 1 (DESIGN CHOICE), 99 (DESIGN CHOICE). -/
def State.reset : State :=
  { cur := 0, gix := 0, spl := 0, sched := [], tick := 0, blocked := false, stalled := [], halted := false, reft := 0, slew := 0,
    teams := Vector.replicate 10240 Team.zero, cores := Vector.replicate 160 CoreSt.zero, clusters := Vector.replicate 40 ClusterSt.zero,
    dies := Vector.replicate 4 DieSt.zero, queues := Vector.replicate 256 Queue.zero, counters := Vector.replicate 4096 Counter.fresh,
    pennants := Vector.replicate 4096 Pennant.fresh, slots := Vector.replicate 256 Slot.zero, ctxs := Vector.replicate 256 Ctx.zero,
    parts := Vector.replicate 16 Partition.zero, mgmt := Mgmt.zero, monitors := [], pacqs := [], homeRed := [], outgoing := [], launches := [], graphs := [], readyNodes := [],
    saved := [], nextId := 0, nextLid := 0, mem := [], memPoison := [], lines := [], uses := [], completing := [], hostMem := [], peerMem := [] }

end Sys2Proof.Machine
end

