-- ==== Sys2Proof/Machine/Memory.lean ====
section
/-! DEFINITION. Byte stores in canonical form: reads, writes, and the form itself. An address that nothing lists reads as 0 (notes/assumptions/2.md). -/

namespace Sys2Proof.Machine

/-- The byte at an address.
Rests on notes/assumptions 2 (DESIGN CHOICE). -/
def Memory.read : Mem → Nat → Byte
  | [], _ => 0
  | (k, b) :: r, a => if k = a then b else Memory.read r a

/-- Writes one byte, keeping addresses rising and zero bytes unlisted.
Rests on notes/assumptions 2 (DESIGN CHOICE). -/
def Memory.write : Mem → Nat → Byte → Mem
  | [], a, v => if v = 0 then [] else [(a, v)]
  | (k, b) :: r, a, v =>
    if a < k then (if v = 0 then (k, b) :: r else (a, v) :: (k, b) :: r)
    else if a = k then (if v = 0 then r else (a, v) :: r)
    else (k, b) :: Memory.write r a v

/-- Every address of the list is above a, the addresses rise, and no byte is 0. -/
def Memory.wfAbove : Option Nat → Mem → Bool
  | _, [] => true
  | lo, (k, b) :: r => (match lo with | none => true | some a => decide (a < k)) && !(b == 0) && Memory.wfAbove (some k) r

/-- The canonical form: strictly rising addresses and no byte equal to what an unlisted address reads as.
Rests on notes/assumptions 2 (DESIGN CHOICE). -/
def Memory.wf (m : Mem) : Bool := Memory.wfAbove none m

/-- The n bytes from an address upward. -/
def Memory.readBytes (m : Mem) (a : Nat) : Nat → List Byte
  | 0 => []
  | n + 1 => Memory.read m a :: Memory.readBytes m (a + 1) n

/-- Writes bytes from an address upward. -/
def Memory.writeBytes (m : Mem) (a : Nat) : List Byte → Mem
  | [] => m
  | b :: r => Memory.writeBytes (Memory.write m a b) (a + 1) r

/-- The little-endian number in n bytes from an address (spec/00 R3). -/
def Memory.readLe (m : Mem) (a n : Nat) : Nat := ofBytes (Memory.readBytes m a n)

/-- Writes the n low bytes of a number, little-endian (spec/00 R3). -/
def Memory.writeLe (m : Mem) (a n v : Nat) : Mem := Memory.writeBytes m a (toBytes n v)

/-- Drops every byte of [a, a+n). -/
def Memory.clear (m : Mem) (a n : Nat) : Mem := m.filter fun c => !(decide (a ≤ c.1 ∧ c.1 < a + n))

/-- Drops every byte at or above an address. -/
def Memory.truncate (m : Mem) (a : Nat) : Mem := m.filter fun c => decide (c.1 < a)

end Sys2Proof.Machine
end

