-- ==== Sys2Proof/Machine/Ops.lean ====
section
/-! DEFINITION. The shared operations: the stream in hand, its registers, counters and program counter, records and rings, taking a trap and returning
from one, time, translation, and the fetch of words. -/

namespace Sys2Proof.Machine

/-! ## The stream in hand -/

/-- The team whose word runs. -/
def State.team (s : State) : Team := s.teams[s.cur]

/-- The group whose word runs. -/
def State.grp (s : State) : Group := s.team.groups[s.gix]

def State.setTeam (s : State) (t : Team) : State := { s with teams := s.teams.set s.cur t }

def State.modTeam (s : State) (f : Team → Team) : State := s.setTeam (f s.team)

def State.setGrp (s : State) (g : Group) : State := s.modTeam fun t => { t with groups := t.groups.set s.gix g }

def State.modGrp (s : State) (f : Group → Group) : State := s.setGrp (f s.grp)

/-- Takes a team's group in hand. -/
def State.at (s : State) (t : TeamIx) (g : GrpIx) : State := { s with cur := t, gix := g }

/-- The core of the team in hand. -/
def State.core (s : State) : CoreSt := s.cores[s.team.core]

def State.modCore (s : State) (c : CoreIx) (f : CoreSt → CoreSt) : State := { s with cores := s.cores.set c (f s.cores[c]) }

/-- The die of a core (spec/01 R14). -/
def dieOf (c : CoreIx) : DieIx := ⟨c.val / 40, by omega⟩

/-- The cluster of a core (spec/01 R14). -/
def clusterOf (c : CoreIx) : Fin 40 := ⟨c.val / 4, by omega⟩

/-- The die of the team in hand. -/
def State.dieIx (s : State) : DieIx := dieOf s.team.core

def State.die (s : State) : DieSt := s.dies[s.dieIx]

def State.modDie (s : State) (d : DieIx) (f : DieSt → DieSt) : State := { s with dies := s.dies.set d (f s.dies[d]) }

def State.modCluster (s : State) (c : Fin 40) (f : ClusterSt → ClusterSt) : State := { s with clusters := s.clusters.set c (f s.clusters[c]) }

def State.ctx (s : State) (c : CtxIx) : Ctx := s.ctxs[c]

def State.modCtx (s : State) (c : CtxIx) (f : Ctx → Ctx) : State := { s with ctxs := s.ctxs.set c (f s.ctxs[c]) }

/-- A word or an event that has to wait: nothing changes but the mark that it waited.
Rests on notes/assumptions 20 (DESIGN CHOICE), 21 (DESIGN CHOICE). -/
def State.wait (s : State) : Host.Outcome State Fault Refusal := .next { s with blocked := true }

/-! ## Scalar registers and predicates -/

def State.sr (s : State) (r : Reg) : Word := s.grp.sregs[r.toNat]

/-- A register pair, low word in the even register (spec/00 R3). -/
def State.sr64 (s : State) (r : Reg) : DWord := s.sr (r + 1) ++ s.sr r

/-- A write of a place makes it whole again: the places that meet p hold no error any more (spec/16 R318). -/
def mendErrs (p : ErrAt → Bool) (es : List ErrAt) : List ErrAt := es.filter fun e => !p e

def State.setSr (s : State) (r : Reg) (v : Word) : State :=
  s.modGrp fun g => { g with sregs := g.sregs.set r.toNat v, errs := mendErrs (fun e => e == .sreg r) g.errs }

def State.setSr64 (s : State) (r : Reg) (v : DWord) : State := (s.setSr r (v.extractLsb' 0 32)).setSr (r + 1) (v.extractLsb' 32 32)

/-- q7 reads true (spec/02 R25). -/
def State.qr (s : State) (q : BitVec 3) : Bool := q == 7 || s.grp.qregs[q.toNat]

/-- An accumulator whose pending predicate is written (spec/14 R282): true makes the shadow the primary, false throws it away. -/
def Acc.resolve (v : Bool) (a : Acc) : Acc :=
  { a with prim := if v && a.filled then a.shadow else a.prim, filled := false, pend := none,
           poison := if v && a.filled then a.spoison else a.poison, spoison := false,
           err := if v && a.filled then a.serr else a.err, serr := false }

/-- True when a request is speculative under the pending predicate p. -/
def Team.specUnder (t : Team) (p : GrpIx × BitVec 3) (r : MxReq) : Bool :=
  r.spec && (match t.accs[r.acc]? with | some a => a.pend == some p | none => false)

/-- The first write of a q predicate that a speculative request waits for commits or discards it (spec/14 R282). -/
def Team.resolve (t : Team) (p : GrpIx × BitVec 3) (v : Bool) : Team :=
  { t with
    accs := mapAll (fun a => if a.pend == some p then a.resolve v else a) t.accs
    reqs := if v then t.reqs.map fun r => if t.specUnder p r then { r with spec := false } else r
            else t.reqs.filter fun r => !t.specUnder p r }

/-- Writes a q predicate; a write to q7 is discarded (spec/02 R25). -/
def State.setQ (s : State) (q : BitVec 3) (v : Bool) : State :=
  if q = 7 then s
  else (s.modGrp fun g => { g with qregs := g.qregs.set q.toNat v, errs := mendErrs (fun e => e == .qreg q) g.errs }).modTeam fun t => t.resolve (s.gix, q) v

/-! ## Event counters and the program counter -/

/-- Adds to a core's event counter (spec/17 R349).
Rests on notes/assumptions 89 (DEDUCED). -/
def State.countAt (s : State) (c : CoreIx) (k : Fin 16) (n : Nat) : State :=
  s.modCore c fun x => { x with cnt := x.cnt.set k (x.cnt[k] + BitVec.ofNat 64 n) }

def State.count (s : State) (k : Fin 16) (n : Nat) : State := s.countAt s.team.core k n

/-- Counts scalar words as issued by the core and the group (spec/17 R349).
Rests on notes/assumptions 89 (DEDUCED). -/
def State.countScalar (s : State) (n : Nat) : State :=
  (s.count 1 n).modGrp fun g => { g with scalCnt := g.scalCnt + BitVec.ofNat 64 n }

/-- Moves SPC to a target, remembering the word that led there (spec/02 R22). -/
def State.goto (s : State) (target : Word) : State := s.modGrp fun g => { g with prevSpc := g.spc, spc := target }

/-- Ends a scalar word, or an XIMM unit, of len bytes: SPC moves past it (spec/02 R21, R24). -/
def State.advance (s : State) (len : Nat) : State := (s.countScalar (len / 4)).goto (s.grp.spc + BitVec.ofNat 32 len)

/-- Ends a scalar word that transfers control. -/
def State.jump (s : State) (target : Word) : State := (s.countScalar 1).goto target

/-! ## Records, rings and the Streamer -/

/-- REFT as the core of the team in hand reads it (spec/01 R11, spec/15 R309).
Rests on notes/assumptions 25 (DEDUCED). -/
def State.reftAt (s : State) (d : DieIx) : DWord := s.reft + BitVec.ofNat 64 s.dies[d].skew.val - 4

/-- The group slot of a group of a team. -/
def Team.slot (t : Team) (g : GrpIx) : Nat := t.slots.getD g.val 0

/-- A record of the group in hand with the fields every cause fills (spec/16 R319). -/
def State.record (s : State) (c : Cause) : TrapRec :=
  { TrapRec.zero with
    cause := c, gslot := BitVec.ofNat 8 (s.team.slot s.gix), ctx := BitVec.ofNat 16 s.team.ctx.val, part := BitVec.ofNat 8 s.team.part,
    die := BitVec.ofNat 8 s.dieIx.val, cluster := BitVec.ofNat 8 (clusterOf s.team.core).val, core := BitVec.ofNat 8 s.team.core.val,
    grpix := BitVec.ofNat 8 s.gix.val, spc := s.grp.spc, launchid := s.team.launchId, reft := s.reftAt s.dieIx }

/-- Bytes 0x00-0x01 of a record (spec/16 R319). -/
def TrapRec.head (r : TrapRec) : BitVec 16 :=
  BitVec.ofNat 16 (r.cause.toNat + 512 * (r.pos % 4) + (if r.async then 2048 else 0) + (if r.reply then 4096 else 0) + (if r.fwd then 8192 else 0))

/-- The 64 bytes of a record (spec/16 R319). -/
def TrapRec.bytes (r : TrapRec) : List Byte :=
  toBytes 2 r.head.toNat ++ [r.lane, r.gslot] ++ toBytes 2 r.ctx.toNat ++ [r.part, r.die, r.cluster, r.core, r.grpix, 0] ++ toBytes 4 r.spc.toNat ++
  toBytes 4 r.lpc.toNat ++ toBytes 4 r.cmdseq.toNat ++ toBytes 4 r.elem.toNat ++ toBytes 4 r.launchid.toNat ++ toBytes 8 r.addr.toNat ++
  toBytes 8 r.reft.toNat ++ toBytes 8 r.info.toNat ++ toBytes 4 r.tag.toNat ++ toBytes 4 r.seq.toNat

/-- Hands a record to the hub for a context's fatal lane (spec/16 R320). -/
def State.sendFatal (s : State) (c : CtxIx) (r : TrapRec) : State :=
  s.modCtx c fun x => { x with fring := { x.fring with waiting := x.fring.waiting ++ [r] } }

/-- The tag that a context's next replayable record gets.
Rests on notes/assumptions 88 (UNVERIFIED). -/
def Ctx.newTag (x : Ctx) (c : CtxIx) : Word := Config.replyTag c.val x.nextTag.toNat

/-- Hands a record to the hub for a context's replayable lane, with a reply tag where something waits for one (spec/16 R320, R321).
Rests on notes/assumptions 88 (UNVERIFIED). -/
def State.sendReplay (s : State) (c : CtxIx) (r : TrapRec) (w : Option ReplyFor) : State :=
  s.modCtx c fun x =>
    match w with
    | none => { x with rring := { x.rring with waiting := x.rring.waiting ++ [r] } }
    | some w =>
      { x with rring := { x.rring with waiting := x.rring.waiting ++ [{ r with reply := true, tag := x.newTag c }] }, nextTag := x.nextTag + 1,
               replies := x.replies ++ [(x.newTag c, w)] }

/-- The head of a Streamer record (spec/17 R343). -/
def streamHead (type len delta src gslot epoch : Nat) : List Byte :=
  toBytes 8 (type + 256 * len + 65536 * delta + 2 ^ 32 * src + 2 ^ 40 * gslot + 2 ^ 48 * epoch)

/-- The TS record of an emitter (spec/17 R344, R345). -/
def streamTs (t : DWord) (src epoch : Nat) : List Byte := streamHead 1 2 0 src 0xFF epoch ++ toBytes 8 t.toNat

/-- Holds a record of one emitter for the session of a context, with the TS record that R344 asks for before it; `cls` is its MASK bit, or none for a
record that MASK never stops (spec/17 R341, R344). -/
def State.emit (s : State) (c : CtxIx) (cls : Option Nat) (src : Nat) (d : Option DieIx) (gslot type : Nat) (body : List Byte) : State :=
  match (s.ctx c).session with
  | none => s
  | some x =>
    if (match cls with | none => true | some k => x.mask.getLsbD k) then
      let t := match d with | some d => s.reftAt d | none => s.reft
      let epoch := match d with | some d => s.dies[d].stepSeq.toNat % 256 | none => 0
      let delta := match x.last.lookup src with | some p => (t - p).toNat | none => 65536
      let head := if delta ≤ 65535 then [] else [streamTs t src epoch]
      let body8 := streamHead type (1 + body.length / 8) (if delta ≤ 65535 then delta else 0) src gslot epoch ++ body
      s.modCtx c fun y =>
        { y with session := some { x with held := x.held ++ head ++ [body8], last := (src, t) :: x.last.filter fun p => p.1 != src } }
    else s

/-! ## Taking a trap -/

/-- The causes that a group's own handler takes (spec/16 R325). -/
def causeHandled (c : Cause) : Bool :=
  let n := c.toNat
  (decide (1 ≤ n ∧ n ≤ 0x1BF) || decide (0x1C5 ≤ n ∧ n ≤ 0x1C7)) && !decide (0x50 ≤ n ∧ n ≤ 0x52)

/-- The causes whose record is copied to the fatal lane as a hardware-error record (spec/16 R317, R318).
Rests on notes/assumptions 93 (DEDUCED). -/
def causeHw (c : Cause) : Bool := c == 0x101 || c == 0x102 || c == 0x103 || c == 0x187

/-- The handler that takes cause c in the group in hand, if one does (spec/16 R325). -/
def State.handlerFor (s : State) (c : Cause) : Option Word := if !s.grp.handler && causeHandled c then s.team.handler else none

/-- Loads the privileged registers from the record that a trap would write (spec/16 R326, R327). -/
def Priv.load (p : Priv) (r : TrapRec) (epc elpc : Word) (split : Option SplitIx) : Priv :=
  { p with epc := epc, elpc := elpc, ecause := r.head.zeroExtend 32, eaddr := r.addr, ecmdseq := r.cmdseq, eelem := r.elem, elane := r.lane.zeroExtend 32,
           einfo := r.info, fwd := false, record := r, split := split, waited := false }

/-- The hardware-error copy of a record whose cause asks for one; an asynchronous one was sent when the error was found.
Rests on notes/assumptions 93 (DEDUCED). -/
def State.sendHw (s : State) (r : TrapRec) : State :=
  if causeHw r.cause && !r.async then s.sendFatal s.team.ctx { r with hw := true } else s

/-- The queue words of a group that wait no longer do (spec/08 R162): they issue again. -/
def Team.dropWaiters (t : Team) (g : GrpIx) : Team := { t with hoists := mapAll (fun h => { h with waiters := h.waiters.filter fun w => w.1 != g }) t.hoists }

/-- What a group that waits for nothing outside it any more has given up; a LNCH whose counter is re-armed keeps its body. -/
def Group.dropWaits (g : Group) : Group :=
  { g with fence := none, armed := false, waitaRes := none, claim := none, uses := none, lnch := g.lnch.filter fun x => x.2.isSome }

/-- Takes the group's place back from a word that waits with something registered outside the group: its monitor, its pennant wait and its reply tag are
dropped (spec/12 R249, R250), so the word issues again later.
Rests on notes/assumptions 100 (DEDUCED). -/
def State.dropWaits (s : State) : State :=
  let mine (x : Word × ReplyFor) : Bool := x.2 == .waita s.cur s.gix || x.2 == .lnch s.cur s.gix
  let s1 : State := { s with monitors := s.monitors.filter fun m => !(m.team == s.cur && m.grp == s.gix),
                             pacqs := s.pacqs.filter fun p => !(p.team == s.cur && p.grp == s.gix) }
  (s1.modCtx s.team.ctx fun c => { c with replies := c.replies.filter fun x => !mine x }).modGrp Group.dropWaits

/-- Takes a trap in the group in hand (spec/16 R325-R327): what its scalar word waited with is dropped, so that the word issues anew after the handler.
In handler mode it is a double trap, which stops the group with cause 0x1E3; otherwise the privileged registers take the record, and the group enters its
handler or writes the record to the fatal lane and stops.
Rests on notes/assumptions 90 (DEDUCED), 93 (DEDUCED). -/
def State.takeTrap (s : State) (r : TrapRec) (epc elpc : Word) (split : Option SplitIx) : State :=
  if s.grp.handler then
    ((s.sendHw r).dropWaits.modGrp fun g => { g with phase := .stopped }).sendFatal s.team.ctx { r with cause := 0x1E3, pos := 0, addr := 0, info := r.cause.zeroExtend 64 }
  else
    let s1 := ((s.sendHw r).dropWaits.modGrp fun g => { g with priv := g.priv.load r epc elpc split }).modTeam fun t => t.dropWaiters s.gix
    match s.handlerFor r.cause with
    | some h => s1.modGrp fun g => { g with handler := true, prevSpc := g.spc, spc := h }
    | none => (s1.modGrp fun g => { g with phase := .stopped }).sendFatal s.team.ctx r

/-- A precise trap of the scalar word at SPC (spec/16 R317, R323). The splits stop at a chain boundary first (spec/03 R72, spec/16 R326), so a trap found
while a chain of the group is open waits for the chain to end. -/
def State.scalarTrap (s : State) (c : Cause) (addr info : DWord) : Host.Outcome State Fault Refusal :=
  if s.grp.chain.isSome then s.wait
  else .next (s.takeTrap { s.record c with addr := addr, info := info } s.grp.spc 0xFFFFFFFF none)

/-- A precise scalar trap with no address. -/
def State.scalarTrap0 (s : State) (c : Cause) : Host.Outcome State Fault Refusal := s.scalarTrap c 0 0

/-- A class C trap of a scalar word of 4 bytes: the word has completed, and EPC names the next word (spec/16 R317, R327). -/
def State.scalarTrapAfter (s : State) (c : Cause) (info : DWord) : Host.Outcome State Fault Refusal :=
  if s.grp.chain.isSome then s.wait
  else .next ((s.advance 4).takeTrap { s.record c with info := info } (s.grp.spc + 4) 0xFFFFFFFF none)

/-- Adds an asynchronous trap to those pending for the group in hand (spec/16 R324). -/
def State.pendTrap (s : State) (cmd : Bool) (split : Option SplitIx) (r : TrapRec) : State :=
  s.modGrp fun g => { g with pend := g.pend ++ [{ cmd := cmd, split := split, trap := { r with async := true } }] }

/-- An asynchronous trap of the group in hand; a group that has ended leaves its record on the fatal lane. -/
def State.raiseAsync (s : State) (cmd : Bool) (r : TrapRec) : State :=
  if s.grp.phase == .exited then s.sendFatal s.team.ctx { r with async := true } else s.pendTrap cmd none r

/-- The word that a split waits in: its BAR where it waits at a barrier (spec/16 R327). -/
def Split.blocked (p : Split) : Word := if p.atBar.isSome then p.lpc - 1 else p.lpc

/-- Sets the LPC of a split. A split that waits at a barrier stands after its BAR, and goes on waiting when it is sent there or to the BAR; one that goes
elsewhere no longer waits.
Rests on notes/assumptions 104 (DEDUCED). -/
def Group.setLpc (g : Group) (k : SplitIx) (pc : Word) : Group :=
  { g with splits := g.splits.set k (g.splits[k].map fun p =>
      if p.atBar.isSome && pc + 1 == p.lpc then p else { p with lpc := pc, atBar := if p.lpc = pc then p.atBar else none }) }

/-- Leaves handler mode, or resumes a stopped group: SPC takes EPC and the trapping split takes ELPC (spec/16 R325, R328). A split that had arrived at the
barrier that ELPC names stays where it is: its arrival has counted (spec/08 R163).
Rests on notes/assumptions 90 (DEDUCED), 104 (DEDUCED). -/
def Group.resumeAt (g : Group) : Group :=
  let g1 := { g with handler := false, phase := .running, prevSpc := g.spc, spc := g.priv.epc, priv := { g.priv with fwd := false, split := none } }
  match g.priv.split with
  | some k =>
    if g.priv.waited && (match g.splits[k] with | some p => p.lpc == g.priv.elpc + 1 | none => false) then g1 else g1.setLpc k g.priv.elpc
  | none => g1

def State.resumeAt (s : State) : State := s.modGrp Group.resumeAt

/-- Forwards the trap that a handler would not finish: the record goes to the fatal lane with FWD set and the group stops (spec/16 R328). -/
def State.forwardTrap (s : State) : State :=
  (s.modGrp fun g => { g with handler := false, phase := .stopped, priv := { g.priv with fwd := false } }).sendFatal s.team.ctx
    { s.grp.priv.record with fwd := true }

/-- A command that has not ended. -/
def Cmd.live (c : Cmd) : Bool := c.stat == .running || c.stat == .suspended

/-- The place of a CMDSEQ counted from the oldest command of the group that is outstanding (spec/16 R324). -/
def Team.cmdAge (t : Team) (g : GrpIx) (seq : Word) : Nat :=
  match t.cmds.filter fun c => c.live && c.gix == g with
  | [] => 0
  | c :: _ => (seq - c.seq).toNat

/-- A pending trap that names a command still outstanding. -/
def Team.pendFirst (t : Team) (g : GrpIx) (p : Pend) : Bool := p.cmd && t.cmds.any fun c => c.live && c.gix == g && c.seq == p.trap.cmdseq

/-- The index of the pending trap that is taken next (spec/16 R324). -/
def Team.pickPend (t : Team) (g : GrpIx) (ps : List Pend) : Nat :=
  let ix := (List.range ps.length).filter fun i => match ps[i]? with | some p => t.pendFirst g p | none => false
  let age (i : Nat) : Nat := match ps[i]? with | some p => t.cmdAge g p.trap.cmdseq | none => 0
  ix.foldl (fun b i => if (match ix with | [] => false | _ => age i < age b) then i else b) (ix.headD 0)

/-- A pending asynchronous trap that the group may take, or a requested stop. -/
def Group.wantsTrap (g : Group) : Bool := g.phase == .running && (g.stopReq || (!g.handler && !g.pend.isEmpty))

/-- A group that can take a pending asynchronous trap, or a requested stop, now. -/
def Group.deliverable (g : Group) : Bool := g.wantsTrap && g.chain.isNone

/-- A HREL or a HSTAT of the group in hand is in progress (spec/09 R188).
Rests on notes/assumptions 97 (DEDUCED). -/
def State.tableWork (s : State) : Bool := (s.team.tabs.any fun h => h.rel == some s.gix) || (match s.grp.uses with | some (_, b) => b | none => false)

/-- An HDRAIN, a HREL or a HSTAT of the group in hand is in progress: it ends before a trap of the group is taken (spec/09 R187, R188).
Rests on notes/assumptions 97 (DEDUCED). -/
def State.draining (s : State) : Bool := (s.team.tabs.any fun h => h.dstate && h.dgrp == s.gix) || s.tableWork

/-- The asynchronous delivery at an issue boundary: a requested stop first, else the pending trap that R324 puts first (spec/16 R324, R326,
spec/17 R351).
Rests on notes/assumptions 104 (DEDUCED). -/
def State.deliver (s : State) : State :=
  let g := s.grp
  if g.stopReq then
    (s.modGrp fun g => { g with stopReq := false }).takeTrap (s.record 0x051) g.spc 0xFFFFFFFF none
  else
    match g.pend[s.team.pickPend s.gix g.pend]? with
    | none => s
    | some p =>
      let at_ := p.split.bind fun k => g.splits[k]
      let elpc : Word := match at_ with | some x => x.blocked | none => 0xFFFFFFFF
      let bar := match at_ with | some x => x.atBar.isSome | none => false
      ((s.modGrp fun g => { g with pend := g.pend.eraseIdx (s.team.pickPend s.gix g.pend) }).takeTrap p.trap g.spc elpc p.split).modGrp fun g =>
        { g with priv := { g.priv with waited := bar } }

/-! ## Time -/

/-- NCYC units of 2^-16 cycle that a clock adds at n x 0.1 GHz (spec/15 R311): RoundNE(1,048,576 / n).
Rests on notes/assumptions 24 (DESIGN CHOICE). -/
def ncycInc (n : Nat) : Nat :=
  let q := 1048576 / n
  let r := 1048576 % n
  if 2 * r > n ∨ (2 * r = n ∧ q % 2 = 1) then q + 1 else q

/-- One die over n reference ticks that start at REFT t (spec/15 R311, R312): while REFT slews by r millionths, a tick lasts as many millionths less of a
nanosecond of the clocks (R309).
Rests on notes/assumptions 24 (DESIGN CHOICE), 79 (DEDUCED). -/
def DieSt.elapse (d : DieSt) (r : Int) (t n : Nat) : DieSt :=
  match d.relock with
  | some r => { d with relock := some (r - n), ncyc := (d.ncyc + 8 * 65536 * ((t + n) / 5 - t / 5)) % 2 ^ 80 }
  | none =>
    let u := d.phase + n * d.freq * (1000000 - r).toNat
    let k := u / 10000000
    { d with phase := u % 10000000, ccyc := d.ccyc + BitVec.ofNat 64 k, ncyc := (d.ncyc + k * ncycInc d.freq) % 2 ^ 80 }

/-- As many of n ticks as pass before the first relock in progress ends.
Rests on notes/assumptions 24 (DESIGN CHOICE). -/
def State.untilLock (s : State) (n : Nat) : Nat := s.dies.toList.foldl (fun m d => match d.relock with | some r => min m r | none => m) n

/-- Lets up to n reference ticks pass (spec/15 R309, R311); the end of a relock comes before the time after it.
Rests on notes/assumptions 24 (DESIGN CHOICE). -/
def State.elapse (s : State) (n : Nat) : State :=
  if s.halted then s
  else
    let k := s.untilLock n
    { s with reft := s.reft + BitVec.ofNat 64 k, dies := mapAll (fun d => d.elapse s.slew s.reft.toNat k) s.dies }

/-! ## Translation -/

/-- A field of a context descriptor, by byte offset and byte count (spec/16 R329). -/
def Ctx.field (c : Ctx) (off n : Nat) : Nat := bitsOf c.raw (8 * off) (8 * n)

/-- A byte of a page table as a walk through a die's L2 reads it: what the die wrote and has not pushed, else what stands at home, since the walk sees what
system software has made visible at device scope (spec/10 R210). -/
def State.walkByte (s : State) (d : DieIx) (pa : Nat) : Byte :=
  match s.dies[d].far.find? fun b => b.pa == pa && b.dirty with
  | some b => b.val
  | none => Memory.read s.mem pa

/-- The bytes of n addresses of a page table through a die's L2. -/
def State.walkBytes (s : State) (d : DieIx) (pa : Nat) : Nat → List Byte
  | 0 => []
  | n + 1 => s.walkByte d pa :: s.walkBytes d (pa + 1) n

/-- A byte of device memory as the L2 of a die gives it: its far copy where it holds one, else home (spec/01 R16). -/
def State.l2Byte (s : State) (d : DieIx) (pa : Nat) : Byte :=
  match s.dies[d].far.find? fun b => b.pa == pa with
  | some b => b.val
  | none => Memory.read s.mem pa

/-- The bytes of n addresses through a die's L2. -/
def State.l2Bytes (s : State) (d : DieIx) (pa : Nat) : Nat → List Byte
  | 0 => []
  | n + 1 => s.l2Byte d pa :: s.l2Bytes d (pa + 1) n

/-- The page size code that a leaf at a level may carry (spec/10 R210, R211). -/
def pageBits (level ps : Nat) : Option Nat :=
  match level, ps with
  | 3, 2 => some 34
  | 4, 0 => some 16
  | 4, 1 => some 25
  | _, _ => none

/-- A leaf entry as a translation, or none where R210 or R211 refuses one of its fields; HOME and CODEC of a host or peer page are ignored (R211,
spec/11 R230). An address beyond the capacity of its stack is no refusal.
Rests on notes/assumptions 8 (DEDUCED), 14 (DEDUCED), 40 (DESIGN CHOICE). -/
def leafOf (c : CtxIx) (va level e : Nat) : Option TlbE :=
  let f (lo len : Nat) : Nat := (e >>> lo) % 2 ^ len
  match pageBits level (f 6 2) with
  | none => none
  | some b =>
    let host := f 58 1 == 1
    let peer := f 59 1 == 1
    if (host ∨ peer ∨ f 60 3 ≤ 2) ∧ f 56 2 ≤ 2 ∧ (host ∨ peer ∨ f 53 3 ≤ 4) ∧ f 8 8 = 0 ∧ (f 16 37 * 65536) % 2 ^ b = 0 then
      some { ctx := c, va := va - va % 2 ^ b, size := 2 ^ b, pa := f 16 37 * 65536,
             space := if peer then .peer (f 45 8) else if host then .host else .device,
             homeF := f 53 3, cp := f 56 2, codec := if host || peer then 0 else f 60 3, poison := f 63 1 == 1, rights := BitVec.ofNat 4 (f 1 4) }
    else none

/-- The walk from a table at a level down (spec/10 R210, R211, R213): the levels left, as (level, lowest index bit, index bits). -/
def State.walkFrom (s : State) (d : DieIx) (c : CtxIx) (va : Nat) : List (Nat × Nat × Nat) → Nat → Except Cause TlbE
  | [], _ => .error 0x085
  | (level, lo, len) :: rest, table =>
    let e := ofBytes (s.walkBytes d (table + 8 * ((va >>> lo) % 2 ^ len)) 8)
    if e % 2 = 0 then .error 0x080
    else if (e >>> 5) % 2 = 1 then
      match leafOf c va level e with
      | some t => .ok t
      | none => .error 0x085
    else if (e >>> 16) % 2 ^ 37 * 65536 + 1 = e then s.walkFrom d c va rest ((e >>> 16) % 2 ^ 37 * 65536)
    else .error 0x085

/-- The page-table walk of a context (spec/10 R210). -/
def State.walk (s : State) (d : DieIx) (c : CtxIx) (va : Nat) : Except Cause TlbE :=
  s.walkFrom d c va [(1, 55, 9), (2, 42, 13), (3, 29, 13), (4, 16, 13)] ((s.ctx c).field 0 8)

/-- The physical address of a virtual address in a page. -/
def TlbE.addr (e : TlbE) (va : Nat) : Nat := e.pa + (va - e.va)

/-- The die that homes a physical address of a page (spec/10 R211). -/
def TlbE.home (e : TlbE) (pa : Nat) : Nat := if e.homeF = 4 then (pa >>> 12) % 4 else e.homeF

/-- The right bits of R196 and R211: read, write, reduce, atomic. -/
inductive Right where
  | read | write | reduce | atomic
  deriving DecidableEq, Repr

def Right.bit : Right → Nat
  | .read => 0 | .write => 1 | .reduce => 2 | .atomic => 3

/-- The stack that holds a physical address of a die (spec/01 R8) has set its readiness bit (spec/18 R369). -/
def State.stackReady (s : State) (home pa : Nat) : Bool := s.mgmt.ready0.getLsbD (8 + 2 * home + (pa >>> 16) % 2)

/-- What a leaf refuses to an element at va that needs a right, in the order of spec/10 R213; a peer refuses by its own grants (spec/18 R359).
Rests on notes/assumptions 14 (DEDUCED), 103 (UNVERIFIED). -/
def State.leafFault (s : State) (e : TlbE) (va : Nat) (r : Right) : Option Cause :=
  if !e.rights.getLsbD r.bit then some 0x081
  else if e.space ≠ .device then
    match e.space with
    | .peer n =>
      if (s.mgmt.routes[n % 256]).extractLsb' 0 12 &&& s.mgmt.ready0.extractLsb' 16 12 = 0 then some 0x084
      else if Config.peerRefuses s.tick (e.addr va) then some 0x084
      else none
    | _ => none
  else
    let h := e.home (e.addr va)
    if !(match s.dies[h]? with | some d => d.up | none => false) then some 0x084
    else if !s.stackReady h (e.addr va) then some 0x082
    else none

/-- The translation of one address for one right by a walk (spec/10 R213). -/
def State.translate (s : State) (d : DieIx) (c : CtxIx) (va : Nat) (r : Right) : Except Cause TlbE :=
  match s.walk d c va with
  | .error f => .error f
  | .ok e => match s.leafFault e va r with | some f => .error f | none => .ok e

/-! ## Fetching words -/

/-- The 4 bytes of text at a virtual address of the team's context, where its translation succeeds (spec/02 R53). -/
def State.textWord (s : State) (va : Nat) : Option (List Byte) :=
  match s.translate s.dieIx s.team.ctx va .read with
  | .error _ => none
  | .ok e =>
    some (match e.space with
          | .device => s.l2Bytes s.dieIx (e.addr va) 4
          | .host => Memory.readBytes s.hostMem (e.addr va) 4
          | .peer _ => Memory.readBytes s.peerMem (e.addr va) 4)

/-- The scalar word at an offset of the loaded text.s: none outside it, at an offset that is no multiple of 4, or where the translation fails
(spec/02 R22, R53). -/
def State.scalarWord (s : State) (spc : Word) : Option (BitVec 32) :=
  let o := s.team.obj
  if spc.toNat % 4 = 0 ∧ spc.toNat < o.ssize then (s.textWord (o.stext.toNat + spc.toNat)).map fun b => BitVec.ofNat 32 (ofBytes b) else none

/-- The virtual address of a scalar fetch (spec/02 R22). -/
def State.scalarVa (s : State) (spc : Word) : DWord := s.team.obj.stext + spc.zeroExtend 64

/-- The instruction that the scalar stream in hand issues next (spec/02 R22-R24, R37, R38). An XIMM and the word after it are judged together.
Rests on notes/assumptions 90 (DEDUCED). -/
def State.scalarInstr (s : State) : Instr :=
  let spc := s.grp.spc
  match s.scalarWord spc with
  | none => .nonInstructionWord false 0x044 (s.scalarVa spc)
  | some w =>
    if (w.extractLsb' 26 6).toNat = 0x16 then
      if spc.toNat + 4 < s.team.obj.ssize then
        match s.scalarWord (spc + 4) with
        | none => .nonInstructionWord false 0x044 (s.scalarVa (spc + 4))
        | some n =>
          match ximmFault w n with
          | some c => .nonInstructionWord false c 0
          | none => .ximm (w.extractLsb' 0 22)
      else
        match decodeScalar w with
        | .error c => .nonInstructionWord false c 0
        | .ok _ => .nonInstructionWord false 0x042 0
    else
      match decodeScalar w with
      | .error c => .nonInstructionWord false c 0
      | .ok i => i

/-- The lane word at a lane PC of the loaded text.l (spec/02 R21, R22, R53). -/
def State.laneBits (s : State) (lpc : Word) : Option (BitVec 96) :=
  let o := s.team.obj
  if o.lbase ≤ lpc.toNat ∧ lpc.toNat < o.lbase + o.lwords then
    let va := (s.ctx s.team.ctx).field 0x50 8 + 12 * lpc.toNat
    match s.textWord va, s.textWord (va + 4), s.textWord (va + 8) with
    | some a, some b, some c => some (BitVec.ofNat 96 (ofBytes (a ++ b ++ c)))
    | _, _, _ => none
  else none

/-- The virtual address of a lane fetch (spec/02 R22). -/
def State.laneVa (s : State) (lpc : Word) : DWord := BitVec.ofNat 64 ((s.ctx s.team.ctx).field 0x50 8 + 12 * lpc.toNat)

/-- The n case words from a lane PC on (spec/07 R139): their words, or the address of the first one that cannot be fetched. -/
def State.caseBits (s : State) (lpc : Word) : Nat → Except DWord (List (BitVec 96))
  | 0 => .ok []
  | n + 1 =>
    match s.laneBits lpc with
    | none => .error (s.laneVa lpc)
    | some b =>
      match s.caseBits (lpc + 1) n with
      | .error a => .error a
      | .ok r => .ok (b :: r)

/-- What the n case words after a VSWITCH raise, judged with the word itself in the order of R38: a fetch first, then a reserved field (spec/02 R38,
spec/07 R139). -/
def State.caseFault (s : State) (lpc : Word) (n : Nat) : Option (Cause × DWord) :=
  match s.caseBits (lpc + 1) n with
  | .error a => some (0x002, a)
  | .ok bs => if bs.all fun b => b.extractLsb' 0 32 == 0 then none else some (0x003, 0)

/-- The number of case words that a lane word takes with it: SUB of a VSWITCH (spec/07 R139). -/
def caseCount (w : BitVec 96) : Nat :=
  if w.extractLsb' 86 10 = 0x141 ∧ (w.extractLsb' 32 4).toNat ≤ 8 then (w.extractLsb' 32 4).toNat else 0

/-- The instruction that the split in hand issues next at a lane PC (spec/02 R22, R37, R38). -/
def State.laneInstrAt (s : State) (lpc : Word) : Instr :=
  match s.laneBits lpc with
  | none => .nonInstructionWord true 0x002 (s.laneVa lpc)
  | some w =>
    match s.caseFault lpc (caseCount w) with
    | some (c, a) => .nonInstructionWord true c a
    | none =>
      match decodeLane w with
      | .error c => .nonInstructionWord true c 0
      | .ok i => i

end Sys2Proof.Machine
end

