-- ==== Sys2Proof/Machine/Spad.lean ====
section
/-! DEFINITION. The team scratchpad: byte access, the checks of a scalar or lane access, pool entries, poison marks and race shadows (spec/08 R150-R166,
spec/07 R134, R135). -/

namespace Sys2Proof.Machine

/-! ## Reconvergence entries as bytes (spec/07 R135) -/

/-- Up to eight return lane PCs, the oldest first, padded with zeros. -/
def cstackBytes (c : List Word) : List Byte :=
  ((c.take 8).map fun w => toBytes 4 w.toNat).flatten ++ List.replicate (32 - 4 * (c.take 8).length) 0

def joinByte : Option Nat → Byte
  | none => 0xFF
  | some j => BitVec.ofNat 8 j

/-- A join entry, a path entry or a free entry. -/
def StackEntry.bytes : StackEntry → List Byte
  | .free => List.replicate 64 0
  | .join outer pc expected arrived hist cs =>
    [1, joinByte outer, BitVec.ofNat 8 cs.length, 0] ++ toBytes 4 pc.toNat ++ toBytes 8 expected.toNat ++ toBytes 8 arrived.toNat ++
    toBytes 2 hist.toNat ++ List.replicate 6 0 ++ cstackBytes cs
  | .path j deferred pc mask hist cs =>
    [2, BitVec.ofNat 8 j, BitVec.ofNat 8 cs.length, if deferred then 1 else 0] ++ toBytes 4 pc.toNat ++ toBytes 8 mask.toNat ++
    toBytes 2 hist.toNat ++ List.replicate 14 0 ++ cstackBytes cs

/-! ## Access -/

/-- The team address of pool entry 16 + i (spec/07 R134). -/
def Team.poolAddr (t : Team) (i : Nat) : Nat := t.spadSize - 2048 + 64 * i

/-- True when [a, a+n) touches a pool entry in use (spec/07 R134). -/
def Team.poolTouched (t : Team) (a n : Nat) : Bool :=
  decide (2048 ≤ t.spadSize) && decide (t.spadSize < a + n + 2048) &&
  (List.finRange 32).any fun i => t.pool[i] != .free && overlaps a n (t.poolAddr i) 64

/-- The checks that every scalar and lane access makes, in their order: alignment, range, pool entries (spec/03 R62, spec/08 R153, spec/07 R134). -/
def Team.spadFault (t : Team) (align a n : Nat) : Option Cause :=
  if a % align ≠ 0 then some 0x141
  else if t.spadSize < a + n then some 0x140
  else if t.poolTouched a n then some 0x14E
  else none

/-- True when a word of [a, a+n) is poisoned (spec/16 R318, causes 0x101 and 0x102). -/
def poisoned (marks : List Nat) (a n : Nat) : Bool := marks.any fun w => overlaps a n w 4

/-- Poison marks after a write of [a, a+n): a word wholly written is good again; a word written in part keeps its mark. -/
def poisonAfter (marks : List Nat) (a n : Nat) : List Nat := marks.filter fun w => !decide (a ≤ w ∧ w + 4 ≤ a + n)

/-- The marks of every word that [a, a+n) touches. -/
def poisonMark (marks : List Nat) (a n : Nat) : List Nat :=
  let ws := (List.range ((a % 4 + n + 3) / 4)).map fun i => a - a % 4 + 4 * i
  marks ++ ws.filter fun w => !marks.contains w

/-- The number in n bytes of the scratchpad (spec/00 R3). -/
def Team.spadRead (t : Team) (a n : Nat) : Nat := Memory.readLe t.spad a n

/-- Writes bytes to the scratchpad; every stream sees them. -/
def Team.spadWrite (t : Team) (a : Nat) (b : List Byte) : Team :=
  { t with spad := Memory.writeBytes t.spad a b, spadPoison := poisonAfter t.spadPoison a b.length,
           past := t.past.filter fun p => !overlaps p.a 4 a b.length }

/-- Sets pool entry 16 + i and its bytes in the scratchpad. -/
def Team.setPool (t : Team) (i : Fin 32) (e : StackEntry) : Team := { t.spadWrite (t.poolAddr i) e.bytes with pool := t.pool.set i e }

/-! ## Order among accesses (spec/08 R154, spec/03 R63) -/

/-- The 4-byte words that [a, a+n) touches. -/
def wordsOf (a n : Nat) : List Nat := (List.range ((a % 4 + n + 3) / 4)).map fun i => a - a % 4 + 4 * i

/-- Stores of one word of the stream v, which other streams may not see until the core's CCYC reaches til: what each 4-byte word held before goes to `past`.
The scalar accesses of a group are performed in program order, so a scalar store counts as released (spec/03 R63).
Rests on notes/assumptions 110 (DEDUCED). -/
def Team.storeAs (t : Team) (v : GrpIx × Bool) (now til : Nat) (xs : List (Nat × List Byte)) : Team :=
  let ws := (xs.flatMap fun x => wordsOf x.1 x.2.length).eraseDups
  let old := (ws.filter fun w => !poisoned t.spadPoison w 4).map fun w =>
    ({ a := w, val := BitVec.ofNat 32 (t.spadRead w 4), seen := [v], rel := !v.2, til := til } : PastWord)
  let kept := (t.past.filter fun p => decide (now < p.til)).map fun p => if ws.contains p.a then { p with seen := v :: p.seen } else p
  { xs.foldl (fun t x => t.spadWrite x.1 x.2) t with past := kept ++ old }

/-- The earlier values of a word that the stream v may still read at a clock, oldest first: a scalar stream's loads are performed in program order, so it
sees every store that a release has come after.
Rests on notes/assumptions 110 (DEDUCED). -/
def Team.older (t : Team) (v : GrpIx × Bool) (now w : Nat) : List PastWord :=
  t.past.filter fun p => p.a == w && !p.seen.contains v && (v.2 || !p.rel) && decide (now < p.til)

/-- Stores of the group in hand, by its lanes or its scalar stream, whose last wave is n clocks away: they are seen at most 24 clocks after it (spec/08
R154). -/
def State.storeWords (s : State) (lanes : Bool) (n : Nat) (xs : List (Nat × List Byte)) : State :=
  s.modTeam fun t => t.storeAs (s.gix, lanes) s.die.ccyc.toNat (s.die.ccyc.toNat + n + 24) xs

/-- What a load of the group in hand finds in the word at w.
Rests on notes/assumptions 110 (DEDUCED). -/
def State.wordSeen (s : State) (lanes : Bool) (w : Nat) : Word :=
  match (s.team.older (s.gix, lanes) s.die.ccyc.toNat w)[Config.pastPick s.tick w]? with
  | some p => p.val
  | none => BitVec.ofNat 32 (s.team.spadRead w 4)

/-- What a load of n bytes finds, word by word (spec/08 R154).
Rests on notes/assumptions 110 (DEDUCED). -/
def State.spadLoad (s : State) (lanes : Bool) (a n : Nat) : Nat :=
  if s.team.past.isEmpty then s.team.spadRead a n
  else ofBytes ((List.range n).map fun i => (s.wordSeen lanes ((a + i) - (a + i) % 4)).extractLsb' (8 * ((a + i) % 4)) 8)

/-- What the loads of a stream have read is what it reads at least from now on (spec/08 R154). -/
def State.noteLoad (s : State) (lanes : Bool) (xs : List (Nat × Nat)) : State :=
  if s.team.past.isEmpty then s
  else
    let v := (s.gix, lanes)
    let ws := (xs.flatMap fun x => wordsOf x.1 x.2).eraseDups
    let gone := ws.flatMap fun w => (s.team.older v s.die.ccyc.toNat w).take (Config.pastPick s.tick w)
    s.modTeam fun t => { t with past := t.past.map fun p => if gone.contains p then { p with seen := v :: p.seen } else p }

/-- An acquire and a release of a stream at team scope (spec/12 R241, R243, spec/08 R161): the acquire shows it every store that a release came after, and
the release covers every store that the stream sees. -/
def Team.fencePast (t : Team) (v : GrpIx × Bool) (acq rel : Bool) : Team :=
  if t.past.isEmpty then t
  else
    { t with past := t.past.map fun p =>
      let p1 := if acq && p.rel then { p with seen := v :: p.seen } else p
      if rel && p1.seen.contains v then { p1 with rel := true } else p1 }

/-- What the streams v have performed, the streams u see (spec/03 R63, spec/08 R163). -/
def Team.joinPast (t : Team) (v u : List (GrpIx × Bool)) : Team :=
  if t.past.isEmpty then t
  else { t with past := t.past.map fun p => if v.any fun x => p.seen.contains x then { p with seen := u ++ p.seen } else p }

/-! ## Race detection (spec/08 R165, R166) -/

/-- The 8-byte granules of [a, a+n). -/
def granules (a n : Nat) : List Nat := (List.range ((a % 8 + n + 7) / 8)).map fun i => a / 8 + i

def Team.shadowSet (t : Team) (g : Nat) (slot : Nat) (epoch : BitVec 10) : Team :=
  { t with shadow := (g, slot, epoch) :: t.shadow.filter fun x => x.1 != g }

/-- Reports a race event: a record without reply on the replayable lane where the launch asks for traps, else a Streamer record.
Rests on notes/assumptions 17 (DEDUCED). -/
def State.raceEvent (s : State) (a prev : Nat) (store : Bool) (spc lpc : Word) (lane : Byte) : State :=
  let slot := s.team.slot s.gix
  let s1 := s.count 0x0E 1
  if s.team.raceTrap then
    s1.sendReplay s.team.ctx { s.record 0x155 with spc := spc, lpc := lpc, lane := lane, addr := BitVec.ofNat 64 a, info := BitVec.ofNat 64 prev } none
  else
    s1.emit s.team.ctx (some 2) s.team.core.val (some s.dieIx) slot 5
      (toBytes 4 a ++ toBytes 1 slot ++ toBytes 1 prev ++ toBytes 2 s.team.epoch.toNat ++ toBytes 4 spc.toNat ++ toBytes 1 (if store then 1 else 0) ++
       toBytes 3 0)

/-- The race check of one access of the group in hand: an event against another slot's shadow at the current epoch; a store then takes the shadow. -/
def State.raceCheck (s : State) (a n : Nat) (store : Bool) (spc lpc : Word) (lane : Byte) : State :=
  if s.team.race then
    (granules a n).foldl (fun s g =>
      let t := s.team
      let s1 := match t.shadow.find? fun x => x.1 == g with
        | some (_, w, e) => if w ≠ t.slot s.gix ∧ e = t.epoch then s.raceEvent a w store spc lpc lane else s
        | none => s
      if store then s1.modTeam fun t => t.shadowSet g (t.slot s.gix) t.epoch else s1) s
  else s

/-- The shadows that bytes landed by the copy engine or a MOUT.s take (spec/08 R165). -/
def Team.shadowLand (t : Team) (gix : GrpIx) (a n : Nat) : Team :=
  if t.race then (granules a n).foldl (fun t g => t.shadowSet g (t.slot gix) t.epoch) t else t

end Sys2Proof.Machine
end

