-- ==== Sys2Proof/Machine/Operands.lean ====
section
/-! DEFINITION. The operand forms of lane words, chains with their checkpoint, and the end and the trap of a lane word (spec/02 R29-R34, spec/04 R74,
spec/06 R126, spec/16 R323). -/

namespace Sys2Proof.Machine

/-! ## Predicates, guards and blocks -/

/-- A predicate over the lanes; p7 reads 1 (spec/03 R56). -/
def Group.pred (g : Group) (k : Nat) : Mask := if h : k < 7 then g.preds[k] else BitVec.allOnes 64

/-- Writes a predicate in the executing lanes; a write to p7 is discarded (spec/04 R80). `late` notes the lanes that the running block has written
(spec/07 R145). -/
def Group.setPred (g : Group) (k : Nat) (e v : Mask) : Group :=
  if h : k < 7 then
    { g with preds := g.preds.set k ((v &&& e) ||| (g.preds[k] &&& ~~~e)), late := g.late.set k (g.late[k] ||| e),
             errs := mendErrs (fun x => match x with | .pred j l => j == k && e.getLsbD l.val | _ => false) g.errs }
  else g

/-- The lanes in which a guard holds (spec/02 R29, R31). -/
def Group.guardMask (g : Group) (f : BitVec 4) : Mask :=
  let m := g.pred (f.extractLsb' 0 3).toNat
  if f.getLsbD 3 then ~~~m else m

/-- The block that runs: started and not complete (spec/03 R69). -/
def Group.block (g : Group) : Option Block := g.blocks.find? fun b => b.started && !b.done

def Group.modBlock (g : Group) (f : Block → Block) : Group :=
  { g with blocks := g.blocks.map fun b => if b.started && !b.done then f b else b }

/-- The scalar registers as the running block snapshotted them (spec/03 R70). -/
def Group.snap (g : Group) : Vector Word 256 := match g.block with | some b => b.snap | none => g.sregs

/-- The scalar results that the running block holds (spec/04 R88). -/
def Group.blockResults (g : Group) : List (Reg × Word) := match g.block with | some b => b.results | none => []

/-- The TRAPEN value of the running block (spec/03 R66). -/
def Group.enables (g : Group) : Word := match g.block with | some b => b.en | none => 0

/-- The lane PC of the split in hand. -/
def State.lpc (s : State) : Word := match s.grp.splits[s.spl] with | some p => p.lpc | none => 0xFFFFFFFF

/-- The SPC that names a lane word: that of the LRUN of its block (spec/03 R72). -/
def State.blockSpc (s : State) : Word := match s.grp.block with | some b => b.spc | none => s.grp.spc

/-! ## Sources -/

/-- IMM32 as a 64-bit operand (spec/02 R34): zero-extended, sign-extended, or widened from FP32. -/
inductive ImmMode where
  | unsigned | signed | float
  deriving DecidableEq, Repr

/-- An FP32 value widened to FP64; a NaN is widened bit for bit (spec/02 R34). -/
def widenImm (v : Word) : DWord :=
  let s := v.toNat / 2 ^ 31
  let e := (v.toNat / 2 ^ 23) % 256
  let m := v.toNat % 2 ^ 23
  if e = 255 then BitVec.ofNat 64 (s * 2 ^ 63 + 2047 * 2 ^ 52 + m * 2 ^ 29)
  else if e = 0 then
    if m = 0 then BitVec.ofNat 64 (s * 2 ^ 63)
    else
      let k := Nat.log2 m
      BitVec.ofNat 64 (s * 2 ^ 63 + (k + 1023 - 149) * 2 ^ 52 + (m - 2 ^ k) * 2 ^ (52 - k))
  else BitVec.ofNat 64 (s * 2 ^ 63 + (e + 1023 - 127) * 2 ^ 52 + m * 2 ^ 29)

def immWide (mode : ImmMode) (v : Word) : DWord :=
  match mode with
  | .unsigned => v.zeroExtend 64
  | .signed => v.signExtend 64
  | .float => widenImm v

/-- A source as a 32-bit operand of a lane (spec/02 R30, spec/04 R74).
Rests on notes/assumptions 7 (DEDUCED). -/
def Group.src (g : Group) (gix : GrpIx) (imm : Word) (f : BitVec 10) (l : Fin 64) : Word :=
  let i := f.extractLsb' 0 8
  match srcKind f with
  | 0 => g.vregs[i.toNat][l]
  | 1 => (g.latches[i.toNat % 4][l]).extractLsb' 0 32
  | 2 => g.snap[i.toNat]
  | _ => match i.toNat with
    | 0 => imm
    | 1 => BitVec.ofNat 32 l.val
    | 2 => BitVec.ofNat 32 gix.val
    | _ => 0

/-- A source as a 64-bit operand of a lane: a pair, a whole latch, or a widened special (spec/02 R30, R34, spec/04 R74). -/
def Group.srcWide (g : Group) (gix : GrpIx) (imm : DWord) (f : BitVec 10) (l : Fin 64) : DWord :=
  let i := f.extractLsb' 0 8
  match srcKind f with
  | 0 => g.vregs[(i + 1).toNat][l] ++ g.vregs[i.toNat][l]
  | 1 => g.latches[i.toNat % 4][l]
  | 2 => g.snap[(i + 1).toNat] ++ g.snap[i.toNat]
  | _ => match i.toNat with
    | 0 => imm
    | 1 => BitVec.ofNat 64 l.val
    | 2 => BitVec.ofNat 64 gix.val
    | _ => 0

/-- Four registers as a 128-bit operand, the lowest register giving bits [31:0] (spec/08 R153, spec/13 R255). -/
def Group.srcQuad (g : Group) (gix : GrpIx) (f : BitVec 10) (l : Fin 64) : BitVec 128 :=
  let hi := f + 2
  g.srcWide gix 0 hi l ++ g.srcWide gix 0 f l

/-- The sources of a word for the group in hand. -/
def State.srcN (s : State) (w : LaneWord) (f : BitVec 10) (l : Fin 64) : Word := s.grp.src s.gix w.imm f l

def State.srcW (s : State) (mode : ImmMode) (w : LaneWord) (f : BitVec 10) (l : Fin 64) : DWord := s.grp.srcWide s.gix (immWide mode w.imm) f l

/-! ## Results -/

/-- Writes a 32-bit result to a vector register in the executing lanes.
Rests on notes/assumptions 7 (DEDUCED). -/
def Group.setVec (g : Group) (d : BitVec 8) (e : Mask) (v : Fin 64 → Word) : Group :=
  { g with vregs := g.vregs.set d.toNat (Vector.ofFn fun l => if e.getLsbD l.val then v l else g.vregs[d.toNat][l]),
           errs := mendErrs (fun x => match x with | .vreg r l => r == d && e.getLsbD l.val | _ => false) g.errs }

/-- Writes a latch in the executing lanes. -/
def Group.setLatch (g : Group) (b : BitVec 2) (e : Mask) (v : Fin 64 → DWord) : Group :=
  { g with latches := g.latches.set b.toNat (Vector.ofFn fun l => if e.getLsbD l.val then v l else g.latches[b.toNat][l]),
           errs := mendErrs (fun x => match x with | .latch c l => c == b && e.getLsbD l.val | _ => false) g.errs }

/-- Writes a 32-bit vector result: DST unless NOWB, and the latch with bits [63:32] zero (spec/02 R31, spec/04 R74). -/
def Group.result32 (g : Group) (w : LaneWord) (e : Mask) (v : Fin 64 → Word) : Group :=
  (if w.nowb then g else g.setVec w.dst e v).setLatch w.dlat e fun l => (v l).zeroExtend 64

/-- Writes a 64-bit vector result: the pair at DST unless NOWB, and the latch (spec/02 R30, R31). -/
def Group.result64 (g : Group) (w : LaneWord) (e : Mask) (v : Fin 64 → DWord) : Group :=
  (if w.nowb then g
   else (g.setVec w.dst e fun l => (v l).extractLsb' 0 32).setVec (w.dst + 1) e fun l => (v l).extractLsb' 32 32).setLatch w.dlat e v

/-- Writes a 128-bit vector result; the latch takes the low 8 bytes (spec/08 R153). -/
def Group.result128 (g : Group) (w : LaneWord) (e : Mask) (v : Fin 64 → BitVec 128) : Group :=
  (if w.nowb then g
   else (((g.setVec w.dst e fun l => (v l).extractLsb' 0 32).setVec (w.dst + 1) e fun l => (v l).extractLsb' 32 32).setVec (w.dst + 2) e
          fun l => (v l).extractLsb' 64 32).setVec (w.dst + 3) e fun l => (v l).extractLsb' 96 32).setLatch w.dlat e
    fun l => (v l).extractLsb' 0 64

/-! ## Chains -/

/-- The lane word of an instruction, with its opcode. -/
def laneParts (i : Instr) : Option (Nat × LaneWord) :=
  match encode i with
  | some (.lane b) => some ((b.extractLsb' 86 10).toNat, laneFields b)
  | _ => none

/-- The classes that may carry HOLD (spec/02 R32). -/
def laneHoldable (opc : Nat) : Bool := decide (opc < 0x140) || opc == 0x180 || opc == 0x182 || opc == 0x184

/-- n registers from one upward. -/
def regRun (r : BitVec 8) (n : Nat) : List Reg := (List.range n).map fun i => r + BitVec.ofNat 8 i

/-- The vector registers that a word reads, with its sources' widths in words. -/
def vectorReads (n : Nat × Nat × Nat) (opc : Nat) (w : LaneWord) : List Reg :=
  let (a, b, c) := n
  let one (n : Nat) (f : BitVec 10) : List Reg := if srcKind f = 0 then regRun (f.extractLsb' 0 8) n else []
  match laneForm opc w.sub with
  | none => []
  | some f => (if f.useA then one a w.srcA else []) ++ (if f.useB then one b w.srcB else []) ++ (if f.useC then one c w.srcC else [])

/-- The vector registers that a word other than a hash word reads. -/
def laneReads (opc : Nat) (w : LaneWord) : List Reg := vectorReads (laneWidths opc w).2 opc w

/-- The vector registers that a word writes, but for a hash word, whose destinations its table's format settles (spec/09 R176, hashWrites). -/
def laneWrites (opc : Nat) (w : LaneWord) : List Reg :=
  match laneForm opc w.sub with
  | some f => if f.dst = .vec ∧ !w.nowb then regRun w.dst (laneWidths opc w).1 else []
  | none => []

/-- The hash words: their chain rule is judged with their operands' widths, once the table is known (spec/02 R38, spec/09 R176). -/
def isHashOpc (opc : Nat) : Bool := decide (0x1C0 ≤ opc ∧ opc ≤ 0x1C3)

/-- The chain rules of R32 for a word that writes ws: a class that may not hold, a fifth word, or a write of a register that an earlier word of the chain
read. -/
def Group.chainBroken (g : Group) (opc : Nat) (w : LaneWord) (ws : List Reg) : Bool :=
  (w.hold && !laneHoldable opc) ||
  (match g.chain with
   | none => false
   | some c => (w.hold && c.pos == 3) || ws.any fun r => c.reads.contains r)

/-- A chain-rule violation of the word that split k of a group issues next (spec/02 R32). -/
def Group.chainFault (g : Group) (i : Instr) : Bool :=
  match laneParts i with
  | none => false
  | some (opc, w) => !isHashOpc opc && g.chainBroken opc w (laneWrites opc w)

/-- A latch's mark. -/
def ErrAt.isLatch : ErrAt → Bool
  | .latch _ _ => true
  | _ => false

/-- Opens a chain at its first word: the latches read zero and the checkpoint is taken (spec/02 R31, spec/16 R323). -/
def State.openChain (s : State) (k : SplitIx) (head : Word) : State :=
  s.modGrp fun g =>
    match g.chain with
    | some _ => g
    | none =>
      { g with latches := Vector.replicate 4 (Vector.replicate 64 0), errs := mendErrs ErrAt.isLatch g.errs,
               chain := some { split := k, head := head, pos := 0, reads := [], savedV := g.vregs, savedP := g.preds, savedR := g.blockResults,
                               savedE := g.errs, flags := [], hash := none } }

/-- Undoes the open chain of the split in hand: its checkpoint returns and the split stands at its head (spec/02 R32, spec/16 R323). -/
def State.undoChain (s : State) : State :=
  s.modGrp fun g =>
    match g.chain with
    | some c =>
      (({ g with vregs := c.savedV, preds := c.savedP, chain := none,
                 errs := mendErrs ErrAt.isLatch g.errs ++ c.savedE.filter fun e => !g.errs.contains e } : Group).modBlock fun b => { b with results := c.savedR }).setLpc
        s.spl c.head
    | none => g

/-- The chain of a word that has to wait is undone, so that it issues again from its head; its earlier words are counted when they issue again, once (spec/17
R349). -/
def State.backToHead (s : State) : State :=
  let n : DWord := BitVec.ofNat 64 (match s.grp.chain with | some c => c.pos | none => 0)
  let less (x : DWord) : DWord := if x.ult n then 0 else x - n
  if n = 0 then s.undoChain
  else (s.undoChain.modGrp fun g => { g with laneCnt := less g.laneCnt }).modCore s.team.core fun c => { c with cnt := c.cnt.set 0 (less c.cnt[0]) }

/-- A lane word that has to wait: it issues again from its chain's head, and the split holds nothing meanwhile (spec/08 R162).
Rests on notes/assumptions 20 (DESIGN CHOICE). -/
def State.laneWait (s : State) : Host.Outcome State Fault Refusal := s.backToHead.wait

/-- A precise lane trap of the word in hand: the chain is undone and named by its head (spec/02 R32, spec/16 R323, R327). The record of a fetch that fails
with a chain open names the chain's head too, with the place of the missing word in POS.
Rests on notes/assumptions 105 (DEDUCED). -/
def State.laneTrap (s : State) (c : Cause) (lane : Option (Fin 64)) (addr : DWord) : Host.Outcome State Fault Refusal :=
  let g := s.grp
  let head : Word := match g.chain with | some c => c.head | none => (match g.splits[s.spl] with | some p => p.lpc | none => 0)
  let pos := match g.chain with | some c => c.pos | none => 0
  let spc : Word := match g.block with | some b => b.spc | none => g.spc
  .next (s.undoChain.takeTrap { s.record c with pos := pos, spc := spc, lpc := head, addr := addr,
                                                lane := match lane with | some l => BitVec.ofNat 8 l.val | none => 0xFF } g.spc head (some s.spl))

/-- The instruction of a hash word between its steps. -/
def HashProg.instr (q : HashProg) : Instr :=
  match q.kind with
  | .ins => .hins q.word
  | .prb => .hprb q.word
  | .del => .hdel q.word
  | .acc _ => .hacc q.word

/-- No chain of the group is open but split k's own, and that not in the steps of a hash word (spec/04 R92). -/
def Group.chainFree (g : Group) (k : SplitIx) : Bool := match g.chain with | some c => c.split == k && c.hash.isNone | none => true

/-- Begins a lane word of the split in hand: it opens a chain if none is open and gives the executing lanes (spec/02 R31). With no split in hand, or
while another split's chain is open, the word waits (spec/04 R92). -/
def State.laneWord (s : State) (w : LaneWord) (k : State → Mask → Host.Outcome State Fault Refusal) : Host.Outcome State Fault Refusal :=
  match s.grp.splits[s.spl] with
  | none => s.wait
  | some p =>
    if s.grp.chainFree s.spl then
      k (s.openChain s.spl p.lpc) (p.mask &&& s.grp.guardMask w.guard)
    else s.wait

/-- Counts a lane word as issued (spec/17 R349).
Rests on notes/assumptions 89 (DEDUCED). -/
def State.countLane (s : State) : State := (s.count 0 1).modGrp fun g => { g with laneCnt := g.laneCnt + 1 }

/-- The lowest enabled flag cause (spec/06 R126).
Rests on notes/assumptions 18 (DEDUCED). -/
def flagCause (fl : BitVec 5) : Option Cause :=
  if fl.getLsbD 4 then some 0x010 else if fl.getLsbD 3 then some 0x011 else if fl.getLsbD 2 then some 0x012
  else if fl.getLsbD 1 then some 0x013 else if fl.getLsbD 0 then some 0x014 else none

/-- The OR of the flags that some lanes raised. -/
def joinFlags (xs : List (Nat × BitVec 5)) : BitVec 5 := xs.foldl (fun a x => a ||| x.2) 0

/-- Closes the chain of the word in hand: its flags join the block's, and an enabled flag, or a cause the word itself raises after completing, traps at
the word after the chain (spec/06 R126, spec/16 R317, R327).
Rests on notes/assumptions 18 (DEDUCED). -/
def State.closeChain (s : State) (flags : List (Nat × List (Nat × BitVec 5))) (head : Word) (pos : Nat) (extra : Option (Cause × Fin 64 × DWord)) : State :=
  let g := s.grp
  let spc : Word := match g.block with | some b => b.spc | none => g.spc
  let en : BitVec 5 := g.enables.extractLsb' 0 5
  let all := flags.foldl (fun a f => a ||| joinFlags f.2) 0
  let s1 := s.modGrp fun g => { g.modBlock fun b => { b with flags := b.flags ||| all } with chain := none }
  let next := s.grp.splits[s.spl]
  let elpc : Word := match next with | some p => p.lpc | none => 0xFFFFFFFF
  let split := next.map fun _ => s.spl
  match flagCause (all &&& en) with
  | some c =>
    let p := match flags.find? fun f => !(joinFlags f.2 &&& en == 0) with | some f => f.1 | none => 0
    let raisers := (flags.flatMap fun f => f.2).filter fun x => flagCause (x.2 &&& en) == some c
    let l := raisers.foldl (fun a x => min a x.1) 0xFF
    s1.takeTrap { s.record c with pos := p, spc := spc, lpc := head, lane := BitVec.ofNat 8 l } g.spc elpc split
  | none =>
    match extra with
    | some (c, l, a) =>
      s1.takeTrap { s.record c with pos := pos, spc := spc, lpc := head, lane := BitVec.ofNat 8 l.val, addr := a } g.spc elpc split
    | none => s1

/-- Ends a lane word whose split stands at its next place already: the chain goes on under HOLD and closes otherwise. -/
def State.laneEnd (s : State) (w : LaneWord) (reads : List Reg) (fl : List (Nat × BitVec 5)) (extra : Option (Cause × Fin 64 × DWord)) : State :=
  let s1 := s.countLane
  match s.grp.chain with
  | none => s1
  | some c =>
    let flags := if fl.isEmpty then c.flags else c.flags ++ [(c.pos, fl)]
    if w.hold then s1.modGrp fun g => { g with chain := some { c with pos := c.pos + 1, reads := c.reads ++ reads, flags := flags } }
    else s1.closeChain flags c.head c.pos extra

/-- Moves the split in hand to its next word. -/
def State.stepLpc (s : State) : State :=
  s.modGrp fun g => match g.splits[s.spl] with | some p => g.setLpc s.spl (p.lpc + 1) | none => g

/-- Ends a lane word that falls through to the next word. -/
def State.laneDone (s : State) (opc : Nat) (w : LaneWord) (fl : List (Nat × BitVec 5)) : Host.Outcome State Fault Refusal :=
  .next (s.stepLpc.laneEnd w (laneReads opc w) fl none)

/-! ## The shapes of lane-local words -/

/-- The executing lanes that raise flags, each with its flags. -/
def raisedFlags (e : Mask) (f : Fin 64 → BitVec 5) : List (Nat × BitVec 5) :=
  ((maskLanes e).map fun l => (l.val, f l)).filter fun x => !(x.2 == 0)

/-- A word with a 32-bit vector result, and flags, in each executing lane. -/
def State.laneOp32 (s : State) (opc : Nat) (w : LaneWord) (f : State → Mask → Fin 64 → Word × BitVec 5) : Host.Outcome State Fault Refusal :=
  s.laneWord w fun s1 e => (s1.modGrp fun g => g.result32 w e fun l => (f s1 e l).1).laneDone opc w (raisedFlags e fun l => (f s1 e l).2)

/-- A word with a 64-bit vector result, and flags, in each executing lane. -/
def State.laneOp64 (s : State) (opc : Nat) (w : LaneWord) (f : State → Mask → Fin 64 → DWord × BitVec 5) : Host.Outcome State Fault Refusal :=
  s.laneWord w fun s1 e => (s1.modGrp fun g => g.result64 w e fun l => (f s1 e l).1).laneDone opc w (raisedFlags e fun l => (f s1 e l).2)

/-- A word with a predicate result, and flags, in each executing lane. -/
def State.laneOpPred (s : State) (opc : Nat) (w : LaneWord) (k : Nat) (f : State → Fin 64 → Bool × BitVec 5) : Host.Outcome State Fault Refusal :=
  s.laneWord w fun s1 e => (s1.modGrp fun g => g.setPred k e (maskOf fun l => (f s1 l).1)).laneDone opc w (raisedFlags e fun l => (f s1 l).2)

/-! ## Typed operands (spec/02 R33, R34, spec/04 R74, R75) -/

/-- A type of 64 bits. -/
def wideType (t : BitVec 4) : Bool := t == 2 || t == 3 || t == 9

/-- How IMM32 widens under a type (spec/02 R34). -/
def immModeOf (t : BitVec 4) : ImmMode := if t == 3 || t == 1 then .signed else if t == 9 then .float else .unsigned

/-- A source under the word's type, as a number of 32 or 64 bits. -/
def State.operand (s : State) (w : LaneWord) (f : BitVec 10) (l : Fin 64) : Nat :=
  if wideType w.type then (s.srcW (immModeOf w.type) w f l).toNat else (s.srcN w f l).toNat

/-- A word with a result of the width of its type, and flags, in each executing lane. -/
def State.laneOp (s : State) (opc : Nat) (w : LaneWord) (f : State → Mask → Fin 64 → Nat × BitVec 5) : Host.Outcome State Fault Refusal :=
  if wideType w.type then s.laneOp64 opc w fun s e l => let r := f s e l; (BitVec.ofNat 64 r.1, r.2)
  else s.laneOp32 opc w fun s e l => let r := f s e l; (BitVec.ofNat 32 r.1, r.2)

/-- The value of an operand of an integer type. -/
def intVal (t : BitVec 4) (x : Nat) : Int :=
  if fmtSigned t.toNat then signed (fmtBits t.toNat) x else ((x % 2 ^ fmtBits t.toNat : Nat) : Int)

/-- An exact integer result as the destination holds it: wrapped or saturated, then extended (spec/04 R74, R75). -/
def intResult (t : BitVec 4) (sat : Bool) (x : Int) : Nat := fmtExtend t.toNat (intBits t.toNat (if sat then satInt t.toNat x else x))

end Sys2Proof.Machine
end

