-- ==== Sys2Proof/Machine/Debug.lean ====
section
/-! DEFINITION. Marks, event counters, race clearing and debug stops, in both streams (spec/17 R347-R351). -/

namespace Sys2Proof.Machine

/-- The MARK record of the group in hand (R345, R348). -/
def State.mark (s : State) (v spc lpc : Word) : State :=
  s.emit s.team.ctx (some 0) s.team.core.val (some s.dieIx) (s.team.slot s.gix) 3
    (toBytes 4 v.toNat ++ toBytes 4 spc.toNat ++ toBytes 4 lpc.toNat ++ toBytes 4 s.die.ccyc.toNat)

/-- An event counter's 64 bits (R349); a number that the table does not list reads 0. Counter 2 is four slot clocks for each core clock since the
counters returned to zero, less the lane words issued.
Rests on notes/assumptions 89 (DEDUCED). -/
def State.eventCount (s : State) (k : Nat) : DWord :=
  if k = 0x02 then 4 * (s.die.ccyc - s.core.cntBase) - s.core.cnt[0]
  else if k = 0x0B then (s.die.waitaFalse.lookup s.team.ctx).getD 0
  else if k = 0x0C then (s.ctx s.team.ctx).ignored
  else if k = 0x0D then s.clusters[clusterOf s.team.core].passes
  else if k = 0x10 then s.grp.laneCnt
  else if k = 0x11 then s.grp.scalCnt
  else if h : k < 16 then s.core.cnt[k]
  else 0

/-- What PCNT returns for a selector, and the group with the half that it latches (R349). -/
def State.pcntRead (s : State) (x : Word) : Word × Group :=
  let v := s.eventCount (x.extractLsb' 0 8).toNat
  if x.getLsbD 8 then (s.grp.pcntHi, s.grp) else (v.extractLsb' 0 32, { s.grp with pcntHi := v.extractLsb' 32 32 })

/-- Clears the race shadow of the granule that holds a team address (R350). -/
def Team.raceClear (t : Team) (gix : GrpIx) (a : Nat) : Team :=
  if t.race then t.shadowSet (a / 8) (t.slot gix) (t.epoch - 1) else t

/-- The debug register's DSEN of the context of the team in hand (R351). -/
def State.stopsOn (s : State) : Bool := (s.ctx s.team.ctx).dsen

/-- The scalar stream's mark of the DSTOP it resumed from: the first debug word it issues clears it (R351). -/
def State.debugWord (s : State) : State := s.modGrp fun g => { g with dbgSkip := none }

/-! ## Scalar forms -/

def execPmark (a : Reg) (s : State) : Host.Outcome State Fault Refusal :=
  .next ((s.debugWord.mark (s.sr a) s.grp.spc 0xFFFFFFFF).advance 4)

def execPcnt (d a : Reg) (s : State) : Host.Outcome State Fault Refusal :=
  let r := s.debugWord.pcntRead (s.sr a)
  .next (((s.setGrp r.2).setSr d r.1).advance 4)

def execRace (a : Reg) (s : State) : Host.Outcome State Fault Refusal :=
  let addr := (s.sr a).toNat
  if addr < s.team.spadSize then .next ((s.debugWord.modTeam fun t => t.raceClear s.gix addr).advance 4)
  else s.scalarTrap 0x140 (BitVec.ofNat 64 addr) 0

def execDstop (s : State) : Host.Outcome State Fault Refusal :=
  if s.grp.dbgSkip = some s.grp.spc then .next (s.debugWord.advance 4)
  else if s.stopsOn then s.scalarTrap0 0x050
  else .next ((s.debugWord.count 0x0F 1).advance 4)

/-! ## Lane forms -/

/-- The split's mark of the DSTOP it resumed from. -/
def State.laneDebugWord (s : State) : State :=
  s.modGrp fun g => { g with splits := g.splits.set s.spl (g.splits[s.spl].map fun p => { p with dbgSkip := none }) }

def execLanePmark (w : LaneWord) (s : State) : Host.Outcome State Fault Refusal :=
  s.laneWord w fun s1 e =>
    (if e = 0 then s1.laneDebugWord else s1.laneDebugWord.mark (s1.srcN w w.srcA (lowLane e)) s1.blockSpc s1.lpc).laneDone 0x200 w []

def execLanePcnt (w : LaneWord) (s : State) : Host.Outcome State Fault Refusal :=
  s.laneWord w fun s1 e =>
    if e = 0 then s1.laneDebugWord.laneDone 0x201 w []
    else
      let r := s1.laneDebugWord.pcntRead (s1.srcN w w.srcA (lowLane e))
      (s1.setGrp (r.2.result32 w e fun _ => r.1)).laneDone 0x201 w []

def execLaneRace (w : LaneWord) (s : State) : Host.Outcome State Fault Refusal :=
  s.laneWord w fun s1 e =>
    let addr (l : Fin 64) : Nat := (s1.srcN w w.srcA l).toNat
    match (maskLanes e).find? fun l => !decide (addr l < s1.team.spadSize) with
    | some l => s1.laneTrap 0x140 (some l) (BitVec.ofNat 64 (addr l))
    | none => (s1.laneDebugWord.modTeam fun t => (maskLanes e).foldl (fun t l => t.raceClear s1.gix (addr l)) t).laneDone 0x202 w []

def execLaneDstop (w : LaneWord) (s : State) : Host.Outcome State Fault Refusal :=
  s.laneWord w fun s1 e =>
    let skip := match s1.grp.splits[s1.spl], s1.grp.chain with | some p, some c => p.dbgSkip == some c.head | _, _ => false
    if e = 0 || skip then s1.laneDebugWord.laneDone 0x203 w []
    else if s1.stopsOn then s1.laneTrap 0x050 none 0
    else (s1.laneDebugWord.count 0x0F 1).laneDone 0x203 w []

end Sys2Proof.Machine
end

