-- ==== Sys2Proof/Machine/Apply.lean ====
section
/-! DEFINITION. The combining functions of reductions and atomics (spec/11 R221, spec/13 R255, R266). -/

namespace Sys2Proof.Machine

/-- The format number of a pair of BF16 values (TYPE 0xB of spec/13 R255). -/
def fmtPair : Nat := 0x1B

/-- The width in bits of a reduction format. -/
def redBits (fmt : Nat) : Nat := if fmt = fmtPair then 32 else fmtBits fmt

/-- Apply for one element: 1 add, 2 min, 3 max, 4 and, 5 or, 6 xor (R219, R221). -/
def applyOne (op fmt x y : Nat) : Nat :=
  let n := fmtBits fmt
  match floatFmt fmt with
  | some f =>
    match op with
    | 1 => (f.add .rne x y).1
    | 2 => (f.minmax false false x y).1
    | _ => (f.minmax true false x y).1
  | none =>
    let lt : Bool := if fmtSigned fmt then decide (signed n x < signed n y) else decide (x < y)
    match op with
    | 1 => (x + y) % 2 ^ n
    | 2 => if lt then x else y
    | 3 => if lt then y else x
    | 4 => x &&& y
    | 5 => x ||| y
    | _ => x ^^^ y

/-- Apply, with the two halves of a BF16 pair taken apart (R221, R255). -/
def applyRed (op fmt x y : Nat) : Nat :=
  if fmt = fmtPair then applyOne op 0x0B (x % 65536) (y % 65536) + 65536 * applyOne op 0x0B (x / 65536) (y / 65536)
  else applyOne op fmt x y

/-- The reduction format of an atomic's TYPE (R255): the codes agree but for BF16 pairs. -/
def atomFmt (t : Nat) : Nat := if t = 0x0B then fmtPair else t

/-- Bytes of an atomic's element (R255). -/
def atomWidth (t : Nat) : Nat := if t = 2 ∨ t = 3 ∨ t = 9 then 8 else if t = 15 then 16 else 4

/-- The new value of an atomic step: SUB 0-5 reductions, 6 swap, 7 compare-and-swap, 8 increment (R255). -/
def atomNew (sub t old v c : Nat) : Nat :=
  match sub with
  | 6 => v
  | 7 => if old = c then v else old
  | 8 => if v ≤ old then 0 else old + 1
  | _ => applyRed (sub + 1) (atomFmt t) old v

/-- A combining slot's operation on two contributions (R266, R268): sums of f64, f32 and s64, then minima and maxima of f64 and s64. -/
def slotApply (op x y : Nat) : Nat :=
  match op with
  | 0 => applyOne 1 9 x y
  | 1 => applyOne 1 8 (x % 2 ^ 32) (y % 2 ^ 32)
  | 2 => applyOne 1 3 x y
  | 3 => applyOne 2 9 x y
  | 4 => applyOne 3 9 x y
  | 5 => applyOne 2 3 x y
  | _ => applyOne 3 3 x y

/-- A NaN result of a combining slot is canonical (R268). -/
def slotCanon (op x : Nat) : Nat :=
  match floatFmt (if op = 1 then 8 else if op = 0 ∨ op = 3 ∨ op = 4 then 9 else 3) with
  | some f => if (f.decode x).isNan then f.nan else x
  | none => x

/-- Folds values in an order and grouping that the list chooses: each number picks two of the values left (spec/11 R223, spec/13 R268). -/
def foldTree (f : Nat → Nat → Nat) : List Nat → (fuel : Nat) → List Nat → Nat
  | [], _, _ => 0
  | [x], _, _ => x
  | x :: _, 0, _ => x
  | xs, n + 1, order =>
    let k := order.headD 0
    let i := k % xs.length
    let x := xs.getD i 0
    let rest := xs.eraseIdx i
    let j := k / xs.length % rest.length
    foldTree f (f x (rest.getD j 0) :: rest.eraseIdx j) n (order.drop 1)

/-- Combines a round's contributions in an order and grouping that the list chooses (R268).
Rests on notes/assumptions 102 (DEDUCED). -/
def combineAll (op : Nat) (l : List Nat) (fuel : Nat) (order : List Nat) : Nat := slotCanon op (foldTree (slotApply op) l fuel order)

end Sys2Proof.Machine
end

