-- ==== Sys2Proof/Machine/Cache.lean ====
section
/-! DEFINITION. Where a byte of device memory lives: home slices, far copies in a die's L2, L1 lines, reduction-combining entries and the clusters'
atomic units; the pushes and invalidations of the scopes (spec/12 R234-R236, spec/11 R222, spec/13 R253, spec/10 R212, R215). -/

namespace Sys2Proof.Machine

/-- Runs a change in the place of another group, keeping which stream is in hand. -/
def State.within (s : State) (t : TeamIx) (g : GrpIx) (f : State → State) : State := { f (s.at t g) with cur := s.cur, gix := s.gix }

/-! ## Home -/

/-- A home die that can be reached (spec/10 R213, spec/12 R250). -/
def State.homeUp (s : State) (h : Nat) : Bool := match s.dies[h]? with | some d => d.up | none => false

/-- A home die whose FIFOs hold traffic during a relock (spec/15 R312).
Rests on notes/assumptions 35 (DEDUCED). -/
def State.homeBusy (s : State) (h : Nat) : Bool := match s.dies[h]? with | some d => d.relock.isSome | none => false

/-- A condition on an unsigned 64-bit word (spec/12 R247, R249, spec/15 R295). -/
def Cond.holds (c : Cond) (x v : DWord) : Bool :=
  match c with
  | .ge => decide (v.toNat ≤ x.toNat)
  | .eq => x == v
  | .ne => x != v

/-- The 64-bit word at home. -/
def State.homeWord (s : State) (pa : Nat) : DWord := BitVec.ofNat 64 (Memory.readLe s.mem pa 8)

/-- A device condition of a FENCE packet sees the word at home (spec/15 R296). -/
def State.seeCond (s : State) (c : FenceCond) : FenceCond :=
  if c.space == .device && c.cond.holds (s.homeWord c.pa) c.v then { c with seen := true } else c

/-- Monitors and FENCE conditions look at home after a change there (spec/12 R249, spec/15 R296).
Rests on notes/assumptions 101 (DEDUCED). -/
def State.watch (s : State) : State :=
  { s with monitors := s.monitors.map fun m => if m.cond.holds (s.homeWord m.pa) m.v then { m with sat := true } else m
           queues := mapAll (fun q => match q.fence with | some f => { q with fence := some (f.map s.seeCond) } | none => q) s.queues }

/-- The bytes that the eight stacks hold (spec/01 R7, R10).
Rests on notes/assumptions 14 (DEDUCED). -/
def devBytes : Nat := 8 * (48 * 2 ^ 30)

/-- The metadata of the line of an address: set by a write through a page, kept by a write that comes through none (spec/11 R230).
Rests on notes/assumptions 8 (DEDUCED). -/
def State.tagLine (s : State) (tag : Option LineTag) (pa : Nat) : State :=
  match tag with
  | none => s
  | some g => if s.lines.lookup (pa / 256) = some g then s else { s with lines := (pa / 256, g) :: s.lines.filter fun x => x.1 != pa / 256 }

/-- The codec of the line of an address (spec/11 R230).
Rests on notes/assumptions 8 (DEDUCED). -/
def State.lineCodec (s : State) (pa : Nat) : Nat := match s.lines.lookup (pa / 256) with | some g => g.codec | none => 0

/-- One byte and its poison at home. An address that no stack holds stores nothing.
Rests on notes/assumptions 8 (DEDUCED), 14 (DEDUCED). -/
def State.homePut (s : State) (tag : Option LineTag) (pa : Nat) (b : Byte) (pois : Bool) : State :=
  if devBytes ≤ pa then s
  else
    { s.tagLine tag pa with
      mem := Memory.write s.mem pa b
      memPoison := if pois then (if s.memPoison.contains pa then s.memPoison else pa :: s.memPoison) else s.memPoison.filter fun a => a != pa }

/-- Bytes, each with its poison, at home from an address upward. -/
def State.homeBytes (s : State) (tag : Option LineTag) (pa : Nat) : List (Byte × Bool) → State
  | [] => s
  | b :: r => (s.homePut tag pa b.1 b.2).homeBytes tag (pa + 1) r

/-- A number of n bytes written at home as one step. -/
def State.homeLe (s : State) (tag : Option LineTag) (pa n v : Nat) : State := (s.homeBytes tag pa ((toBytes n v).map fun b => (b, false))).watch

/-- The metadata of a line that a cached byte goes home to. -/
def CByte.tag (b : CByte) : LineTag := { codec := b.codec, home := b.home }

/-- The metadata of a line that a combining entry goes home to. -/
def Comb.tag (e : Comb) : LineTag := { codec := e.codec, home := e.home }

/-- The metadata of a line written through a page (spec/11 R230). -/
def TlbE.tag (e : TlbE) (pa : Nat) : LineTag := { codec := e.codec, home := e.home pa }

/-- True when one of n bytes at home is poisoned. -/
def State.homePoisoned (s : State) (pa n : Nat) : Bool := s.memPoison.any fun a => decide (pa ≤ a ∧ a < pa + n)

/-! ## Cached bytes -/

/-- The copy of a byte. -/
def cfind (l : List CByte) (pa : Nat) : Option CByte := l.find? fun b => b.pa == pa

/-- Puts a byte in place of an older copy. -/
def cput (l : List CByte) (b : CByte) : List CByte := b :: l.filter fun x => x.pa != b.pa

/-- A cache holds every byte of a sector. -/
def wholeSector (l : List CByte) (sector : Nat) : Bool := decide (64 ≤ (l.filter fun x => x.pa / 64 == sector).length)

/-- A cache after the bytes that meet p were written back: they are clean, and a sector of which it does not hold every byte keeps its dirty bytes alone,
so that a read takes the bytes of one sector from one copy but for those that its own core or die wrote (spec/12 R235). -/
def cleaned (l : List CByte) (p : CByte → Bool) : List CByte :=
  (l.map fun b => if p b then { b with dirty := false } else b).filter fun b => b.dirty || wholeSector l (b.pa / 64)

/-- A byte that goes home: dropped where its home die is lost (spec/12 R250). -/
def State.toHome (s : State) (b : CByte) : State := if s.homeUp b.home then s.homePut (some b.tag) b.pa b.val b.pois else s

/-- The lines of 256 bytes of which a die's L2 holds a far copy. -/
def DieSt.farLines (d : DieSt) : List Nat := (d.far.map fun b => b.pa / 256).eraseDups

/-- The line that a full cache gives up: a streaming one where there is one (spec/10 R215).
Rests on notes/assumptions 9 (DEDUCED). -/
def victimOf (tick : Nat) (lines : List Nat) (streams : Nat → Bool) : Nat :=
  let first := lines.filter streams
  let l := if first.isEmpty then lines else first
  l.getD (Config.victim tick % l.length) 0

/-- Makes room for a far copy of a line (spec/01 R16): a die's L2 has 32 slices of 512 sets of 16 ways, and a full set gives up a line, its dirty bytes
written home.
Rests on notes/assumptions 9 (DEDUCED). -/
def State.roomFar (s : State) (d : DieIx) (pa : Nat) : State :=
  let lines := s.dies[d].farLines
  if lines.length < 16 ∨ lines.contains (pa / 256) then s
  else
    let set := lines.filter fun l => Config.l2Set l % 16384 == Config.l2Set (pa / 256) % 16384
    if set.length < 16 then s
    else
      let old := victimOf s.tick set fun l => s.dies[d].far.any fun b => b.stream && b.pa / 256 == l
      let s1 := (s.dies[d].far.filter fun b => b.dirty && b.pa / 256 == old).foldl (fun s b => s.toHome b) s
      s1.watch.modDie d fun x => { x with far := x.far.filter fun b => b.pa / 256 != old }

/-- Puts a far copy of a byte into a die's L2. -/
def State.putFar (s : State) (d : DieIx) (b : CByte) : State := (s.roomFar d b.pa).modDie d fun x => { x with far := cput x.far { b with way := 0 } }

/-- A byte that goes to a die's L2: home where it is homed there, else a dirty far copy (spec/12 R236). -/
def State.toL2 (s : State) (d : DieIx) (b : CByte) : State := if b.home = d.val then s.toHome b else s.putFar d { b with dirty := true }

/-- An outgoing byte arrives: at home, or in its die's L2. -/
def State.landOne (s : State) (o : Outgoing) : State := if o.far then s.toHome o.byte else s.toL2 (dieOf o.src) o.byte

/-- The outgoing bytes that meet p arrive, oldest first. -/
def State.landOut (s : State) (p : Outgoing → Bool) : State :=
  if s.outgoing.any p then ((s.outgoing.filter p).foldl State.landOne { s with outgoing := s.outgoing.filter fun o => !p o }).watch else s

/-- The outgoing bytes of a die in the sectors of those at addresses that meet p arrive: what a read or a later write there by the die follows. A sector
arrives whole, since one request may have carried its bytes (spec/12 R234, R235, R238).
Rests on notes/assumptions 95 (DEDUCED). -/
def State.landNear (s : State) (d : DieIx) (p : Nat → Bool) : State :=
  let near := (s.outgoing.filter fun o => dieOf o.src == d && p o.byte.pa).map fun o => o.byte.pa / 64
  if near.isEmpty then s else s.landOut fun o => dieOf o.src == d && near.contains (o.byte.pa / 64)

/-- Drains the dirty L1 bytes of a core that meet p to the die's L2; they stay as clean copies (spec/12 R236). -/
def State.drainL1 (s : State) (c : CoreIx) (p : CByte → Bool) : State :=
  let moved := s.cores[c].l1.filter fun b => b.dirty && p b
  if moved.isEmpty then s
  else
    let s1 := moved.foldl (fun s b => s.toL2 (dieOf c) b) (s.landNear (dieOf c) fun a => moved.any fun b => b.pa == a)
    (s1.modCore c fun x => { x with l1 := cleaned x.l1 p }).watch

/-- Outgoing bytes of a die that meet p and are on their way to its L2: a push from there takes them along.
Rests on notes/assumptions 95 (DEDUCED). -/
def State.inbound (s : State) (d : DieIx) (p : CByte → Bool) : List Outgoing := s.outgoing.filter fun o => dieOf o.src == d && !o.far && p o.byte

/-- Pushes the dirty far-copy bytes of a die that meet p home; they stay as clean copies. What is on its way to the die's L2 in their sectors arrives there
first, so that nothing newer is left behind (R236).
Rests on notes/assumptions 95 (DEDUCED). -/
def State.pushFar (s : State) (d : DieIx) (p : CByte → Bool) : State :=
  let near := (s.inbound d p).map fun o => o.byte.pa / 64
  let s0 := if near.isEmpty then s else s.landOut fun o => dieOf o.src == d && !o.far && near.contains (o.byte.pa / 64)
  let moved := s0.dies[d].far.filter fun b => b.dirty && p b
  if moved.isEmpty then s0
  else
    let s1 := moved.foldl (fun s b => s.toHome b) s0
    (s1.modDie d fun x => { x with far := cleaned x.far p }).watch

/-- Invalidates L1 bytes, after writing back what is dirty (spec/12 R236). -/
def State.invL1 (s : State) (c : CoreIx) (p : CByte → Bool) : State :=
  (s.drainL1 c p).modCore c fun x => { x with l1 := x.l1.filter fun b => !p b }

/-- Invalidates far copies, after writing back what is dirty. -/
def State.invFar (s : State) (d : DieIx) (p : CByte → Bool) : State :=
  (s.pushFar d p).modDie d fun x => { x with far := x.far.filter fun b => !p b }

/-- True for a byte of [a, a+n). -/
def CByte.inRange (a n : Nat) (b : CByte) : Bool := decide (a ≤ b.pa ∧ b.pa < a + n)

/-! ## Reductions (spec/11 R222) -/

/-- A partial executes at its home as one step; poison makes the element poisoned (R221). -/
def State.redPart (s : State) (op fmt : Nat) (tag : LineTag) (p : Part) : State :=
  if s.homeUp tag.home then
    let n := redBits fmt / 8
    let bad := p.pois || s.homePoisoned p.pa n
    let v := applyRed op fmt (Memory.readLe s.mem p.pa n) (p.val.toNat % 2 ^ (8 * n))
    s.homeBytes (some tag) p.pa ((toBytes n v).map fun b => (b, bad))
  else s

/-- A combining entry executes at home. -/
def State.redEntry (s : State) (e : Comb) : State := (e.parts.foldl (fun s p => s.redPart e.op e.fmt e.tag p) s).watch

/-- Executes at home the entries on their way that meet p. -/
def State.landRed (s : State) (p : Comb → Bool) : State :=
  (s.homeRed.filter p).foldl (fun s e => s.redEntry e) { s with homeRed := s.homeRed.filter fun e => !p e }

/-- Sends the combining entries of a core that meet p home, marked with the fences that wait for them. -/
def State.sendRed (s : State) (c : CoreIx) (p : Comb → Bool) (out : List Leaving) : State :=
  let sent := (s.cores[c].comb.filter p).map fun e => { e with out := out }
  let s1 := s.modCore c fun x => { x with comb := x.comb.filter fun e => !p e }
  { s1 with homeRed := s1.homeRed ++ sent }

/-- Sends a core's entries of one sector home and waits for them, but for those that meet `pass`: what a write of the core to that sector follows.
Rests on notes/assumptions 112 (DEDUCED). -/
def State.flushRed (s : State) (c : CoreIx) (sector : Nat) (pass : Comb → Bool) : State :=
  let p (e : Comb) : Bool := e.sector == sector && !pass e
  if s.cores[c].comb.any p || (s.homeRed.any fun e => e.src == c && p e) then (s.sendRed c p []).landRed fun e => e.src == c && p e else s

/-- The outgoing bytes of a core's die in [a, a+n) arrive. -/
def State.landRange (s : State) (c : CoreIx) (a n : Nat) : State := s.landNear (dieOf c) fun pa => decide (a ≤ pa ∧ pa < a + n)

/-- Writes a sector's dirty bytes of a core and of its die home: what a reduction of the core to that sector follows. -/
def State.flushSector (s : State) (c : CoreIx) (sector : Nat) : State :=
  let p := CByte.inRange (64 * sector) 64
  ((s.landRange c (64 * sector) 64).drainL1 c p).pushFar (dieOf c) p

/-- The 64-byte sectors that a core's L1 holds in the ways that meet p, as lines or as combining entries (spec/01 R16). -/
def CoreSt.l1Sectors (c : CoreSt) (p : Nat → Bool) : List Nat :=
  ((c.l1.filter fun b => p b.way).map fun b => b.pa / 64).eraseDups ++
  (((c.comb.filter fun e => p e.way && !(c.l1.any fun b => b.pa / 64 == e.sector)).map fun e => e.sector).eraseDups)

/-- A core's L1 gives up a sector: its combining entry goes home as a reduction, its dirty bytes to the die's L2. -/
def State.evictL1 (s : State) (c : CoreIx) (sector : Nat) : State :=
  (s.sendRed c (fun e => e.sector == sector) []).invL1 c (CByte.inRange (64 * sector) 64)

/-- Makes room for a sector in a way of a core's L1 (spec/01 R12, R16): a way holds 2,048 lines of 64 bytes, and a resident team under race detection takes
288 KiB of the ways for its shadows (spec/08 R165).
Rests on notes/assumptions 9 (DEDUCED). -/
def State.roomL1 (s : State) (c : CoreIx) (way sector : Nat) : State :=
  let x := s.cores[c]
  let here := x.l1Sectors fun w => w == way
  let all := x.l1Sectors fun _ => true
  let pick (l : List Nat) : Nat := victimOf s.tick l fun k => x.l1.any fun b => b.stream && b.pa / 64 == k
  if all.contains sector then s
  else if 2048 ≤ here.length then s.evictL1 c (pick here)
  else if 2048 * x.ways ≤ all.length + 4608 ∧ 3 ≤ x.ways ∧ s.teams.toList.any (fun t => t.live && t.race && t.core == c) then s.evictL1 c (pick all)
  else s

/-- The L1 way of a sector: that of a byte of it already held, else one of the core's ways.
Rests on notes/assumptions 9 (DEDUCED). -/
def State.wayFor (s : State) (c : CoreIx) (sector : Nat) : Nat :=
  match s.cores[c].l1.find? fun b => b.pa / 64 == sector with
  | some b => b.way
  | none => Config.lineWay s.tick sector % max 1 s.cores[c].ways

/-- A contribution of one element (R222): into an L1 combining entry where the page is cacheable and the core has an L1 way, else to home. -/
def State.contribute (s : State) (c : CoreIx) (cacheable : Bool) (tag : LineTag) (op fmt : Nat) (p : Part) : State :=
  let sector := p.pa / 64
  let s1 := s.flushSector c sector
  if cacheable && decide (0 < s1.cores[c].ways) then
    let same (e : Comb) : Bool := e.sector == sector
    let like (e : Comb) : Bool := e.op == op && e.fmt == fmt
    match s1.cores[c].comb.find? same with
    | some e =>
      if like e then
        let n := redBits fmt / 8
        let parts := match e.parts.find? fun q => q.pa == p.pa with
          | some q => { q with val := BitVec.ofNat 64 (applyRed op fmt (q.val.toNat % 2 ^ (8 * n)) (p.val.toNat % 2 ^ (8 * n))), pois := q.pois || p.pois,
                                   who := q.who ++ p.who } ::
                      e.parts.filter fun q => q.pa != p.pa
          | none => p :: e.parts
        s1.modCore c fun x => { x with comb := x.comb.map fun f => if same f then { e with parts := parts } else f }
      else
        (s1.sendRed c same []).modCore c fun x =>
          { x with comb := { src := c, sector := sector, op := op, fmt := fmt, home := tag.home, codec := tag.codec, way := e.way, parts := [p], out := [] } ::
                           x.comb }
    | none =>
      let w := s1.wayFor c sector
      (s1.roomL1 c w sector).modCore c fun x =>
        { x with comb := { src := c, sector := sector, op := op, fmt := fmt, home := tag.home, codec := tag.codec, way := w, parts := [p], out := [] } :: x.comb }
  else (s1.redPart op fmt tag p).watch

/-! ## Reads and writes of a core (spec/12 R234, spec/10 R215) -/

/-- The bytes that one request to a page reads: a whole line of a compressed page, or one that is stored compressed (spec/12 R235, spec/11 R230, R231),
else a sector.
Rests on notes/assumptions 8 (DEDUCED). -/
def State.granule (s : State) (e : TlbE) (pa : Nat) : Nat := if e.codec ≠ 0 ∨ (e.space = .device ∧ s.lineCodec pa ≠ 0) then 256 else 64

/-- Under a HINT a page allocates its lines as streaming ones, which are replaced first (spec/10 R215). -/
def TlbE.streams (e : TlbE) (hint : Nat) : Bool := hint == 2 || (hint == 0 && e.cp == 1)

/-- A page that L1 and L2 may hold. -/
def TlbE.cacheable (e : TlbE) : Bool := e.space == .device && e.cp != 2

/-- A hint that contradicts its page (R215).
Rests on notes/assumptions 29 (DEDUCED). -/
def TlbE.contradicts (e : TlbE) (hint : Nat) : Bool := !e.cacheable && (hint == 1 || hint == 2)

/-- A byte as a die's L2 gives it. -/
def State.readL2 (s : State) (d : DieIx) (far : Bool) (pa : Nat) : Byte × Bool :=
  match (if far then cfind s.dies[d].far pa else none) with
  | some b => (b.val, b.pois)
  | none => (Memory.read s.mem pa, s.memPoison.contains pa)

/-- A byte as a core's read gets it: L1, then a far copy, then home; an uncached page is read at home.
Rests on notes/assumptions 10 (DESIGN CHOICE). -/
def State.readByte (s : State) (c : CoreIx) (cached : Bool) (pa : Nat) : Byte × Bool :=
  match (if cached then cfind s.cores[c].l1 pa else none) with
  | some b => (b.val, b.pois)
  | none => s.readL2 (dieOf c) cached pa

/-- The bytes that the reads of a device, host or peer page give now. -/
def State.readPage (s : State) (c : CoreIx) (e : TlbE) (pa n : Nat) : List (Byte × Bool) :=
  match e.space with
  | .device => (List.range n).map fun i => s.readByte c e.cacheable (pa + i)
  | .host => (Memory.readBytes s.hostMem pa n).map fun b => (b, false)
  | .peer _ => (Memory.readBytes s.peerMem pa n).map fun b => (b, false)

/-- A read that allocates brings the sectors [a, a+n) into the far copies of the die and into L1.
Rests on notes/assumptions 9 (DEDUCED). -/
def State.allocate (s : State) (c : CoreIx) (e : TlbE) (hint a n : Nat) : State :=
  let as := (List.range n).map fun i => a + i
  let s1 := as.foldl (fun s pa =>
    if e.home pa = (dieOf c).val || (cfind s.dies[dieOf c].far pa).isSome then s
    else
      let v := s.readL2 (dieOf c) false pa
      s.putFar (dieOf c) { pa := pa, val := v.1, dirty := false, pois := v.2, home := e.home pa, way := 0, codec := e.codec, stream := e.streams hint }) s
  if s1.cores[c].ways = 0 then s1
  else
    as.foldl (fun s pa =>
      if (cfind s.cores[c].l1 pa).isSome then s
      else
        let v := s.readL2 (dieOf c) true pa
        let w := s.wayFor c (pa / 64)
        (s.roomL1 c w (pa / 64)).modCore c fun x =>
          { x with l1 := cput x.l1 { pa := pa, val := v.1, dirty := false, pois := v.2, home := e.home pa, way := w, codec := e.codec,
                                     stream := e.streams hint } }) s1

/-- Drops the copies of [a, a+n) that a core's read could use, after writing back what is dirty. -/
def State.evictRange (s : State) (c : CoreIx) (a n : Nat) : State :=
  ((s.landRange c a n).invL1 c (CByte.inRange a n)).invFar (dieOf c) (CByte.inRange a n)

/-- Writes of one byte by a core to a cacheable device page. -/
def State.writeCached (s : State) (c : CoreIx) (alloc : Bool) (b : CByte) : State :=
  let held := s.cores[c].l1.any fun x => x.pa / 64 == b.pa / 64 
  if decide (0 < s.cores[c].ways) && (alloc || held) then
    let w := s.wayFor c (b.pa / 64)
    (s.roomL1 c w (b.pa / 64)).modCore c fun x => { x with l1 := cput x.l1 { b with dirty := true, way := w } }
  else if b.home = (dieOf c).val then s.toHome b
  else if alloc || (s.dies[dieOf c].far.any fun x => x.pa / 64 == b.pa / 64) then s.toL2 (dieOf c) b
  else s.toHome b

/-- The bytes of one request of a core's write, from an address upward.
Rests on notes/assumptions 39 (DEDUCED), 117 (DEDUCED). -/
def State.writePage (s : State) (c : CoreIx) (e : TlbE) (hint : Nat) (pass : Comb → Bool) (pa : Nat) (bs : List (Byte × Bool)) : State :=
  match e.space with
  | .host => { s with hostMem := Memory.writeBytes s.hostMem pa (bs.map fun b => b.1) }
  | .peer _ => { s with peerMem := Memory.writeBytes s.peerMem pa (bs.map fun b => b.1) }
  | .device =>
    let s1 := (s.flushRed c (pa / 64) pass).landRange c pa bs.length
    let s2 := bs.zipIdx.foldl (fun s x =>
      let b : CByte := { pa := pa + x.2, val := x.1.1, dirty := true, pois := x.1.2, home := e.home (pa + x.2), way := 0, codec := e.codec,
                         stream := e.streams hint }
      if e.cacheable then s.writeCached c (hint != 3) b else s.toHome b) s1
    s2.watch

/-! ## Cluster atomic units (spec/13 R253) -/

/-- Writes the sectors of a cluster's atomic unit that meet p back to the die's L2 and drops them. -/
def State.atomBack (s : State) (k : Fin 40) (p : CByte → Bool) : State :=
  let d : DieIx := ⟨k.val / 10, by omega⟩
  let moved := s.clusters[k].atom.filter fun b => b.dirty && p b
  let s1 := moved.foldl (fun s b => s.toL2 d b) (s.landNear d fun a => moved.any fun b => b.pa == a)
  (s1.modCluster k fun x => { x with atom := x.atom.filter fun b => !p b }).watch

/-- The sectors that a unit holds, the one fetched first at the end. -/
def atomSectors (l : List CByte) : List Nat := (l.map fun b => b.pa / 64).eraseDups

/-- Fetches a sector from the die's L2 where the unit does not hold it; a full unit evicts the sector that it fetched first. -/
def State.atomFetch (s : State) (k : Fin 40) (e : TlbE) (sector : Nat) : State :=
  if s.clusters[k].atom.any fun b => b.pa / 64 == sector then s
  else
    let held := atomSectors s.clusters[k].atom
    let s1 := match held.getLast? with
      | some old => if 128 ≤ held.length then s.atomBack k fun b => b.pa / 64 == old else s
      | none => s
    let d : DieIx := ⟨k.val / 10, by omega⟩
    let s1 := s1.landNear d fun a => a / 64 == sector
    let fresh := (List.range 64).map fun i =>
      let v := s1.readL2 d true (64 * sector + i)
      ({ pa := 64 * sector + i, val := v.1, dirty := false, pois := v.2, home := e.home (64 * sector + i), way := 0, codec := e.codec,
         stream := false } : CByte)
    s1.modCluster k fun x => { x with atom := fresh ++ x.atom }

/-! ## The scopes' procedures (spec/12 R236) -/

/-- Everything. -/
def anyByte : CByte → Bool := fun _ => true

/-- A device-scope release of a core closes its atomics' works at the addresses that meet p; an acquire of a core after it lets that core work there
(spec/13 R254). -/
def State.releaseUses (s : State) (c : CoreIx) (scope : Nat) (p : Nat → Bool) : State :=
  if scope < 4 then s else { s with uses := s.uses.map fun u => if u.core == c && p u.pa then { u with released := true } else u }

/-- The acquire's side of State.releaseUses. -/
def State.acquireUses (s : State) (c : CoreIx) (scope : Nat) (p : Nat → Bool) : State :=
  if scope < 4 then s
  else { s with uses := s.uses.map fun u => if u.released && p u.pa && !u.acquired.contains c then { u with acquired := c :: u.acquired } else u }

/-- The release procedure of a scope for a core. -/
def State.pushScope (s : State) (c : CoreIx) (scope : Nat) : State :=
  if scope = 0 then s
  else
    let s1 := (((s.releaseUses c scope fun _ => true).landNear (dieOf c) fun _ => true).drainL1 c anyByte).sendRed c (fun _ => true) []
    let s2 := if 2 ≤ scope then s1.atomBack (clusterOf c) anyByte else s1
    let s3 := if 4 ≤ scope then s2.pushFar (dieOf c) anyByte else s2
    s3.landRed fun e => e.src == c && (decide (4 ≤ scope) || !e.out.isEmpty)

/-- The acquire procedure of a scope for a core. -/
def State.acquireScope (s : State) (c : CoreIx) (scope : Nat) : State :=
  if scope ≤ 1 then s
  else if scope ≤ 3 then s.invL1 c anyByte
  else ((s.acquireUses c scope fun _ => true).invL1 c anyByte).invFar (dieOf c) anyByte

/-- The release part of an acqrel fence at cluster scope or wider sends what its push moves on its way (R238): the dirty bytes leave the caches for the
die's L2, or at device and system scope for home, far copies before the L1 bytes that are newer; the fence also waits for what earlier fences of the
die sent and for the core's combining entries. Bytes of a lost home are dropped (R250).
Rests on notes/assumptions 95 (DEDUCED). -/
def State.depart (s : State) (c : CoreIx) (scope : Nat) (l : Leaving) : State :=
  let d := dieOf c
  let far := decide (4 ≤ scope)
  let s0 := (s.releaseUses c scope fun _ => true).atomBack (clusterOf c) anyByte
  let s1 := if far then s0.landOut fun o => dieOf o.src == d && !o.far else s0
  let leave := ((if far then s1.dies[d].far.filter fun b => b.dirty else []) ++ s1.cores[c].l1.filter fun b => b.dirty).filter fun b => !far || s.homeUp b.home
  let s2 : State :=
    { s1 with outgoing := (s1.outgoing.map fun o => if dieOf o.src == d then { o with by_ := o.by_ ++ [l] } else o) ++
                          leave.map fun b => { src := c, far := far, byte := b, by_ := [l] }
              homeRed := s1.homeRed.map fun e => if far && e.src == c then { e with out := e.out ++ [l] } else e }
  let s3 := s2.modCore c fun x => { x with l1 := x.l1.filter fun b => !b.dirty }
  let s4 := if far then s3.modDie d fun x => { x with far := x.far.filter fun b => !b.dirty } else s3
  s4.sendRed c (fun _ => true) (if far then [l] else [])

/-- The release of a counter that completes, of a SIGNAL packet, or of a launch with no teams (spec/15 R292, R300, R303, spec/12 R242): at device and
system scope what the releases before it left in the dies' far copies or on its way goes home.
Rests on notes/assumptions 42 (DEDUCED). -/
def State.hubRelease (s : State) (scope : Nat) : State :=
  if scope < 4 then s
  else ((List.finRange 4).foldl (fun s d => s.pushFar d anyByte) (s.landOut fun _ => true)).landRed fun _ => true

/-- A hub release at a scope has bytes or entries to send to a home that relocks: it waits (R236, spec/15 R312). -/
def State.hubWaits (s : State) (scope : Nat) : Bool :=
  let busy (h : Nat) : Bool := s.homeUp h && s.homeBusy h
  decide (4 ≤ scope) && ((s.dies.any fun d => d.far.any fun b => b.dirty && busy b.home) || (s.outgoing.any fun o => o.far && busy o.byte.home) ||
    s.homeRed.any fun e => busy e.home)

/-- The homes that the outgoing bytes of a die that meet p are on their way to. -/
def State.outHomes (s : State) (d : DieIx) (p : CByte → Bool) : List Nat :=
  (s.outgoing.filter fun o => o.far && dieOf o.src == d && p o.byte).map fun o => o.byte.home

/-- The homes that a release or an acquire at a scope sends bytes or entries to: those of the dirty bytes and entries it moves. -/
def State.pushHomes (s : State) (c : CoreIx) (scope : Nat) (p : CByte → Bool) (q : Comb → Bool) : List Nat :=
  let l1 := (s.cores[c].l1.filter fun b => b.dirty && p b).map fun b => b.home
  let here := l1.filter fun h => h == (dieOf c).val
  s.outHomes (dieOf c) p ++
  if 4 ≤ scope then
    l1 ++ ((s.inbound (dieOf c) p).map fun o => o.byte.home) ++ ((s.dies[dieOf c].far.filter fun b => b.dirty && p b).map fun b => b.home) ++ ((s.cores[c].comb.filter q).map fun e => e.home) ++
    ((s.homeRed.filter fun e => e.src == c && q e).map fun e => e.home) ++
    (if 2 ≤ scope then (s.clusters[clusterOf c].atom.filter fun b => b.dirty && p b).map fun b => b.home else [])
  else here

/-- The homes that an acquire at a scope writes dirty bytes back to (R236): at device and system scope those of the die's L2 and the core's L1. -/
def State.acquireHomes (s : State) (c : CoreIx) (scope : Nat) : List Nat :=
  if 4 ≤ scope then
    ((s.cores[c].l1.filter fun b => b.dirty).map fun b => b.home) ++ ((s.dies[dieOf c].far.filter fun b => b.dirty).map fun b => b.home) ++
    ((s.inbound (dieOf c) anyByte).map fun o => o.byte.home)
  else []

/-- A move to a home that relocks has to wait (R236, spec/15 R312).
Rests on notes/assumptions 35 (DEDUCED). -/
def State.pushWaits (s : State) (hs : List Nat) : Bool := hs.any fun h => s.homeUp h && s.homeBusy h

/-- A move to a home that is lost (R250). -/
def State.pushLost (s : State) (hs : List Nat) : Bool := hs.any fun h => !s.homeUp h

/-! ## Translations that are cached (spec/10 R212) -/

/-- A cached translation of an address. -/
def tlbFind (l : List TlbE) (c : CtxIx) (va : Nat) : Option TlbE := l.find? fun e => e.ctx == c && decide (e.va ≤ va ∧ va < e.va + e.size)

/-- Puts a translation first, within a capacity. -/
def tlbPut (l : List TlbE) (n : Nat) (e : TlbE) : List TlbE := (e :: l.filter fun x => !(x.ctx == e.ctx && x.va == e.va && x.size == e.size)).take n

/-- The translation that an element uses: a cached one where `useTlb` lets it, else a walk; what succeeds is cached, and a miss of the micro-TLB is
counted (spec/17 R349).
Rests on notes/assumptions 10 (DESIGN CHOICE). -/
def State.translateAt (s : State) (c : CoreIx) (x : CtxIx) (va : Nat) (r : Right) (useTlb : Bool) : State × Except Cause TlbE :=
  let d := dieOf c
  match (if useTlb then tlbFind s.cores[c].utlb x va else none) with
  | some e => (s, match s.leafFault e va r with | some f => .error f | none => .ok e)
  | none =>
    let s1 := s.countAt c 0x09 1
    let found := match (if useTlb then tlbFind s.dies[d].tlb x va else none) with
      | some e => Except.ok e
      | none => s.walk d x va
    match found with
    | .error f => (s1, .error f)
    | .ok e =>
      match s.leafFault e va r with
      | some f => (s1, .error f)
      | none => ((s1.modCore c fun y => { y with utlb := tlbPut y.utlb 128 e }).modDie d fun y => { y with tlb := tlbPut y.tlb 16384 e }, .ok e)

/-! ## Regions (spec/12 R244-R247) -/

/-- The translations of the pages that meet [lo, hi), found by descending the table; what does not translate is skipped. -/
def State.regionPages (s : State) (d : DieIx) (c : CtxIx) (lo hi : Nat) : List (Nat × Nat × Nat) → Nat → Nat → List TlbE
  | [], _, _ => []
  | (level, bit, len) :: rest, table, base =>
    let first := if lo ≤ base then 0 else (lo - base) / 2 ^ bit
    let last := min (2 ^ len) (((hi - base) + 2 ^ bit - 1) / 2 ^ bit)
    (List.range (last - first)).flatMap fun k =>
      let i := first + k
      let e := ofBytes (s.walkBytes d (table + 8 * i) 8)
      if e % 2 = 0 then []
      else if (e >>> 5) % 2 = 1 then (match leafOf c (base + i * 2 ^ bit) level e with | some t => [t] | none => [])
      else s.regionPages d c lo hi rest ((e >>> 16) % 2 ^ 37 * 65536) (base + i * 2 ^ bit)

/-- The pages of a region in a context. -/
def State.pagesOf (s : State) (d : DieIx) (c : CtxIx) (lo hi : Nat) : List TlbE :=
  s.regionPages d c lo hi [(1, 55, 9), (2, 42, 13), (3, 29, 13), (4, 16, 13)] ((s.ctx c).field 0 8) 0

/-- Whether a physical device address lies in one of the regions. -/
def inRegions (pages : List ((Nat × Nat) × List TlbE)) (pa : Nat) : Bool :=
  pages.any fun x => x.2.any fun e =>
    e.space == .device && decide (e.pa ≤ pa ∧ pa < e.pa + e.size ∧ x.1.1 ≤ e.va + (pa - e.pa) ∧ e.va + (pa - e.pa) < x.1.1 + 2 ^ x.1.2)

/-- The pages of a list of regions, each a base and the logarithm of its size. -/
def State.regionTable (s : State) (d : DieIx) (c : CtxIx) (rs : List (Nat × Nat)) : List ((Nat × Nat) × List TlbE) :=
  rs.map fun r => (r, s.pagesOf d c r.1 (r.1 + 2 ^ r.2))

/-- The partials of an entry that lie in regions leave it for an entry of their own. -/
def Comb.split (e : Comb) (p : Nat → Bool) : List Comb :=
  let a := e.parts.filter fun q => p q.pa
  let b := e.parts.filter fun q => !p q.pa
  (if a.isEmpty then [] else [{ e with parts := a }]) ++ (if b.isEmpty then [] else [{ e with parts := b }])

/-- Pushes the bytes of regions at a scope (R246): only their bytes and their partials move. -/
def State.pushRegions (s : State) (c : CoreIx) (scope : Nat) (p : Nat → Bool) : State :=
  let q (e : Comb) : Bool := e.parts.any fun x => p x.pa
  let s0 := (s.releaseUses c scope p).modCore c fun x => { x with comb := x.comb.flatMap fun e => e.split p }
  let s1 := ((s0.landNear (dieOf c) p).drainL1 c fun b => p b.pa).sendRed c q []
  let s2 := if 2 ≤ scope then s1.atomBack (clusterOf c) fun b => p b.pa else s1
  if 4 ≤ scope then (s2.pushFar (dieOf c) fun b => p b.pa).landRed fun e => e.src == c && q e else s2

/-- Invalidates the bytes of regions: L1, and the far copies at scope 4 or 5 (R247). -/
def State.invRegions (s : State) (c : CoreIx) (scope : Nat) (p : Nat → Bool) : State :=
  let s1 := (s.acquireUses c scope p).invL1 c fun b => p b.pa
  if 4 ≤ scope then s1.invFar (dieOf c) fun b => p b.pa else s1

end Sys2Proof.Machine
end

