-- ==== Sys2Proof/Machine/ScalarArith.lean ====
section
/-! DEFINITION. The scalar integer words, compares, selects, bit fields and immediates (spec/03 R57-R61). -/

namespace Sys2Proof.Machine

/-- Ends a scalar word, or an XIMM unit, that writes one register. -/
def State.scalarPut (s : State) (len : Nat) (d : Reg) (v : Word) : Host.Outcome State Fault Refusal := .next ((s.setSr d v).advance len)

/-- Ends a scalar word that writes a register pair. -/
def State.scalarPut64 (s : State) (len : Nat) (d : Reg) (v : DWord) : Host.Outcome State Fault Refusal := .next ((s.setSr64 d v).advance len)

/-- Ends a scalar word that writes a q predicate. -/
def State.scalarPutQ (s : State) (q : BitVec 3) (v : Bool) : Host.Outcome State Fault Refusal := .next ((s.setQ q v).advance 4)

/-- A 64-bit product's upper half, of signed or unsigned operands (spec/03 R57). -/
def mulHigh (sgn : Bool) (a b : Word) : Word :=
  ((if sgn then a.signExtend 64 else a.zeroExtend 64) * (if sgn then b.signExtend 64 else b.zeroExtend 64)).extractLsb' 32 32

def execSadd (d a b : Reg) (s : State) : Host.Outcome State Fault Refusal := s.scalarPut 4 d (s.sr a + s.sr b)

def execSsub (d a b : Reg) (s : State) : Host.Outcome State Fault Refusal := s.scalarPut 4 d (s.sr a - s.sr b)

def execSmul (d a b : Reg) (s : State) : Host.Outcome State Fault Refusal := s.scalarPut 4 d (s.sr a * s.sr b)

def execSmulh (d a b : Reg) (s : State) : Host.Outcome State Fault Refusal := s.scalarPut 4 d (mulHigh true (s.sr a) (s.sr b))

def execSmulhN (d a b : Reg) (s : State) : Host.Outcome State Fault Refusal := s.scalarPut 4 d (mulHigh false (s.sr a) (s.sr b))

def execSmin (d a b : Reg) (s : State) : Host.Outcome State Fault Refusal := s.scalarPut 4 d (if (s.sr a).slt (s.sr b) then s.sr a else s.sr b)

def execSmax (d a b : Reg) (s : State) : Host.Outcome State Fault Refusal := s.scalarPut 4 d (if (s.sr a).slt (s.sr b) then s.sr b else s.sr a)

def execSminN (d a b : Reg) (s : State) : Host.Outcome State Fault Refusal := s.scalarPut 4 d (if (s.sr a).ult (s.sr b) then s.sr a else s.sr b)

def execSmaxN (d a b : Reg) (s : State) : Host.Outcome State Fault Refusal := s.scalarPut 4 d (if (s.sr a).ult (s.sr b) then s.sr b else s.sr a)

def execSand (d a b : Reg) (s : State) : Host.Outcome State Fault Refusal := s.scalarPut 4 d (s.sr a &&& s.sr b)

def execSor (d a b : Reg) (s : State) : Host.Outcome State Fault Refusal := s.scalarPut 4 d (s.sr a ||| s.sr b)

def execSxor (d a b : Reg) (s : State) : Host.Outcome State Fault Refusal := s.scalarPut 4 d (s.sr a ^^^ s.sr b)

/-- The shifts' count n = b[7:0] (spec/03 R57); a shift by 32 or more empties the word, which BitVec's shifts give too. -/
def shiftCount (b : Word) : Nat := (b.extractLsb' 0 8).toNat

def execSshl (d a b : Reg) (s : State) : Host.Outcome State Fault Refusal := s.scalarPut 4 d (s.sr a <<< shiftCount (s.sr b))

def execSshr (d a b : Reg) (s : State) : Host.Outcome State Fault Refusal := s.scalarPut 4 d (s.sr a >>> shiftCount (s.sr b))

def execSsra (d a b : Reg) (s : State) : Host.Outcome State Fault Refusal := s.scalarPut 4 d ((s.sr a).sshiftRight (shiftCount (s.sr b)))

def execSmov (d a : Reg) (s : State) : Host.Outcome State Fault Refusal := s.scalarPut 4 d (s.sr a)

def execSclz (d a : Reg) (s : State) : Host.Outcome State Fault Refusal := s.scalarPut 4 d (BitVec.ofNat 32 (clz32 (s.sr a)))

def execSpopc (d a : Reg) (s : State) : Host.Outcome State Fault Refusal := s.scalarPut 4 d (BitVec.ofNat 32 (popCount 32 (s.sr a).toNat))

/-! ## Compares and selects (R58) -/

def execScmpEq (q : BitVec 3) (a b : Reg) (s : State) : Host.Outcome State Fault Refusal := s.scalarPutQ q (s.sr a == s.sr b)

def execScmpNe (q : BitVec 3) (a b : Reg) (s : State) : Host.Outcome State Fault Refusal := s.scalarPutQ q (s.sr a != s.sr b)

def execScmpLt (q : BitVec 3) (a b : Reg) (s : State) : Host.Outcome State Fault Refusal := s.scalarPutQ q ((s.sr a).slt (s.sr b))

def execScmpLe (q : BitVec 3) (a b : Reg) (s : State) : Host.Outcome State Fault Refusal := s.scalarPutQ q ((s.sr a).sle (s.sr b))

def execScmpLtN (q : BitVec 3) (a b : Reg) (s : State) : Host.Outcome State Fault Refusal := s.scalarPutQ q ((s.sr a).ult (s.sr b))

def execScmpLeN (q : BitVec 3) (a b : Reg) (s : State) : Host.Outcome State Fault Refusal := s.scalarPutQ q ((s.sr a).ule (s.sr b))

/-- The choice of SSEL by a q predicate. -/
def State.scalarSelect (s : State) (q : BitVec 3) (d a b : Reg) : Host.Outcome State Fault Refusal :=
  s.scalarPut 4 d (if s.qr q then s.sr a else s.sr b)

def execSselQ0Q3 (d a b : Reg) (k : BitVec 2) (s : State) : Host.Outcome State Fault Refusal := s.scalarSelect (k.zeroExtend 3) d a b

def execSselQ4Q7 (d a b : Reg) (k : BitVec 2) (s : State) : Host.Outcome State Fault Refusal := s.scalarSelect (k.zeroExtend 3 + 4) d a b

/-! ## 64-bit address arithmetic (R60) -/

def execSad64 (d a b : Reg) (s : State) : Host.Outcome State Fault Refusal := s.scalarPut64 4 d (s.sr64 a + (s.sr b).signExtend 64)

def execSmad64 (d a b : Reg) (s : State) : Host.Outcome State Fault Refusal :=
  s.scalarPut64 4 d (s.sr64 a + (s.sr b).signExtend 64 * (s.sr d).signExtend 64)

/-! ## Bit fields (R61) -/

/-- The offset and the width that a control word gives. -/
def fieldOffset (c : Word) : Nat := (c.extractLsb' 0 5).toNat
def fieldWidth (c : Word) : Nat := min (c.extractLsb' 8 6).toNat (32 - fieldOffset c)

/-- mask(w): the w low bits set. -/
def lowMask (w : Nat) : Word := BitVec.ofNat 32 (2 ^ w - 1)

/-- A field as SBFE and VBFE read it (spec/03 R61, spec/04 R78): zero-extended, or sign-extended from its top bit. -/
def fieldGet (sgn : Bool) (a c : Word) : Word :=
  let v := (a >>> fieldOffset c) &&& lowMask (fieldWidth c)
  if sgn && decide (0 < fieldWidth c) && v.getLsbD (fieldWidth c - 1) then v ||| ~~~(lowMask (fieldWidth c)) else v

/-- A field put into a base. -/
def fieldPut (base a c : Word) : Word :=
  (base &&& ~~~(lowMask (fieldWidth c) <<< fieldOffset c)) ||| ((a &&& lowMask (fieldWidth c)) <<< fieldOffset c)

def execSbfe (d a b : Reg) (s : State) : Host.Outcome State Fault Refusal := s.scalarPut 4 d (fieldGet false (s.sr a) (s.sr b))

def execSbfeI (d a b : Reg) (s : State) : Host.Outcome State Fault Refusal := s.scalarPut 4 d (fieldGet true (s.sr a) (s.sr b))

def execSbfi (d a b : Reg) (s : State) : Host.Outcome State Fault Refusal := s.scalarPut 4 d (fieldPut (s.sr d) (s.sr a) (s.sr b))

/-! ## Immediates (R59) -/

/-- SADDI with its whole immediate, as a word of its own or with XIMM. -/
def State.addImm (s : State) (d a : Reg) (imm : Word) (len : Nat) : Host.Outcome State Fault Refusal := s.scalarPut len d (s.sr a + imm)

def execSaddi (d a : Reg) (i : BitVec 10) (s : State) : Host.Outcome State Fault Refusal := s.addImm d a (i.signExtend 32) 4

def execSli (d : Reg) (i : BitVec 18) (s : State) : Host.Outcome State Fault Refusal := s.scalarPut 4 d (i.signExtend 32)

def execSlui (d : Reg) (i : BitVec 18) (s : State) : Host.Outcome State Fault Refusal := s.scalarPut 4 d (i ++ (s.sr d).extractLsb' 0 14)

end Sys2Proof.Machine
end

