-- ==== Sys2Proof/Machine/LaneInt.lean ====
section
/-! DEFINITION. The lane-local integer, logic, select, compare and predicate words (spec/04 R76-R81). -/

namespace Sys2Proof.Machine

/-- An arithmetic word of R76 on exact integers. -/
def State.laneArith (s : State) (opc : Nat) (w : LaneWord) (f : Int → Int → Int → Int) : Host.Outcome State Fault Refusal :=
  s.laneOp opc w fun s _ l =>
    let v (x : BitVec 10) : Int := intVal w.type (s.operand w x l)
    (intResult w.type (w.sub.getLsbD 3) (f (v w.srcA) (v w.srcB) (v w.srcC)), 0)

def execVadd (w : LaneWord) (s : State) : Host.Outcome State Fault Refusal := s.laneArith 0x001 w fun a b _ => a + b

def execVsub (w : LaneWord) (s : State) : Host.Outcome State Fault Refusal := s.laneArith 0x002 w fun a b _ => a - b

def execVmul (w : LaneWord) (s : State) : Host.Outcome State Fault Refusal := s.laneArith 0x003 w fun a b _ => a * b

def execVmulh (w : LaneWord) (s : State) : Host.Outcome State Fault Refusal :=
  s.laneArith 0x004 w fun a b _ => a * b / (2 ^ fmtBits w.type.toNat : Nat)

def execVmad (w : LaneWord) (s : State) : Host.Outcome State Fault Refusal := s.laneArith 0x005 w fun a b c => a * b + c

/-- VMADW: 32-bit factors, a 64-bit addend and a 64-bit result of the type's signedness. -/
def execVmadw (w : LaneWord) (s : State) : Host.Outcome State Fault Refusal :=
  let wide : BitVec 4 := w.type + 2
  s.laneOp64 0x006 w fun s _ l =>
    let a := intVal w.type (s.srcN w w.srcA l).toNat
    let b := intVal w.type (s.srcN w w.srcB l).toNat
    let c := intVal wide (s.srcW (immModeOf w.type) w w.srcC l).toNat
    (BitVec.ofNat 64 (intResult wide (w.sub.getLsbD 3) (a * b + c)), 0)

def execVmin (w : LaneWord) (s : State) : Host.Outcome State Fault Refusal := s.laneArith 0x00E w fun a b _ => if a ≤ b then a else b

def execVmax (w : LaneWord) (s : State) : Host.Outcome State Fault Refusal := s.laneArith 0x00F w fun a b _ => if a ≤ b then b else a

/-- VABSD writes its distance as an unsigned value of the type's width. -/
def execVabsd (w : LaneWord) (s : State) : Host.Outcome State Fault Refusal :=
  s.laneOp 0x010 w fun s _ l => ((intVal w.type (s.operand w w.srcA l) - intVal w.type (s.operand w w.srcB l)).natAbs, 0)

/-! ## Logic and shifts (R77) -/

/-- A bitwise word. -/
def State.laneLogic (s : State) (opc : Nat) (w : LaneWord) (f : Nat → Nat → Nat) : Host.Outcome State Fault Refusal :=
  s.laneOp opc w fun s _ l => (f (s.operand w w.srcA l) (s.operand w w.srcB l), 0)

def execVand (w : LaneWord) (s : State) : Host.Outcome State Fault Refusal := s.laneLogic 0x007 w fun a b => a &&& b

def execVor (w : LaneWord) (s : State) : Host.Outcome State Fault Refusal := s.laneLogic 0x008 w fun a b => a ||| b

def execVxor (w : LaneWord) (s : State) : Host.Outcome State Fault Refusal := s.laneLogic 0x009 w fun a b => a ^^^ b

/-- The n low result bits of a three-input truth table. -/
def lop3 (tbl : Nat) : (n : Nat) → (a b c : Nat) → Nat
  | 0, _, _, _ => 0
  | k + 1, a, b, c => (tbl >>> (4 * (a % 2) + 2 * (b % 2) + c % 2)) % 2 + 2 * lop3 tbl k (a / 2) (b / 2) (c / 2)

def execVlop3 (w : LaneWord) (s : State) : Host.Outcome State Fault Refusal :=
  s.laneOp 0x00A w fun s _ l =>
    (lop3 (w.imm.extractLsb' 0 8).toNat (fmtBits w.type.toNat) (s.operand w w.srcA l) (s.operand w w.srcB l) (s.operand w w.srcC l), 0)

/-- A shift word: the amount is a 32-bit operand of which bits [7:0] count (R74, R77). -/
def State.laneShift (s : State) (opc : Nat) (w : LaneWord) (f : Int → Nat → Int) : Host.Outcome State Fault Refusal :=
  s.laneOp opc w fun s _ l => (intResult w.type false (f (intVal w.type (s.operand w w.srcA l)) (shiftCount (s.srcN w w.srcB l))), 0)

def execVshl (w : LaneWord) (s : State) : Host.Outcome State Fault Refusal := s.laneShift 0x00B w fun a n => a * (2 ^ n : Nat)

def execVshr (w : LaneWord) (s : State) : Host.Outcome State Fault Refusal := s.laneShift 0x00C w fun a n => a / (2 ^ n : Nat)

def execVrot (w : LaneWord) (s : State) : Host.Outcome State Fault Refusal :=
  let bits := fmtBits w.type.toNat
  s.laneShift 0x00D w fun a n =>
    let v := wrap bits a
    ((v * 2 ^ (n % bits) % 2 ^ bits + v / 2 ^ (bits - n % bits) : Nat) : Int)

/-! ## Bit words (R78) -/

/-- Leading zero bits of a value of n bits. -/
def clzBits (n v : Nat) : Nat := if v = 0 then n else n - 1 - Nat.log2 v

def execVclz (w : LaneWord) (s : State) : Host.Outcome State Fault Refusal :=
  s.laneOp 0x011 w fun s _ l => (clzBits (fmtBits w.type.toNat) (s.operand w w.srcA l), 0)

def execVpopc (w : LaneWord) (s : State) : Host.Outcome State Fault Refusal :=
  s.laneOp 0x012 w fun s _ l => (popCount (fmtBits w.type.toNat) (s.operand w w.srcA l), 0)

def execVbrev (w : LaneWord) (s : State) : Host.Outcome State Fault Refusal :=
  s.laneOp 0x013 w fun s _ l => (revBits (fmtBits w.type.toNat) (s.operand w w.srcA l), 0)

def execVbfe (w : LaneWord) (s : State) : Host.Outcome State Fault Refusal :=
  s.laneOp32 0x014 w fun s _ l => (fieldGet (w.type == 1) (s.srcN w w.srcA l) (s.srcN w w.srcB l), 0)

def execVbfi (w : LaneWord) (s : State) : Host.Outcome State Fault Refusal :=
  s.laneOp32 0x015 w fun s _ l => (fieldPut (s.srcN w w.srcC l) (s.srcN w w.srcA l) (s.srcN w w.srcB l), 0)

/-! ## Select, move, compare, predicates (R79-R81) -/

def execVsel (w : LaneWord) (s : State) : Host.Outcome State Fault Refusal :=
  s.laneOp 0x016 w fun s _ l =>
    (s.operand w (if (s.grp.guardMask w.sub).getLsbD l.val then w.srcA else w.srcB) l, 0)

def execVmov (w : LaneWord) (s : State) : Host.Outcome State Fault Refusal := s.laneOp 0x018 w fun s _ l => (s.operand w w.srcA l, 0)

/-- The conditions of VCMP. -/
def intCond (cond : Nat) (a b : Int) : Bool :=
  match cond with
  | 0 => decide (a = b)
  | 1 => decide (a ≠ b)
  | 2 => decide (a < b)
  | 3 => decide (a ≤ b)
  | 4 => decide (b < a)
  | _ => decide (b ≤ a)

/-- The predicate that DST[72:70] names. -/
def dstPred (w : LaneWord) : Nat := (w.dst.extractLsb' 0 3).toNat

def execVcmp (w : LaneWord) (s : State) : Host.Outcome State Fault Refusal :=
  s.laneOpPred 0x017 w (dstPred w) fun s l =>
    (intCond w.sub.toNat (intVal w.type (s.operand w w.srcA l)) (intVal w.type (s.operand w w.srcB l)), 0)

def execVpset (w : LaneWord) (s : State) : Host.Outcome State Fault Refusal :=
  s.laneOpPred 0x019 w (dstPred w) fun s l =>
    let p (lo : Nat) : Nat := if (s.grp.pred (w.imm.extractLsb' lo 3).toNat).getLsbD l.val then 1 else 0
    (w.imm.getLsbD (4 * p 8 + 2 * p 12 + p 16), 0)

end Sys2Proof.Machine
end

