-- ==== Sys2Proof/Machine/Tile.lean ====
section
/-! DEFINITION. Tile registers by logical coordinates (spec/08 R159, spec/14 R271). -/

namespace Sys2Proof.Machine

/-- The storage offset of a byte at a row and a byte column (spec/14 R271). -/
def TileShape.offset (t : TileShape) (row col : Nat) : Nat :=
  if t.layout = 0 then row * t.rb + col
  else
    let cb := min t.rb (4 * fmtBits t.fmt)
    let j := col / cb
    let w := min cb (t.rb - j * cb)
    j * t.rows * cb + row * w + (col - j * cb)

/-- n bytes of a row from a column. -/
def Tile.bytesAt (t : Tile) (row col n : Nat) : List Byte := (List.range n).map fun i => Memory.read t.bytes (t.shape.offset row (col + i))

/-- Writes bytes of a row from a column; a word wholly written loses its poison mark. -/
def Tile.put (t : Tile) (row col : Nat) (b : List Byte) : Tile :=
  let offs := (List.range b.length).map fun i => t.shape.offset row (col + i)
  { t with bytes := (offs.zip b).foldl (fun m x => Memory.write m x.1 x.2) t.bytes
           poison := t.poison.filter fun w => !((List.range 4).all fun i => offs.contains (w + i)) }

/-- True where one of n bytes of a row lies in a poisoned word. -/
def Tile.poisonedAt (t : Tile) (row col n : Nat) : Bool := (List.range n).any fun i => poisoned t.poison (t.shape.offset row (col + i)) 1

def Team.modTile (t : Team) (k : Nat) (f : Tile → Tile) : Team := if h : k < 32 then { t with tiles := t.tiles.set k (f t.tiles[k]) } else t

def Team.tile (t : Team) (k : Nat) : Tile := if h : k < 32 then t.tiles[k] else Tile.zero

end Sys2Proof.Machine
end

