-- ==== Sys2Proof/Machine/LaneScratch.lean ====
section
/-! DEFINITION. Lane scratchpad, buffer and tile access, hoist queues and barriers (spec/08 R151-R163). -/

namespace Sys2Proof.Machine

/-! ## Sizes, data and waves -/

/-- Bytes of an access of a type (R153). -/
def accessBytes (t : BitVec 4) : Nat :=
  match t.toNat with
  | 6 | 7 => 1
  | 4 | 5 => 2
  | 2 => 8
  | 15 => 16
  | _ => 4

/-- The data that a store of a type takes from a source. -/
def State.storeData (s : State) (w : LaneWord) (f : BitVec 10) (l : Fin 64) : List Byte :=
  let n := accessBytes w.type
  toBytes n (if n = 16 then (s.grp.srcQuad s.gix f l).toNat else if n = 8 then (s.srcW .unsigned w f l).toNat else (s.srcN w f l).toNat)

/-- Writes loaded numbers, one per lane, to the destination of a load (R153). -/
def Group.loadResult (g : Group) (w : LaneWord) (e : Mask) (v : Fin 64 → Nat) : Group :=
  match accessBytes w.type with
  | 16 => g.result128 w e fun l => BitVec.ofNat 128 (v l)
  | 8 => g.result64 w e fun l => BitVec.ofNat 64 (v l)
  | _ => g.result32 w e fun l => BitVec.ofNat 32 (fmtExtend w.type.toNat (v l))

/-- The waves that serve an access of n bytes at each address (R151): the most distinct words in one bank. -/
def waves (n : Nat) (addrs : List Nat) : Nat :=
  let words := (addrs.flatMap fun a => (List.range ((a % 4 + n + 3) / 4)).map fun i => a / 4 + i).eraseDups
  max 1 ((List.range 96).foldl (fun m b => max m (words.filter fun w => w % 96 == b).length) 0)

/-- Counts the waves of a scratchpad word beyond the first (spec/17 R349). -/
def State.countWaves (s : State) (n : Nat) (addrs : List Nat) : State := s.count 0x06 (waves n addrs - 1)

/-- The lowest lane of a list that meets a condition, with its address. -/
def firstLane (xs : List (Fin 64 × Nat)) (p : Nat → Bool) : Option (Fin 64 × Nat) := xs.find? fun x => p x.2

/-- The first check that an access by lanes fails, in the order of R153, with its lowest lane: alignment, range (left out for a buffer, whose own check
covers it), pool entries. -/
def Team.laneSpadFault (t : Team) (n : Nat) (xs : List (Fin 64 × Nat)) : Option (Cause × Fin 64 × Nat) :=
  match firstLane xs fun a => a % n != 0 with
  | some x => some (0x141, x)
  | none =>
    match firstLane xs fun a => decide (t.spadSize < a + n) with
    | some x => some (0x140, x)
    | none => (firstLane xs fun a => t.poolTouched a n).map fun x => (0x14E, x)

/-- The race checks of an access by lanes. -/
def State.laneRaces (s : State) (n : Nat) (store : Bool) (xs : List (Fin 64 × Nat)) : State :=
  xs.foldl (fun s x => s.raceCheck x.2 n store s.blockSpc s.lpc (BitVec.ofNat 8 x.1.val)) s

/-- A load of n bytes by lanes at checked addresses: a poisoned word traps, else the values arrive (R153, cause 0x101), each 4-byte word as it stands or as
it stood before a store that need not be seen yet (R154).
Rests on notes/assumptions 110 (DEDUCED). -/
def State.laneLoad (s : State) (opc : Nat) (w : LaneWord) (e : Mask) (addr : Fin 64 → Nat) : Host.Outcome State Fault Refusal :=
  let n := accessBytes w.type
  let xs := (maskLanes e).map fun l => (l, addr l)
  match firstLane xs fun a => poisoned s.team.spadPoison a n with
  | some (l, a) => s.laneTrap 0x101 (some l) (BitVec.ofNat 64 a)
  | none =>
    ((((s.countWaves n (xs.map fun x => x.2)).laneRaces n false xs).noteLoad true (xs.map fun x => (x.2, n))).modGrp fun g =>
      g.loadResult w e fun l => s.spadLoad true (addr l) n).laneDone opc w []

/-- A store of n bytes by lanes at checked addresses: the highest lane's byte lands (R153); other streams may still read what stood there before, word by
word (R154).
Rests on notes/assumptions 110 (DEDUCED). -/
def State.laneStore (s : State) (opc : Nat) (w : LaneWord) (e : Mask) (addr : Fin 64 → Nat) (data : BitVec 10) :
    Host.Outcome State Fault Refusal :=
  let n := accessBytes w.type
  let xs := (maskLanes e).map fun l => (l, addr l)
  (((s.countWaves n (xs.map fun x => x.2)).laneRaces n true xs).storeWords true (waves n (xs.map fun x => x.2) - 1)
    (xs.map fun x => (x.2, s.storeData w data x.1))).laneDone opc w []

/-! ## LDS and STS -/

/-- The address of a lane. -/
def State.laneAddr (s : State) (w : LaneWord) (l : Fin 64) : Nat := (s.srcN w w.srcA l + w.imm).toNat

/-- LDS or STS: the checks, then the access.
Rests on notes/assumptions 98 (DESIGN CHOICE). -/
def State.laneSpad (s : State) (w : LaneWord) (k : State → Mask → (Fin 64 → Nat) → Host.Outcome State Fault Refusal) :
    Host.Outcome State Fault Refusal :=
  s.laneWord w fun s1 e =>
    match s1.team.laneSpadFault (accessBytes w.type) ((maskLanes e).map fun l => (l, s1.laneAddr w l)) with
    | some (c, l, a) => s1.laneTrap c (some l) (BitVec.ofNat 64 a)
    | none => k s1 e (s1.laneAddr w)

def execLds (w : LaneWord) (s : State) : Host.Outcome State Fault Refusal := s.laneSpad w fun s e a => s.laneLoad 0x180 w e a

def execSts (w : LaneWord) (s : State) : Host.Outcome State Fault Refusal := s.laneSpad w fun s e a => s.laneStore 0x181 w e a w.srcB

/-! ## LDSH and STSH (R156, R157) -/

/-- BASE and LEN of a valid handle. -/
def Team.buffer (t : Team) (h : Nat) : Option (Nat × Nat) :=
  if h < 64 ∧ 8 * h + 8 ≤ t.spadSize then
    let base := t.spadRead (8 * h) 4
    let len := t.spadRead (8 * h + 4) 4
    if base % 16 = 0 ∧ len % 16 = 0 ∧ len ≠ 0 ∧ base + len ≤ t.spadSize then some (base, len) else none
  else none

/-- The 8-byte entry of a handle holds an uncorrectable error (spec/16 R318 cause 0x101). -/
def Team.entryPoisoned (t : Team) (h : Nat) : Bool := decide (h < 64 ∧ 8 * h + 8 ≤ t.spadSize) && poisoned t.spadPoison (8 * h) 8

/-- The offset of a lane within its buffer. -/
def State.bufferOffset (s : State) (w : LaneWord) (l : Fin 64) : Nat := (s.srcN w w.srcB l + w.imm).toNat

/-- The address of a lane's access through its handle. -/
def State.bufferAddr (s : State) (w : LaneWord) (l : Fin 64) : Nat :=
  match s.team.buffer (s.srcN w w.srcA l).toNat with
  | some (b, _) => b + s.bufferOffset w l
  | none => 0

/-- The first check that an access through handles fails: an uncorrectable error in an entry that it reads, an invalid handle, a filling buffer, alignment,
the buffer's end, pool entries (notes/assumptions/22.md).
Rests on notes/assumptions 22 (DESIGN CHOICE). -/
def State.bufferFault (s : State) (w : LaneWord) (e : Mask) : Option (Cause × Fin 64 × Nat) :=
  let n := accessBytes w.type
  let ls := maskLanes e
  let h (l : Fin 64) : Nat := (s.srcN w w.srcA l).toNat
  match ls.find? fun l => s.team.entryPoisoned (h l) with
  | some l => some (0x101, l, 8 * h l)
  | none =>
  match ls.find? fun l => (s.team.buffer (h l)).isNone with
  | some l => some (0x142, l, 0)
  | none =>
    match ls.find? fun l => s.team.filling.getLsbD (h l) with
    | some l => some (0x145, l, s.bufferAddr w l)
    | none =>
      match ls.find? fun l => s.bufferAddr w l % n != 0 with
      | some l => some (0x141, l, s.bufferAddr w l)
      | none =>
        match ls.find? fun l => (match s.team.buffer (h l) with | some (_, len) => decide (len < s.bufferOffset w l + n) | none => true) with
        | some l => some (0x142, l, s.bufferAddr w l)
        | none => (ls.find? fun l => s.team.poolTouched (s.bufferAddr w l) n).map fun l => (0x14E, l, s.bufferAddr w l)

def State.laneBuffer (s : State) (w : LaneWord) (k : State → Mask → (Fin 64 → Nat) → Host.Outcome State Fault Refusal) :
    Host.Outcome State Fault Refusal :=
  s.laneWord w fun s1 e =>
    match s1.bufferFault w e with
    | some (c, l, a) => s1.laneTrap c (some l) (BitVec.ofNat 64 a)
    | none => k s1 e (s1.bufferAddr w)

def execLdsh (w : LaneWord) (s : State) : Host.Outcome State Fault Refusal := s.laneBuffer w fun s e a => s.laneLoad 0x182 w e a

def execStsh (w : LaneWord) (s : State) : Host.Outcome State Fault Refusal := s.laneBuffer w fun s e a => s.laneStore 0x183 w e a w.srcC

/-! ## LDTR and STTR (R160) -/

def tileNo (w : LaneWord) : Nat := (w.imm.extractLsb' 0 5).toNat

def State.tileRow (s : State) (w : LaneWord) (l : Fin 64) : Nat := (s.srcN w w.srcA l).toNat
def State.tileCol (s : State) (w : LaneWord) (l : Fin 64) : Nat := (s.srcN w w.srcB l).toNat

/-- The first check of R160 that fails, with the lane and ADDR of its record.
Rests on notes/assumptions 98 (DESIGN CHOICE). -/
def State.tileFault (s : State) (w : LaneWord) (e : Mask) : Option (Cause × Fin 64 × DWord) :=
  let n := accessBytes w.type
  let ls := maskLanes e
  let at_ (l : Fin 64) : DWord := BitVec.ofNat 64 (s.tileRow w l * 2 ^ 32 + s.tileCol w l)
  let sh := (s.team.tile (tileNo w)).shape
  if ls.isEmpty then none
  else if s.team.obj.tiles ≤ tileNo w then some (0x143, lowLane e, BitVec.ofNat 64 (tileNo w))
  else
    match ls.find? fun l => s.tileCol w l % n != 0 with
    | some l => some (0x141, l, at_ l)
    | none => (ls.find? fun l => decide (sh.rows ≤ s.tileRow w l) || decide (sh.rb < s.tileCol w l + n)).map fun l => (0x143, l, at_ l)

def execLdtr (w : LaneWord) (s : State) : Host.Outcome State Fault Refusal :=
  s.laneWord w fun s1 e =>
    let n := accessBytes w.type
    let t := s1.team.tile (tileNo w)
    match s1.tileFault w e with
    | some (c, l, a) => s1.laneTrap c (some l) a
    | none =>
      match (maskLanes e).find? fun l => t.poisonedAt (s1.tileRow w l) (s1.tileCol w l) n with
      | some l => s1.laneTrap 0x102 (some l) (BitVec.ofNat 64 (s1.tileRow w l * 2 ^ 32 + s1.tileCol w l))
      | none => (s1.modGrp fun g => g.loadResult w e fun l => ofBytes (t.bytesAt (s1.tileRow w l) (s1.tileCol w l) n)).laneDone 0x184 w []

def execSttr (w : LaneWord) (s : State) : Host.Outcome State Fault Refusal :=
  s.laneWord w fun s1 e =>
    match s1.tileFault w e with
    | some (c, l, a) => s1.laneTrap c (some l) a
    | none =>
      (s1.modTeam fun t => (maskLanes e).foldl
        (fun t l => t.modTile (tileNo w) fun x => x.put (s1.tileRow w l) (s1.tileCol w l) (s1.storeData w w.srcC l)) t).laneDone 0x185 w []

/-! ## Hoist queues (R161, R162) -/

def queueNo (w : LaneWord) : Nat := (w.imm.extractLsb' 0 4).toNat

def Team.hoist (t : Team) (q : Nat) : Hoist := if h : q < 16 then t.hoists[q] else Hoist.zero

def Team.modHoist (t : Team) (q : Nat) (f : Hoist → Hoist) : Team := if h : q < 16 then { t with hoists := t.hoists.set q (f t.hoists[q]) } else t

/-- Slots that are neither held nor reserved by a copy command (R158). -/
def Hoist.freeSlots (h : Hoist) : Nat := h.cap - h.items.length - h.resv

def Hoist.canPush (h : Hoist) (k : Nat) : Bool := decide (k ≤ h.freeSlots ∧ k ≤ h.allow)
def Hoist.canPop (h : Hoist) (k : Nat) : Bool := decide (k ≤ h.items.length)

/-- Appends handles, each taking a unit of the allowance. -/
def Hoist.push (h : Hoist) (v : List Word) : Hoist := { h with items := h.items ++ v, allow := h.allow - v.length }
def Hoist.pop (h : Hoist) (k : Nat) : Hoist := { h with items := h.items.drop k }

/-- Whether a waiting word of a split is the first of its kind: pushes and pops wait in two lines (notes/assumptions/23.md).
Rests on notes/assumptions 23 (DESIGN CHOICE). -/
def Hoist.turn (h : Hoist) (me : GrpIx × SplitIx × Bool) : Bool :=
  match h.waiters.find? fun x => x.2.2.1 == me.2.2 with
  | none => true
  | some x => (x.1, x.2.1, x.2.2.1) == me

/-- Joins the line, with the number of handles that the word needs. -/
def Hoist.join (h : Hoist) (me : GrpIx × SplitIx × Bool) (k : Nat) : Hoist :=
  if h.waiters.any fun x => (x.1, x.2.1, x.2.2.1) == me then h else { h with waiters := h.waiters ++ [(me.1, me.2.1, me.2.2, k)] }
def Hoist.leave (h : Hoist) (me : GrpIx × SplitIx × Bool) : Hoist := { h with waiters := h.waiters.filter fun x => (x.1, x.2.1, x.2.2.1) != me }

/-- The number of lanes before lane l in a mask. -/
def rankIn (e : Mask) (l : Fin 64) : Nat := popCount l.val e.toNat

/-- The race epoch rises by 1 (R165). -/
def Team.nextEpoch (t : Team) : Team := { t with epoch := t.epoch + 1 }

/-- Begins a queue word: nothing without an executing lane; the checks of the queue and of its capacity (R161, R162).
Rests on notes/assumptions 98 (DESIGN CHOICE). -/
def State.queueWord (s : State) (opc : Nat) (w : LaneWord) (k : State → Mask → Hoist → Nat → Host.Outcome State Fault Refusal) :
    Host.Outcome State Fault Refusal :=
  s.laneWord w fun s1 e =>
    let n := popCount 64 e.toNat
    if e = 0 then s1.laneDone opc w []
    else if s1.team.obj.hoists ≤ queueNo w then s1.laneTrap 0x150 (some (lowLane e)) 0
    else if (s1.team.hoist (queueNo w)).cap < n then s1.laneTrap 0x151 (some (lowLane e)) 0
    else k s1 e (s1.team.hoist (queueNo w)) n

/-- The push of a word's handles, lanes ascending; it is a release (R161). -/
def State.doPush (s : State) (w : LaneWord) (e : Mask) : State :=
  s.modTeam fun t => (t.fencePast (s.gix, true) false true).modHoist (queueNo w) fun h => h.push ((maskLanes e).map fun l => s.srcN w w.srcA l)

/-- The pop of a word's handles into its lanes, ascending; it is an acquire (R161). -/
def State.doPop (s : State) (w : LaneWord) (e : Mask) : State :=
  let items := (s.team.hoist (queueNo w)).items
  (s.modTeam fun t => ((t.fencePast (s.gix, true) true false).modHoist (queueNo w) fun h => h.pop (popCount 64 e.toNat)).nextEpoch).modGrp fun g =>
    g.result32 w e fun l => items.getD (rankIn e l) 0

/-- A queue word that waits stands in line, and otherwise has changed nothing (R162).
Rests on notes/assumptions 23 (DESIGN CHOICE). -/
def State.queueWait (s : State) (w : LaneWord) (push : Bool) (k : Nat) : Host.Outcome State Fault Refusal :=
  (s.backToHead.modTeam fun t => t.modHoist (queueNo w) fun h => h.join (s.gix, s.spl, push) k).wait

def execQpush (w : LaneWord) (s : State) : Host.Outcome State Fault Refusal :=
  s.queueWord 0x188 w fun s1 e h n =>
    if h.turn (s1.gix, s1.spl, true) && h.canPush n then
      ((s1.doPush w e).modTeam fun t => t.modHoist (queueNo w) fun h => h.leave (s1.gix, s1.spl, true)).laneDone 0x188 w []
    else s1.queueWait w true n

def execQpop (w : LaneWord) (s : State) : Host.Outcome State Fault Refusal :=
  s.queueWord 0x189 w fun s1 e h n =>
    if h.turn (s1.gix, s1.spl, false) && h.canPop n then
      ((s1.doPop w e).modTeam fun t => t.modHoist (queueNo w) fun h => h.leave (s1.gix, s1.spl, false)).laneDone 0x189 w []
    else s1.queueWait w false n

/-- The predicate that QTRY writes. -/
def tryPred (w : LaneWord) : Nat := (w.imm.extractLsb' 8 3).toNat

def State.tryResult (s : State) (w : LaneWord) (e : Mask) (ok : Bool) : Host.Outcome State Fault Refusal :=
  (s.modGrp fun g => g.setPred (tryPred w) e (if ok then BitVec.allOnes 64 else 0)).laneDone 0x18A w []

def execQtryPop (w : LaneWord) (s : State) : Host.Outcome State Fault Refusal :=
  s.queueWord 0x18A w fun s1 e h n => if h.canPop n then (s1.doPop w e).tryResult w e true else s1.tryResult w e false

def execQtryPush (w : LaneWord) (s : State) : Host.Outcome State Fault Refusal :=
  s.queueWord 0x18A w fun s1 e h n => if h.canPush n then (s1.doPush w e).tryResult w e true else s1.tryResult w e false

def execQallow (w : LaneWord) (s : State) : Host.Outcome State Fault Refusal :=
  s.queueWord 0x18B w fun s1 e h _ =>
    let v := (s1.srcN w w.srcA (lowLane e)).toNat
    if 65535 < h.allow + v then s1.laneTrap 0x152 (some (lowLane e)) 0
    else (s1.modTeam fun t => t.modHoist (queueNo w) fun h => { h with allow := h.allow + v }).laneDone 0x18B w []

/-! ## Barriers (R163) -/

def barNo (w : LaneWord) : Nat := (w.imm.extractLsb' 0 4).toNat

def Team.barrier (t : Team) (b : Nat) : Barrier := if h : b < 16 then t.bars[b] else Barrier.zero

def Team.setBarrier (t : Team) (b : Nat) (x : Barrier) : Team := if h : b < 16 then { t with bars := t.bars.set b x } else t

/-- Releases the splits of a group that wait at a barrier: each stands at the word after its BAR already. -/
def Group.releaseBar (b : Nat) (g : Group) : Group :=
  { g with splits := mapAll (fun p => p.map fun p =>
      match p.atBar with
      | some (c, _) => if c = b then { p with atBar := none } else p
      | none => p) g.splits }

/-- The groups, as lane streams, of which a split waits at a barrier. -/
def Team.atBarrier (t : Team) (b : Nat) : List (GrpIx × Bool) :=
  ((List.finRange 16).filter fun g => t.groups[g].splits.any fun p => match p with | some p => (match p.atBar with | some (c, _) => c == b | none => false) | none => false).map
    fun g => (g, true)

/-- The completion of a barrier: its waiting splits go on and see each other's accesses, its generation and the race epoch rise. -/
def Team.completeBar (t : Team) (b : Nat) : Team :=
  (({ t.joinPast (t.atBarrier b) (t.atBarrier b) with groups := mapAll (Group.releaseBar b) t.groups } : Team).setBarrier b { count := 0, n := 0, gen := (t.barrier b).gen + 1 }).nextEpoch

/-- BAR: an arrival of the split, which then waits, standing at the word after (R163). -/
def execBar (w : LaneWord) (s : State) : Host.Outcome State Fault Refusal :=
  s.laneWord w fun s1 e =>
    if e = 0 then s1.laneDone 0x190 w []
    else
      let b := barNo w
      let f := (w.imm.extractLsb' 8 5).toNat
      let n := if f = 0 then s1.team.obj.groups else f
      let x := s1.team.barrier b
      if s1.team.obj.bars ≤ b ∨ 17 ≤ f ∨ (x.count ≠ 0 ∧ x.n ≠ n) then s1.laneTrap 0x153 (some (lowLane e)) 0
      else
        let s2 := s1.modGrp fun g =>
          { g with splits := g.splits.set s1.spl (g.splits[s1.spl].map fun p => { p with lpc := p.lpc + 1, atBar := some (b, x.gen) }) }
        let s3 := s2.modTeam fun t => t.setBarrier b { x with count := x.count + 1, n := n }
        .next ((if n ≤ x.count + 1 then s3.modTeam fun t => t.completeBar b else s3).laneEnd w [] [] none)

end Sys2Proof.Machine
end

