-- ==== Sys2Proof/Machine/Engine.lean ====
section
/-! DEFINITION. Commands of the Halyard engine: the fields of a descriptor, shape entries, places and addresses of elements, the end of a command and
of its batch (spec/10 R191-R209, spec/11 R219-R229). -/

namespace Sys2Proof.Machine

/-! ## Descriptor fields (R193-R195) -/

/-- Bits [lo+len-1:lo] of descriptor word k. -/
def dField (w : Vector Word 8) (k : Fin 8) (lo len : Nat) : Nat := bitsOf w[k] lo len

def dPubq (w : Vector Word 8) : Nat := dField w 0 24 4
def dPub (w : Vector Word 8) : Bool := dField w 0 23 1 == 1
def dCrc (w : Vector Word 8) : Bool := dField w 0 22 1 == 1
def dHint (w : Vector Word 8) : Nat := dField w 0 20 2
def dRctr (w : Vector Word 8) : Nat := dField w 0 16 4
def dRcen (w : Vector Word 8) : Bool := dField w 0 15 1 == 1
def dRcz (w : Vector Word 8) : Bool := dField w 0 14 1 == 1
def dDk (w : Vector Word 8) : Nat := dField w 0 12 2
def dDir (w : Vector Word 8) : Nat := dField w 0 11 1
def dXf (w : Vector Word 8) : Nat := dField w 0 8 3
def dOrd (w : Vector Word 8) : Bool := dField w 0 7 1 == 1
def dPad (w : Vector Word 8) : Nat := dField w 2 16 12
def dOp (w : Vector Word 8) : Nat := dField w 2 12 4
def dSat (w : Vector Word 8) : Bool := dField w 2 11 1 == 1
def dRnd (w : Vector Word 8) : Nat := dField w 2 8 3
/-- N0. -/
def dN0 (w : Vector Word 8) : Nat := dField w 6 16 16

/-- A word that is posted with the descriptor of a gather (R195, R219). -/
def CmdOp.listed (o : CmdOp) : Bool := o == .cgth || o == .csct

/-- A word that packs or unpacks (R225). -/
def CmdOp.packed (o : CmdOp) : Bool := o == .cpack || o == .cunpk

/-- The lane memory atomics (spec/13 R257). -/
def CmdOp.atomic (o : CmdOp) : Bool := o == .atm || o == .adcas || o == .axmv || o == .ared

/-- Rows of the box: dimensions 1-4 of CTEN and CFILL, COUNT of a gather or scatter, N1 of a packed vector. -/
def dRows (o : CmdOp) (w : Vector Word 8) : Nat :=
  if o.listed || o.packed then dField w 7 0 24 else dField w 7 0 8 * dField w 7 8 8 * dField w 7 16 8 * dField w 7 24 8

/-- The local format (R194, R225); CFILL writes in the shape's. -/
def dFmt (o : CmdOp) (w : Vector Word 8) (e : Shape) : Nat :=
  if o == .cfill then e.fmt else if o.packed then dField w 2 0 5 else if dField w 2 0 5 = 0x1F then e.fmt else dField w 2 0 5

/-- Bytes of a local row (R199). -/
def dRowBytes (o : CmdOp) (w : Vector Word 8) (e : Shape) : Nat := (dN0 w * fmtBits (dFmt o w e) + 7) / 8

/-- Bytes of an index of a list (R195). -/
def dIndexBytes (w : Vector Word 8) : Nat := if dField w 7 24 1 = 1 then 8 else 4

/-- Units of a packed stream, the bytes of a unit, and the bytes of the mask (R226). -/
def dUnits (w : Vector Word 8) : Nat := if dField w 4 0 1 = 1 then dField w 7 0 24 else dN0 w * dField w 7 0 24
def dUnitBytes (w : Vector Word 8) : Nat :=
  (if dField w 4 0 1 = 1 then dN0 w else 1) * (fmtBits (dField w 2 0 5) / 8)
def dMaskBytes (w : Vector Word 8) : Nat := (dUnits w + 31) / 32 * 4
/-- Dense elements of a unit. -/
def dUnitLen (w : Vector Word 8) : Nat := if dField w 4 0 1 = 1 then dN0 w else 1

/-! ## Shape entries (R196) -/

/-- The entry that 64 bytes hold. -/
def Shape.ofBytes (b : List Byte) : Shape :=
  let f (o n : Nat) : Nat := Machine.ofBytes ((b.drop o).take n)
  let rank := f 0x09 1
  { base := BitVec.ofNat 64 (f 0 8), fmt := f 0x08 1, rank := rank, rights := BitVec.ofNat 4 (f 0x0A 1), fill := f 0x0B 1 % 2 == 1, ctx := f 0x0C 2,
    valid := f 0x0E 1 % 2 == 1, ext := (List.range 5).map fun d => if d < rank then f (0x10 + 4 * d) 4 else 1,
    str := (List.range 4).map fun d => if d + 1 < rank then signed 48 (f (0x24 + 6 * d) 6) else 0 }

/-- Entry idx of a context's shape table. -/
def State.shapeEntry (s : State) (c : CtxIx) (idx : Nat) : Shape := Shape.ofBytes (Memory.readBytes s.mem ((s.ctx c).field 8 8 + 64 * idx) 64)

/-- The bit offset of an element (R198). -/
def Shape.bitoff (e : Shape) (cs : List Nat) : Int :=
  (fmtBits e.fmt : Int) * ((cs.headD 0 : Nat) + ((e.str.zip (cs.drop 1)).map fun x => x.1 * (x.2 : Int)).sum)

def Shape.inBounds (e : Shape) (cs : List Nat) : Bool := (cs.zip e.ext).all fun x => decide (x.1 < x.2)

/-- The virtual address of an element, and its nibble. -/
def Shape.addr (e : Shape) (cs : List Nat) : Nat := wrap 64 ((e.base.toNat : Int) + e.bitoff cs / 8)
def Shape.nibble (e : Shape) (cs : List Nat) : Bool := e.bitoff cs / 4 % 2 == 1

/-! ## A command's elements -/

/-- Elements per row and rows, as the box gives them (R195). -/
def Cmd.n0 (c : Cmd) : Nat := dN0 c.w
def Cmd.rowCount (c : Cmd) : Nat := if dN0 c.w = 0 then 0 else dRows c.op c.w
def Cmd.lfmt (c : Cmd) : Nat := dFmt c.op c.w c.shape

/-- How many steps of work a command has: elements, units with the finishing step of a CPACK or the opening step of a CUNPK, lanes, or writes. -/
def Cmd.total (c : Cmd) : Nat :=
  if c.op.packed then (if dUnits c.w = 0 ∨ dN0 c.w = 0 then 0 else dUnits c.w + 1)
  else if c.op.atomic then c.lanes.length
  else if c.op == .spill then c.writes.length
  else c.n0 * c.rowCount

/-- The element index that a stop before step `pos` reports (R198, R227, R228, spec/13 R259). -/
def Cmd.elemAt (c : Cmd) (pos : Nat) : Nat :=
  if c.op == .cpack then pos * dUnitLen c.w
  else if c.op == .cunpk then (pos - 1) * dUnitLen c.w
  else if c.op.atomic then (match c.lanes[pos]? with | some l => l.lane | none => 64)
  else pos

/-- The lane that a record of a stop names. -/
def Cmd.laneAt (c : Cmd) (pos : Nat) : Byte := if c.op.atomic then BitVec.ofNat 8 (c.elemAt pos) else 0xFF

/-- The shape coordinate of element x (R198); `index` is the list index of its row. -/
def Cmd.coords (c : Cmd) (x : Nat) : List Nat :=
  let i0 := x % c.n0
  let r := x / c.n0
  let f (k : Fin 8) (lo : Nat) : Nat := dField c.w k lo 16
  let o0 := dField c.w 3 0 32
  if c.op.listed then [o0 + i0, c.index, f 5 0, f 5 16, f 6 0]
  else
    let n (lo : Nat) : Nat := dField c.w 7 lo 8
    [o0 + i0, dField c.w 4 0 32 + r % n 0, f 5 0 + r / n 0 % n 8, f 5 16 + r / (n 0 * n 8) % n 16, f 6 0 + r / (n 0 * n 8 * n 16) % n 24]

/-- Where an element lies on the local side: a scratchpad address, or a row and a byte column of a tile register. -/
inductive Place where
  | spad (a : Nat)
  | tile (row col : Nat)
  deriving DecidableEq, Repr

/-- The place of element x (R199) and, for 4-bit formats, its nibble. -/
def Cmd.place (c : Cmd) (x : Nat) : Place × Bool :=
  let i0 := x % c.n0
  let r := x / c.n0
  let b := fmtBits c.lfmt
  let rb := dRowBytes c.op c.w c.shape
  let tiled := dDk c.w == 1
  let p := match dXf c.w with
    | 1 => if tiled then Place.tile i0 (r * (b / 8)) else .spad (c.local0 + i0 * (c.rowCount * (b / 8)) + r * (b / 8))
    | 2 => .spad (c.local0 + r * (16 * dPad c.w) + i0 * b / 8)
    | _ => if tiled then .tile r (i0 * b / 8) else .spad (c.local0 + r * rb + i0 * b / 8)
  (p, i0 * b / 4 % 2 == 1)

/-- The tile register that a command names. -/
def Cmd.tileNo (c : Cmd) : Nat := dField c.w 1 0 5

/-! ## Local storage -/

/-- n local bytes and whether one is poisoned. -/
def Team.localRead (t : Team) (tile : Nat) (p : Place) (n : Nat) : List Byte × Bool :=
  match p with
  | .spad a => (Memory.readBytes t.spad a n, poisoned t.spadPoison a n)
  | .tile r c => ((t.tile tile).bytesAt r c n, (t.tile tile).poisonedAt r c n)

/-- Marks the words that a poisoned landing touches. -/
def Tile.mark (x : Tile) (row col n : Nat) : Tile :=
  { x with poison := (List.range n).foldl (fun m i => poisonMark m (x.shape.offset row (col + i)) 1) x.poison }

/-- Lands bytes in local storage (R199); landed scratchpad bytes take the race shadow (spec/08 R165). -/
def Team.land (t : Team) (gix : GrpIx) (tile : Nat) (p : Place) (b : List Byte) (pois : Bool) : Team :=
  match p with
  | .spad a =>
    let t1 := (t.spadWrite a b).shadowLand gix a b.length
    if pois then { t1 with spadPoison := poisonMark t1.spadPoison a b.length } else t1
  | .tile r c => t.modTile tile fun x => let y := x.put r c b; if pois then y.mark r c b.length else y

/-! ## Batches (R204-R207) -/

/-- The STATE code of a status (R206). -/
def CmdStat.code (x : CmdStat) : Nat :=
  match x with
  | .running => 0 | .ok => 1 | .poisoned => 2 | .suspended => 3 | .overrun => 4 | .cancelled => 5 | .faultCancelled => 6 | .error => 7

def CmdRec.ended (r : CmdRec) : Bool := r.stat != .running && r.stat != .suspended

def Batch.complete (b : Batch) : Bool := b.cmds.all fun r => r.ended

/-- Changes the record of a command in the open batch and in the closed ones. -/
def Group.modRec (g : Group) (c : Cmd) (f : CmdRec → CmdRec) : Group :=
  let h (l : List CmdRec) : List CmdRec := l.map fun r => if r.seq == c.seq && r.sub == c.sub then f r else r
  { g with openB := h g.openB, batches := g.batches.map fun b => { b with cmds := h b.cmds } }

def Team.modGrp (t : Team) (i : GrpIx) (f : Group → Group) : Team := { t with groups := t.groups.set i (f t.groups[i]) }

/-- Replaces a command by what it has become. -/
def Team.putCmd (t : Team) (x : Cmd) : Team :=
  { t with cmds := t.cmds.map fun c => if c.gix == x.gix && c.seq == x.seq && c.sub == x.sub then x else c }

/-- The first command of a group under a sequence number that meets p. -/
def Team.findCmd (t : Team) (i : GrpIx) (seq : Word) (p : Cmd → Bool) : Option Cmd := t.cmds.find? fun c => c.gix == i && c.seq == seq && p c

/-- The handle of a command whose local side is a tile buffer, its destination or its source: R192 sets the filling bit of both.
Rests on notes/assumptions 111 (DEDUCED). -/
def Cmd.handle (c : Cmd) : Option Nat := if (c.op == .cten || c.op.listed || c.op.packed) && dDk c.w == 2 then some (dField c.w 1 0 6) else none

/-- The same command. -/
def Cmd.same (c x : Cmd) : Bool := c.gix == x.gix && c.seq == x.seq && c.sub == x.sub

/-- Takes a command's hold off a handle: its buffer fills no longer unless another command of the team still holds it (spec/08 R158). -/
def Team.clearFilling (t : Team) (h : Nat) (c : Cmd) : Team :=
  if t.cmds.any fun x => !x.same c && x.handle == some h && (x.live || x.stat == .ok || x.stat == .poisoned) then t
  else { t with filling := t.filling &&& ~~~((1 : BitVec 64) <<< h) }

/-- A completed batch lets go of a command: its buffer fills no longer, and an ok or poisoned one pushes its handle into the slot it reserved
(R207, spec/08 R158).
Rests on notes/assumptions 36 (DESIGN CHOICE). -/
def Team.publish (t : Team) (c : Cmd) : Team :=
  match c.handle with
  | none => t
  | some h =>
    if c.stat == .ok || c.stat == .poisoned then
      let t1 := t.clearFilling h c
      if dPub c.w then t1.modHoist (dPubq c.w) fun q => { q with items := q.items ++ [BitVec.ofNat 32 h], resv := q.resv - 1 } else t1
    else t

/-- A command that ends otherwise than ok or poisoned clears its filling bit and gives its slot and its allowance back (spec/08 R158).
Rests on notes/assumptions 36 (DESIGN CHOICE), 111 (DEDUCED). -/
def Team.unpublish (t : Team) (c : Cmd) : Team :=
  match c.handle with
  | none => t
  | some h =>
    let t1 := t.clearFilling h c
    if dPub c.w then t1.modHoist (dPubq c.w) fun q => { q with resv := q.resv - 1, allow := q.allow + 1 } else t1

/-- Every command of a group's complete batches is let go; a complete batch is kept while it is among the 256 most recent (R206).
Rests on notes/assumptions 36 (DESIGN CHOICE), 111 (DEDUCED). -/
def Team.settleBatches (t : Team) (i : GrpIx) : Team :=
  let g := t.groups[i]
  let done (c : Cmd) : Bool := c.gix == i && !c.live && (g.batches.any fun b => b.complete && b.cmds.any fun r => r.seq == c.seq && r.sub == c.sub)
  let t1 := (t.cmds.filter done).foldl (fun t c => { t with cmds := t.cmds.filter fun x => !x.same c }.publish c) t
  t1.modGrp i fun g =>
    { g with batches := g.batches.filter fun b => !b.complete || decide ((g.batchSeq - b.seq).toNat < 256) }

/-- CRC-32C of a byte sequence, one byte at a time (spec/11 R229). -/
def crcBits : Nat → Nat → Nat
  | 0, r => r
  | k + 1, r => crcBits k (if r % 2 = 1 then (r / 2) ^^^ 0x82F63B78 else r / 2)

def crcStep (r : Nat) (b : Byte) : Nat := crcBits 8 (r ^^^ b.toNat)

def crc32c (b : List Byte) : Nat := (b.foldl crcStep 0xFFFFFFFF) ^^^ 0xFFFFFFFF

/-- The body of a CMD record (spec/17 R345): event 0 post, 1 end, 2 suspend, 3 resume. -/
def Cmd.eventBody (c : Cmd) (ev : Nat) : List Byte :=
  toBytes 4 c.spc.toNat ++ toBytes 4 c.seq.toNat ++ [BitVec.ofNat 8 ev, BitVec.ofNat 8 c.stat.code, 0, 0] ++ toBytes 4 (c.elemAt c.pos) ++
  (match c.lpc with | some l => toBytes 4 l.toNat ++ toBytes 4 0 | none => [])

/-- Streams a CMD record of a command. -/
def State.cmdEvent (s : State) (c : Cmd) (ev : Nat) : State :=
  s.emit s.team.ctx (some 4) s.team.core.val (some s.dieIx) (s.team.slot s.gix) 7 (c.eventBody ev)

/-- Streams a CMD record of a command of a saved team, which no core holds: the hub emits it.
Rests on notes/assumptions 96 (DEDUCED). -/
def State.savedEvent (s : State) (x : CtxIx) (c : Cmd) (ev : Nat) : State := s.emit x (some 4) 0xFE none 0xFF 7 (c.eventBody ev)

/-- Keeps what a command has become, in its team and in its batch. -/
def State.putCmd (s : State) (c : Cmd) : State :=
  s.modTeam fun t => (t.putCmd c).modGrp c.gix fun g => g.modRec c fun r =>
    { r with stat := c.stat, stop := BitVec.ofNat 32 (c.elemAt c.pos), crc := c.crc }

/-- A counting command of the copy words (R208). -/
def Cmd.counts (c : Cmd) : Bool := dRcen c.w && !c.op.atomic && c.op != .spill

/-- Rows that have landed: the landed prefix (R208). -/
def Cmd.landed (c : Cmd) : Nat := if c.n0 = 0 then 0 else c.pos / c.n0

/-- Counts the landed prefix of a command into its row counter. -/
def Team.countRows (t : Team) (c : Cmd) : Team :=
  let k : Fin 16 := Fin.ofNat 16 (dRctr c.w)
  if c.counts then { t with rowCnt := t.rowCnt.set k (t.rowCnt[k] + BitVec.ofNat 32 (c.landed - c.rows)) } else t

/-- Ends a command of the group in hand with a status (R206). -/
def State.endCmd (s : State) (c : Cmd) (stat : CmdStat) : State :=
  let c1 := { c with stat := stat, fault := none, rows := c.landed }
  let s1 := ((s.putCmd c1).modTeam fun t => t.countRows c).modTeam fun t => (if stat == .ok || stat == .poisoned then t else t.unpublish c1).settleBatches c.gix
  s1.cmdEvent c1 1

/-- The record of a stop of a command of the group in hand (R213, spec/16 R319).
Rests on notes/assumptions 17 (DEDUCED). -/
def State.cmdRecord (s : State) (c : Cmd) (cause : Cause) (addr : DWord) : TrapRec :=
  { s.record cause with
    spc := c.spc, lpc := (match c.lpc with | some l => l | none => 0xFFFFFFFF), cmdseq := c.seq, elem := BitVec.ofNat 32 (c.elemAt c.pos), addr := addr,
    lane := c.laneAt c.pos }

/-- The name of a command of the team in hand. -/
def State.cmdName (s : State) (c : Cmd) : CmdName := { team := s.cur, grp := c.gix, seq := c.seq, sub := c.sub }

/-- The reducing commands of a core that have not ended. -/
def State.besideNow (s : State) : List CmdName :=
  s.teams.toList.zipIdx.flatMap fun x =>
    if x.1.live && x.1.core == s.team.core then
      (x.1.cmds.filter fun c => c.live && (c.op == .csct || c.op == .ared)).map fun c => { s.cmdName c with team := Fin.ofNat 10240 x.2 }
    else []

/-- A write of a command may come before the contributions of an entry: no rule orders them, since each was made by a command that had not ended when the
write's command was posted, or made after that (spec/11 R223, spec/10 R207).
Rests on notes/assumptions 112 (DEDUCED). -/
def State.mayPass (s : State) (c : Cmd) (e : Comb) : Bool :=
  e.parts.all fun p => p.who.all fun x =>
    (c.beside.contains x.1 || decide (c.posted ≤ x.2)) &&
    !(dOrd c.w && x.1.team == s.cur && x.1.grp == c.gix && decide ((c.seq - x.1.seq).toNat < 2 ^ 31))

/-- Commands in flight on a core (R192).
Rests on notes/assumptions 91 (DEDUCED). -/
def State.inFlight (s : State) (c : CoreIx) : Nat :=
  (s.teams.toList.map fun t => if t.live && t.core == c then (t.cmds.filter Cmd.live).length else 0).sum

/-- A write element of a later command waits for the push of an acqrel fence of its group (spec/12 R238).
Rests on notes/assumptions 95 (DEDUCED). -/
def State.held (s : State) : Bool :=
  let mine (ls : List Leaving) : Bool := ls.any fun l => l.team == s.cur && l.grp == s.gix
  (s.outgoing.any fun o => mine o.by_) || (s.homeRed.any fun e => mine e.out)

end Sys2Proof.Machine
end

