-- ==== Sys2Proof/Machine/ScalarCopy.lean ====
section
/-! DEFINITION. The scalar words of the copy engine: posts, batches, row counters and cancelling (spec/10 R191-R209, spec/11 R219-R226). -/

namespace Sys2Proof.Machine

/-! ## The checks of a descriptor -/

/-- A control word that breaks R193. -/
def dControlBad (w : Vector Word 8) : Bool :=
  dField w 0 28 4 != 0 || dField w 0 0 7 != 0 || dDk w == 3 || decide (4 ≤ dXf w) || (dPub w && dDk w != 2) || (dRcz w && !dRcen w)

/-- LOCAL that breaks R194. -/
def dLocalBad (w : Vector Word 8) : Bool :=
  match dDk w with
  | 0 => w[1].toNat % 4 != 0
  | 1 => decide (32 ≤ w[1].toNat)
  | _ => decide (64 ≤ w[1].toNat)

/-- A format word that breaks R194 or R224. -/
def dFormatBad (o : CmdOp) (w : Vector Word 8) (e : Shape) : Bool :=
  let l := dField w 2 0 5
  let src := if dDir w = 0 then e.fmt else dFmt o w e
  let dst := if dDir w = 0 then dFmt o w e else e.fmt
  dField w 2 28 4 != 0 || dField w 2 5 3 != 0 || (if dXf w = 2 then dPad w == 0 else dPad w != 0) || (o != .csct && dOp w != 0) ||
  decide (5 ≤ dRnd w) || (decide (0x12 ≤ l) && l != 0x1F) ||
  (if dFmt o w e = e.fmt then dSat w || dRnd w != 0 else !cvtFormatOk 0x0F0 src dst)

/-- The base and the bytes of the local area that DK 0 or DK 2 names (R194, spec/08 R157), or none for an invalid handle. -/
def Team.localArea (t : Team) (w : Vector Word 8) : Option (Nat × Nat) :=
  if dDk w = 2 then (t.buffer w[1].toNat).map fun b => (b.1, b.1 + b.2) else some (w[1].toNat, t.spadSize)

/-- A placement that breaks R199: a combination that is not allowed, or an area that does not fit. -/
def Team.placeBad (t : Team) (o : CmdOp) (w : Vector Word 8) (e : Shape) : Bool :=
  let b := fmtBits (dFmt o w e)
  let rb := dRowBytes o w e
  let n := dN0 w
  let r := dRows o w
  let none := n == 0 || r == 0
  let flat := o.listed || (dField w 7 8 8 == 1 && dField w 7 16 8 == 1 && dField w 7 24 8 == 1)
  if dDk w = 1 then
    let x := (t.tile w[1].toNat).shape
    decide (t.obj.tiles ≤ w[1].toNat) ||
    (match dXf w with
     | 0 => x.layout != 0 || (!none && (decide (x.rb < rb) || decide (x.rows < r)))
     | 1 => decide (b < 8) || !flat || (!none && (decide (x.rows < n) || decide (x.rb < r * (b / 8))))
     | 3 => x.layout != 1 || !flat || (!none && (decide (x.rb < rb) || decide (x.rows < r)))
     | _ => true)
  else
    match t.localArea w with
    | Option.none => true
    | some (base, limit) =>
      match dXf w with
      | 0 => !none && decide (limit < base + r * rb)
      | 1 => decide (b < 8) || !flat || (!none && decide (limit < base + n * r * (b / 8)))
      | 2 => decide (16 * dPad w < rb) || base % 16 != 0 || (!none && decide (limit < base + (r - 1) * (16 * dPad w) + rb))
      | _ => true

/-- An index list that breaks R195 or R201. -/
def Team.listBad (t : Team) (w : Vector Word 8) (e : Shape) : Bool :=
  dField w 7 25 7 != 0 || w[4].toNat % dIndexBytes w != 0 || decide (e.rank < 2) ||
  (dField w 7 0 24 != 0 && decide (t.spadSize < w[4].toNat + dField w 7 0 24 * dIndexBytes w))

/-- The reductions that a format allows (spec/11 R221). -/
def reduceAllowed (op fmt : Nat) : Bool :=
  op == 0 || (decide (op ≤ 6) && decide (fmt ≤ 3)) || (decide (op ≤ 3) && (fmt == 8 || fmt == 9)) || (op == 1 && (fmt == 10 || fmt == 11))

/-- A packed vector's descriptor that breaks spec/11 R225 or R226. -/
def Team.packBad (t : Team) (o : CmdOp) (w : Vector Word 8) (e : Shape) : Bool :=
  let l := dField w 2 0 5
  let wb := fmtBits l / 8
  e.rank != 1 || e.fmt != 6 || dXf w != 0 || dRcen w || dRcz w || dDk w == 1 || dDir w != (if o == .cpack then 1 else 0) ||
  dField w 2 5 27 != 0 || !(decide (l ≤ 0x0D) || l == 0x11) || dField w 3 0 2 != 0 || dField w 4 1 31 != 0 || w[5] != 0 || dField w 6 0 16 != 0 ||
  dField w 7 24 8 != 0 ||
  (match t.localArea w with
   | Option.none => true
   | some (base, limit) => decide (limit < base + dN0 w * dField w 7 0 24 * wb)) ||
  decide (e.ext.headD 1 < w[3].toNat + 4 + dMaskBytes w)

/-- A descriptor that breaks the rules of its word: cause 0x088 (R192). -/
def Team.descBad (t : Team) (o : CmdOp) (w : Vector Word 8) (e : Shape) : Bool :=
  dControlBad w || decide (2 ^ 32 - 1 < dN0 w * dRows o w) ||
  (match o with
   | .cfill => dDir w != 1 || dDk w != 0 || dXf w != 0 || dPub w || dCrc w
   | .cpack | .cunpk => dLocalBad w || t.packBad o w e
   | .cten => dLocalBad w || dFormatBad o w e || t.placeBad o w e
   | .cgth => dDir w != 0 || dLocalBad w || dFormatBad o w e || t.listBad w e || t.placeBad o w e
   | _ => dDir w != 1 || (dXf w != 0 && dXf w != 2) || dLocalBad w || dFormatBad o w e || t.listBad w e || t.placeBad o w e || !reduceAllowed (dOp w) e.fmt)

/-- The right that a post needs (R192, spec/11 R219). -/
def dRight (o : CmdOp) (w : Vector Word 8) : Right :=
  match o with
  | .cten => if dDir w = 0 then .read else .write
  | .cgth => .read
  | .cunpk => .read
  | .csct => if dOp w = 0 then .write else .reduce
  | _ => .write

/-- The first check of R192 that a post fails. -/
def State.postFault (s : State) (o : CmdOp) (w : Vector Word 8) (e : Shape) : Option Cause :=
  if e.ctx ≠ s.team.ctx.val then some 0x089
  else if !e.valid then some 0x08A
  else if s.team.descBad o w e then some 0x088
  else if !e.rights.getLsbD (dRight o w).bit then some 0x08B
  else if dPub w && decide (s.team.obj.hoists ≤ dPubq w) then some 0x150
  else none

/-- The command that a post makes. -/
def State.newCmd (s : State) (o : CmdOp) (w : Vector Word 8) (e : Shape) : Cmd :=
  let area := (s.team.localArea w).getD (0, 0)
  { gix := s.gix, seq := s.grp.cmdSeq + 1, sub := 0, split := none, op := o, w := w, shape := e, spc := s.grp.spc, lpc := none, local0 := area.1,
    limit := area.2, tile := (s.team.tile (dField w 1 0 5)).shape, aop := 0, aty := 0, scope := 0, lanes := [], writes := [], pos := 0, rows := 0, packOff := 0,
    stat := .running, fault := none, tag := 0, crc := [], pois := false, paged := false, index := 0, indexRow := none, ahead := [], half := none, crcHalf := false,
    posted := s.tick, beside := s.besideNow }

/-- The record of a new command in its batch. -/
def Cmd.start (c : Cmd) (crc : Bool) : CmdRec := { seq := c.seq, sub := c.sub, stat := .running, stop := 0, crcOn := crc, crc := [] }

/-- A command joins the open batch of the group in hand (R192); it is counted and streamed. -/
def State.joinBatch (s : State) (c : Cmd) (crc : Bool) : State :=
  let s1 := s.modTeam fun t => { t with cmds := t.cmds ++ [c] }.modGrp s.gix fun g => { g with cmdSeq := c.seq, openB := g.openB ++ [c.start crc] }
  (s1.count 0x07 1).cmdEvent c 0

/-- What a post changes beside its batch: the row counter, the filling bit and the publish queue (R192). -/
def Team.takePost (t : Team) (c : Cmd) : Team :=
  let t1 := if dRcz c.w then { t with rowCnt := t.rowCnt.set (dRctr c.w % 16) 0 (Nat.mod_lt _ (by omega)) } else t
  match c.handle with
  | none => t1
  | some h =>
    let t2 := { t1 with filling := t1.filling ||| ((1 : BitVec 64) <<< h) }
    if dPub c.w then t2.modHoist (dPubq c.w) fun q => { q with resv := q.resv + 1, allow := q.allow - 1 } else t2

/-- A post may go: a command slot is free, and a slot of its publish queue with its allowance (R192).
Rests on notes/assumptions 91 (DEDUCED). -/
def State.canPost (s : State) (w : Vector Word 8) : Bool :=
  decide (s.inFlight s.team.core < 96) &&
  (!dPub w || (let q := s.team.hoist (dPubq w); decide (1 ≤ q.freeSlots) && decide (1 ≤ q.allow)))

/-- The eight descriptor registers. -/
def State.descriptor (s : State) (d : Reg) : Vector Word 8 := Vector.ofFn fun i => s.sr (d + BitVec.ofNat 8 i.val)

/-- A posting word (R192). -/
def State.post (s : State) (o : CmdOp) (d : Reg) (idx : BitVec 16) : Host.Outcome State Fault Refusal :=
  let w := s.descriptor d
  let e := s.shapeEntry s.team.ctx idx.toNat
  match s.postFault o w e with
  | some f => s.scalarTrap0 f
  | none =>
    if s.canPost w then
      let c := s.newCmd o w e
      .next (((s.joinBatch c (dCrc w)).modTeam fun t => t.takePost c).advance 4)
    else s.wait

def execCten (d : Reg) (i : BitVec 16) (s : State) : Host.Outcome State Fault Refusal := s.post .cten d i

def execCgth (d : Reg) (i : BitVec 16) (s : State) : Host.Outcome State Fault Refusal := s.post .cgth d i

def execCsct (d : Reg) (i : BitVec 16) (s : State) : Host.Outcome State Fault Refusal := s.post .csct d i

def execCpack (d : Reg) (i : BitVec 16) (s : State) : Host.Outcome State Fault Refusal := s.post .cpack d i

def execCunpk (d : Reg) (i : BitVec 16) (s : State) : Host.Outcome State Fault Refusal := s.post .cunpk d i

def execCfill (d : Reg) (i : BitVec 16) (s : State) : Host.Outcome State Fault Refusal := s.post .cfill d i

/-! ## Batches (R204-R206) -/

/-- A batch of the group at or before n that is not complete. -/
def Group.pendingTo (g : Group) (n : BitVec 16) : Bool := g.batches.any fun b => decide ((n - b.seq).toNat < 32768) && !b.complete

/-- The closed test of R205. -/
def Group.closedTo (g : Group) (n : BitVec 16) : Bool := decide ((g.batchSeq - n).toNat < 32768)

def execCbatch (d : Reg) (s : State) : Host.Outcome State Fault Refusal :=
  let seq := s.grp.batchSeq + 1
  if s.grp.batches.any fun b => !b.complete && decide (32768 ≤ (seq - b.seq).toNat) then s.wait
  else
    .next ((((s.modGrp fun g => { g with batchSeq := seq, batches := g.batches ++ [{ seq := seq, cmds := g.openB }], openB := [] }).modTeam
      fun t => t.settleBatches s.gix).setSr d (seq.zeroExtend 32)).advance 4)

def execCwait (a : Reg) (s : State) : Host.Outcome State Fault Refusal :=
  let x := s.sr a
  let n := x.extractLsb' 0 16
  if x.extractLsb' 16 16 ≠ 0 ∨ !s.grp.closedTo n then s.scalarTrap0 0x08C
  else if s.grp.pendingTo n then s.wait
  else .next (s.advance 4)

/-- STATE of a batch (R206). -/
def Batch.state (b : Batch) : Nat :=
  let has (x : CmdStat) : Bool := b.cmds.any fun r => r.stat == x
  if has .suspended then 3
  else if has .running then 0
  else if has .error then 7
  else if has .faultCancelled then 6
  else if has .cancelled then 5
  else if has .overrun then 4
  else if has .poisoned then 2
  else 1

/-- The first command of a batch that is suspended or ended otherwise than ok. -/
def Batch.firstStop (b : Batch) : Option CmdRec := b.cmds.find? fun r => r.stat != .running && r.stat != .ok

/-- Word k of a batch record (R206, spec/11 R229). -/
def Batch.word (b : Batch) (k : Nat) : Word :=
  match k with
  | 0 => BitVec.ofNat 32 (min 255 (b.cmds.filter fun r => r.sub == 0).length * 256 + b.state)
  | 1 =>
    if (b.state = 1 ∨ b.state = 2) ∧ b.cmds.any (fun r => r.crcOn) then BitVec.ofNat 32 (crc32c ((b.cmds.filter fun r => r.crcOn).flatMap fun r => r.crc))
    else 0
  | 2 => match b.firstStop with | some r => r.stop | none => 0
  | _ => match b.firstStop with | some r => r.seq | none => 0

/-- The record that CSTAT reads: batch 0 before the first CBATCH has no commands, and a batch older than the 256 most recent reads state 8. -/
def Group.batchWord (g : Group) (n : BitVec 16) (k : Nat) : Word :=
  if 256 ≤ (g.batchSeq - n).toNat then (if k = 0 then 8 else 0)
  else match g.batches.find? fun b => b.seq == n with
    | some b => b.word k
    | none => if k = 0 then 1 else 0

def execCstat (d a : Reg) (s : State) : Host.Outcome State Fault Refusal :=
  let x := s.sr a
  let n := x.extractLsb' 0 16
  if x.extractLsb' 18 14 ≠ 0 ∨ !s.grp.closedTo n then s.scalarTrap0 0x08C
  else s.scalarPut 4 d (s.grp.batchWord n (x.extractLsb' 16 2).toNat)

/-! ## Row counters (R208) -/

/-- Row counter k of the team in hand has reached t. -/
def State.rowsReached (s : State) (k : Nat) (t : Word) : Bool := if h : k < 16 then decide ((s.team.rowCnt[k] - t).toNat < 2 ^ 31) else false

def execCrows (a b : Reg) (s : State) : Host.Outcome State Fault Refusal :=
  let k := (s.sr a).toNat
  if k < 16 then
    if s.rowsReached k (s.sr b) then .next (s.advance 4)
    else if s.team.cmds.any fun c => c.live && c.counts && dRctr c.w == k then s.wait
    else s.scalarTrap0 0x08D
  else s.scalarTrap0 0x08C

/-! ## Cancelling (R209) -/

/-- The commands of the group in hand that a CCNCL names.
Rests on notes/assumptions 37 (DEDUCED). -/
def State.cancelled (s : State) (all : Bool) (n : BitVec 16) : List Cmd :=
  s.team.cmds.filter fun c =>
    c.live && c.gix == s.gix &&
    (all || s.grp.batches.any fun b => b.seq == n && b.cmds.any fun r => r.seq == c.seq && r.sub == c.sub)

/-- Rests on notes/assumptions 37 (DEDUCED). -/
def execCcncl (a : Reg) (s : State) : Host.Outcome State Fault Refusal :=
  let x := s.sr a
  let n := x.extractLsb' 0 16
  let all := x.getLsbD 16
  if x.extractLsb' 17 15 ≠ 0 ∨ (if all then n ≠ 0 else !s.grp.closedTo n) then s.scalarTrap0 0x08C
  else .next (((s.cancelled all n).foldl (fun s c => s.endCmd c .cancelled) s).advance 4)

end Sys2Proof.Machine
end

