-- ==== Sys2Proof/Machine/EngineRun.lean ====
section
/-! DEFINITION. The engine at work: elements of a command in order, its faults, landed rows and its end (spec/10 R198-R203, R208, R213, spec/11 R220-R228,
spec/13 R259-R264). -/

namespace Sys2Proof.Machine

/-! ## One element of a copy -/

/-- Stops a command at its next element (R203, R213). -/
def Cmd.stopAt (c : Cmd) (cause : Cause) (va : Nat) : Cmd := { c with fault := some (cause, BitVec.ofNat 64 va) }

/-- The CRC bytes of one value (spec/11 R229): whole bytes; the second nibble of a 4-bit pair completes the byte of the first, and
stands in a byte of its own where the first was dropped. -/
def Cmd.addCrc (c : Cmd) (bits v : Nat) (second : Bool) : Cmd :=
  if !dCrc c.w then c
  else if bits = 4 then
    if second && c.crcHalf then { c with crc := c.crc.dropLast ++ [c.crc.getLastD 0 + BitVec.ofNat 8 (16 * v)], crcHalf := false }
    else { c with crc := c.crc ++ [BitVec.ofNat 8 (if second then 16 * v else v)], crcHalf := !second }
  else { c with crc := c.crc ++ toBytes (bits / 8) v }

/-- The nibble of a byte. -/
def nibbleOf (b : Nat) (high : Bool) : Nat := if high then b / 16 % 16 else b % 16

/-- A byte with one nibble replaced.
Rests on notes/assumptions 43 (DESIGN CHOICE). -/
def withNibble (b v : Nat) (high : Bool) : Nat := if high then b % 16 + 16 * (v % 16) else b / 16 * 16 + v % 16

/-- The local value of element x, and its poison. -/
def Team.localValue (t : Team) (c : Cmd) (x : Nat) : Nat × Bool :=
  let p := c.place x
  let b := fmtBits c.lfmt
  let r := t.localRead c.tileNo p.1 (max 1 (b / 8))
  if b = 4 then (nibbleOf (ofBytes r.1) p.2, r.2) else (ofBytes r.1, r.2)

/-- Lands the value of element x in local storage; the last element of a row with an odd number of 4-bit elements clears the high nibble (R199). -/
def State.landValue (s : State) (c : Cmd) (x v : Nat) (pois : Bool) : State :=
  let p := c.place x
  let b := fmtBits c.lfmt
  let old := ofBytes (s.team.localRead c.tileNo p.1 1).1
  let bytes :=
    if b = 4 then (if !p.2 && x % c.n0 + 1 = c.n0 then toBytes 1 v else toBytes 1 (withNibble old v p.2)) else toBytes (b / 8) v
  s.modTeam fun t => t.land s.gix c.tileNo p.1 bytes pois

/-- A landing that touches a pool entry in use (cause 0x092). -/
def Team.landsInPool (t : Team) (p : Place) (n : Nat) : Bool := match p with | .spad a => t.poolTouched a n | .tile _ _ => false

/-- The cause of a record of poison on the hardware-error lane: one of those that spec/16 R317 and R318 send there.
Rests on notes/assumptions 30 (UNVERIFIED). -/
def State.poisonCause (s : State) : Cause := [0x101, 0x102, 0x103, 0x187].getD (Config.poisonPageCause s.tick % 4) 0x101

/-- Notes that a page with POISON was met: the command ends poisoned, and one record goes on the hardware-error lane (R211; which cause it carries is
left open).
Rests on notes/assumptions 30 (UNVERIFIED). -/
def State.pagePoison (s : State) (c : Cmd) (va : Nat) : State × Cmd :=
  if c.paged then (s, c)
  else
    (s.sendFatal s.team.ctx { s.cmdRecord c s.poisonCause (BitVec.ofNat 64 va) with hw := true }, { c with paged := true, pois := true })

/-- The value of a memory element at va (R198): a nibble for 4-bit formats. -/
def State.memValue (s : State) (e : TlbE) (va bits : Nat) (nib : Bool) : Nat × Bool :=
  let r := s.readPage s.team.core e (e.addr va) (max 1 (bits / 8))
  let v := ofBytes (r.map fun b => b.1)
  (if bits = 4 then nibbleOf v nib else v, r.any fun b => b.2)

/-- Writes a memory element: a 4-bit one together with the other nibble of its byte (R374).
Rests on notes/assumptions 43 (DESIGN CHOICE). -/
def State.putMem (s : State) (e : TlbE) (hint : Nat) (pass : Comb → Bool) (va bits v : Nat) (nib pois : Bool) : State :=
  let s := if bits = 4 ∧ e.space = .device then s.landRange s.team.core (e.addr va) 1 else s
  let bytes := if bits = 4 then toBytes 1 (withNibble (s.memValue e va 8 false).1 v nib) else toBytes (bits / 8) v
  s.writePage s.team.core e hint pass (e.addr va) (bytes.map fun b => (b, pois))

/-- A reduction of one element (spec/11 R222): combined or at home on a device page, at the peer's home, or an AtomicOp on a host page.
Rests on notes/assumptions 39 (DEDUCED). -/
def State.reduceAt (s : State) (c : Cmd) (e : TlbE) (va op fmt v : Nat) (pois : Bool) : Option State :=
  let pa := e.addr va
  let n := redBits fmt / 8
  match e.space with
  | .device => some (s.contribute s.team.core e.cacheable (e.tag pa) op fmt { pa := pa, val := BitVec.ofNat 64 v, pois := pois, who := [(s.cmdName c, s.tick)] })
  | .peer _ => some { s with peerMem := Memory.writeLe s.peerMem pa n (applyRed op fmt (Memory.readLe s.peerMem pa n) v) }
  | .host =>
    if op = 1 ∧ fmt ≤ 3 then some { s with hostMem := Memory.writeLe s.hostMem pa n (applyRed op fmt (Memory.readLe s.hostMem pa n) v) } else none

/-- Performs an in-bounds element whose translation is e. A write that a poisoned page drops adds nothing to the CRC (R211, spec/11 R229).
Rests on notes/assumptions 112 (DEDUCED). -/
def State.doElement (s : State) (c : Cmd) (e : TlbE) (late : Bool) (va : Nat) (nib : Bool) : State × Cmd :=
  let x := c.pos
  let mb := fmtBits c.shape.fmt
  let lb := fmtBits c.lfmt
  let conv (fs fd v : Nat) : Nat := if fs = fd then v else (convert fs fd (rmodeOf (dRnd c.w)) (dSat c.w) v).1
  let odd := x % c.n0 % 2 == 1
  if c.op == .cgth || (c.op == .cten && dDir c.w == 0) then
    let r := s.memValue e va mb nib
    let v := conv c.shape.fmt c.lfmt r.1
    let pois := r.2 || e.poison
    let (s1, c1) := if e.poison then s.pagePoison c va else (s, c)
    if s.team.landsInPool (c.place x).1 (max 1 (lb / 8)) then (s, c.stopAt 0x092 va)
    else (s1.landValue c x v pois, { c1.addCrc lb v odd with pos := x + 1, pois := c1.pois || pois })
  else
    let r : Nat × Bool := if c.op == .cfill then ((c.w[2] ++ c.w[1]).toNat % 2 ^ mb, false) else s.team.localValue c x
    let v := if c.op == .cfill then r.1 else conv c.lfmt c.shape.fmt r.1
    let (s1, c1) := if e.poison then s.pagePoison c va else (s, c)
    let c2 := { c1.addCrc mb v odd with pos := x + 1, pois := c1.pois || r.2 }
    if e.poison then (s1, { c1 with pos := x + 1, pois := c1.pois || r.2, crcHalf := false })
    else if c.op == .csct && dOp c.w != 0 then
      match s1.reduceAt c e va (dOp c.w) c.shape.fmt v r.2 with
      | some s2 => (s2, { c2 with pois := c2.pois || (s2.homePoisoned (e.addr va) (mb / 8) && e.space == .device) })
      | none => (s, c.stopAt 0x0C4 va)
    else (s1.putMem e (dHint c.w) (fun y => late && s.mayPass c y) va mb v nib r.2, c2)

/-- Performs an out-of-bounds element (R198): an error under MODE 0; under MODE 1 zero bits land, or a write is dropped. -/
def State.doOutside (s : State) (c : Cmd) (va : Nat) : State × Cmd :=
  let x := c.pos
  let lb := fmtBits c.lfmt
  if !c.shape.fill then (s, c.stopAt 0x090 va)
  else if c.op == .cgth || (c.op == .cten && dDir c.w == 0) then
    if s.team.landsInPool (c.place x).1 (max 1 (lb / 8)) then (s, c.stopAt 0x092 va)
    else (s.landValue c x 0 false, { c.addCrc lb 0 (x % c.n0 % 2 == 1) with pos := x + 1 })
  else (s, { c with pos := x + 1, crcHalf := false })

/-- The index of the row in hand is read once, before the row's first element (R201). -/
def Team.readIndex (t : Team) (c : Cmd) : Cmd :=
  if c.op.listed && c.indexRow != some (c.pos / c.n0) then
    let k := dIndexBytes c.w
    { c with index := t.spadRead (c.w[4].toNat + c.pos / c.n0 * k) k, indexRow := some (c.pos / c.n0) }
  else c

/-- The elements that follow in the same row and the same granule of memory are performed with it, as one request of R217.
Rests on notes/assumptions 27 (DEDUCED). -/
def State.runOn (s : State) (c : Cmd) (e : TlbE) (late : Bool) (size granule : Nat) : Nat → State × Cmd
  | 0 => (s, c)
  | n + 1 =>
    let cs := c.coords c.pos
    let va := c.shape.addr cs
    if c.pos < c.total ∧ c.fault.isNone ∧ c.pos % c.n0 ≠ 0 ∧ c.shape.inBounds cs ∧ va / size = granule then
      let r := s.doElement c e late va (c.shape.nibble cs)
      r.1.runOn r.2 e late size granule n
    else (s, c)

/-- What a command reads of memory in its elements. -/
def Cmd.reads (c : Cmd) : Bool := c.op == .cgth || (c.op == .cten && dDir c.w == 0)

/-- The next step of a copy, gather, scatter or fill: the elements of one request, or one out-of-bounds element; none while a home that it needs relocks.
Rests on notes/assumptions 27 (DEDUCED), 29 (DEDUCED). -/
def State.stepCopy (s : State) (c0 : Cmd) (ch : ElemChoice) : Option (State × Cmd) :=
  let c := s.team.readIndex c0
  let cs := c.coords c.pos
  let va := c.shape.addr cs
  let core := s.team.core
  if !c.shape.inBounds cs then some (s.doOutside c va)
  else
    match s.translateAt core s.team.ctx va (dRight c.op c.w) ch.useTlb with
    | (s1, .error f) => some (s1, c.stopAt f va)
    | (s1, .ok e) =>
      if e.space == .device && s.homeBusy (e.home (e.addr va)) then none
      else
        let size := if c.reads then s1.granule e (e.addr va) else 64
        let a := e.addr va / size * size
        let s1 := if e.space == .device then s1.landRange core a size else s1
        let s2 := if e.contradicts (dHint c.w) then s1.count 0x0A 1 else s1
        let s3 := if e.cacheable && !ch.useCache then s2.evictRange core a size else s2
        let s4 := if e.cacheable && c.reads && dHint c.w != 3 && !e.poison then s3.allocate core e (dHint c.w) a size else s3
        let r := s4.doElement c e ch.late va (c.shape.nibble cs)
        let r2 := r.1.runOn r.2 e ch.late size (va / size) 512
        some (r2.1.count 0x08 (((r2.2.pos - c.pos) * fmtBits c.shape.fmt + 7) / 8), r2.2)

/-! ## Spans of bytes: packed streams and spill records -/

/-- Cuts [va, va+n) into requests of one 64-byte sector.
Rests on notes/assumptions 27 (DEDUCED). -/
def sectors : (n va : Nat) → (fuel : Nat) → List (Nat × Nat)
  | 0, _, _ => []
  | _, _, 0 => []
  | n + 1, va, f + 1 =>
    let k := min (n + 1) (64 - va % 64)
    (va, k) :: sectors (n + 1 - k) (va + k) f

/-- Translates every request of a span before any of them is made (R203). -/
def State.translateSpan (s : State) (useTlb : Bool) (r : Right) : List (Nat × Nat) → State × Except (Cause × Nat) (List (Nat × Nat × TlbE))
  | [] => (s, .ok [])
  | (va, n) :: rest =>
    match s.translateAt s.team.core s.team.ctx (va % 2 ^ 64) r useTlb with
    | (s1, .error f) => (s1, .error (f, va))
    | (s1, .ok e) =>
      match s1.translateSpan true r rest with
      | (s2, .error f) => (s2, .error f)
      | (s2, .ok l) => (s2, .ok ((va % 2 ^ 64, n, e) :: l))

/-- Writes bytes over translated requests; a page with POISON drops them. -/
def State.writeSpan (s : State) (hint : Nat) (pass : Comb → Bool) : List (Nat × Nat × TlbE) → List (Byte × Bool) → State
  | [], _ => s
  | (va, n, e) :: rest, b =>
    (if e.poison then s else s.writePage s.team.core e hint pass (e.addr va) (b.take n)).writeSpan hint pass rest (b.drop n)

/-- Reads bytes over translated requests. -/
def State.readSpan (s : State) : List (Nat × Nat × TlbE) → List (Byte × Bool)
  | [] => []
  | (va, n, e) :: rest => ((s.readPage s.team.core e (e.addr va) n).map fun b => (b.1, b.2 || e.poison)) ++ s.readSpan rest

/-- A home that one of the requests needs relocks.
Rests on notes/assumptions 35 (DEDUCED). -/
def State.spanBusy (s : State) (l : List (Nat × Nat × TlbE)) : Bool := l.any fun x => x.2.2.space == .device && s.homeBusy (x.2.2.home (x.2.2.addr x.1))

/-- The virtual address of byte o of the packed stream (spec/11 R226). -/
def Cmd.stream (c : Cmd) (o : Nat) : Nat := c.shape.base.toNat + c.w[3].toNat + o

/-- A byte to write, without poison. -/
def clean (b : List Byte) : List (Byte × Bool) := b.map fun x => (x, false)

/-- The mask bytes that a CPACK has made so far: bit j of unit j (spec/11 R226). -/
def Cmd.maskOf (c : Cmd) : List Byte := match c.writes with | (_, m) :: _ => m | [] => []

/-- Sets or clears bit j of a mask. -/
def maskSet (m : List Byte) (j : Nat) (v : Bool) : List Byte :=
  let m1 := m ++ List.replicate (j / 8 + 1 - m.length) 0
  m1.set (j / 8) (BitVec.ofNat 8 (m1.getD (j / 8) 0).toNat ||| (if v then (1 : Byte) <<< (j % 8) else 0))

/-- Counts the requests of a span whose pages the HINT contradicts (spec/10 R215). -/
def State.countHints (s : State) (c : Cmd) (l : List (Nat × Nat × TlbE)) : State :=
  let n := (l.filter fun x => x.2.2.contradicts (dHint c.w)).length
  if n = 0 then s else s.count 0x0A n

/-- Requests of which one meets a page with POISON, then what they do. -/
def State.spanPoison (s : State) (c : Cmd) (l : List (Nat × Nat × TlbE)) (f : State → State) : State × Cmd :=
  match l.find? fun x => x.2.2.poison with
  | some x => let r := s.pagePoison c x.1; (f r.1, r.2)
  | none => (f s, c)

/-- Runs a write of bytes at a stream offset, or stops the command. -/
def State.streamWrite (s : State) (c : Cmd) (ch : ElemChoice) (ws : List (Nat × List (Byte × Bool))) :
    Option (Except (State × Cmd) (State × Cmd)) :=
  let spans := ws.flatMap fun w => sectors w.2.length w.1 (w.2.length + 1)
  match s.translateSpan ch.useTlb .write spans with
  | (s1, .error (f, va)) => some (.error (s1, c.stopAt f va))
  | (s1, .ok l) => 
    if s1.spanBusy l then none else some (.ok ((s1.countHints c l).spanPoison c l fun s =>
      s.writeSpan (dHint c.w) (fun y => ch.late && s.mayPass c y) l (ws.flatMap fun w => w.2)))

/-- The n bytes of the dense vector from scratchpad address a on, each with the poison of its word (spec/11 R226). -/
def Team.dense (t : Team) (a n : Nat) : List (Byte × Bool) :=
  (List.range n).map fun i => (Memory.read t.spad (a + i), poisoned t.spadPoison (a + i) 1)

def roundUp4 (n : Nat) : Nat := (n + 3) / 4 * 4

/-- What a CPACK has read from the unit in hand on after a step that reads k words more, or all that the unit needs. It reads each 4-byte word whole, at
once, and keeps what belongs to later units (spec/11 R227).
Rests on notes/assumptions 28 (DEDUCED). -/
def Team.unitAhead (t : Team) (c : Cmd) (k : Nat) : List (Byte × Bool) :=
  let u := dUnitBytes c.w
  let from_ := c.local0 + c.pos * u + c.ahead.length
  let need := roundUp4 (c.local0 + (c.pos + 1) * u)
  let upTo := min (c.local0 + dUnits c.w * u) (if k = 0 then need else min need ((from_ / 4 + k) * 4))
  c.ahead ++ t.dense from_ (upTo - from_)

/-- The next step of a CPACK (spec/11 R227): words of a unit, the unit with its mask bit, an overrun, or the padding and LEN that end the stream.
Rests on notes/assumptions 28 (DEDUCED). -/
def State.stepPack (s : State) (c : Cmd) (ch : ElemChoice) : Option (State × Cmd) :=
  let m := dMaskBytes c.w
  let j := c.pos
  let off := if c.packOff = 0 then 4 + m else c.packOff
  let room := c.shape.ext.headD 1 - c.w[3].toNat
  let wordOf (l : List Byte) (k : Nat) : List Byte := (l ++ List.replicate 4 0).drop (4 * k) |>.take 4
  if j < dUnits c.w then
    let got := s.team.unitAhead c ch.words
    let b := got.take (dUnitBytes c.w)
    let nz := b.any fun x => x.1 != 0
    if b.length < dUnitBytes c.w then some (s, { c with ahead := got, packOff := off })
    else if nz && decide (room < off + b.length) then
      -- overrun: the stop's mask word is written with the stop's bit and those above it zero
      match s.streamWrite c ch [(c.stream (4 + j / 32 * 4), clean (wordOf (maskSet c.maskOf (j / 32 * 32 + 31) false) (j / 32)))] with
      | none => none
      | some (.error r) => some r
      | some (.ok (s1, c)) => some (s1.count 0x08 4, { c with packOff := off, stat := .overrun })
    else
      let mask := maskSet c.maskOf j nz
      let old := s.team.core
      -- the mask bit is merged with the bits above it, which later units write
      let va := c.stream (4 + j / 8)
      let above := match s.translateAt old s.team.ctx (va % 2 ^ 64) .write ch.useTlb with
        | (_, .ok e) =>
          let s := if e.space == .device then s.landRange old (e.addr (va % 2 ^ 64)) 1 else s
          (s.memValue e (va % 2 ^ 64) 8 false).1 / 2 ^ (j % 8 + 1) * 2 ^ (j % 8 + 1)
        | _ => 0
      let mb := toBytes 1 ((mask.getD (j / 8) 0).toNat + above)
      let bytes := b.map fun x => x.1
      match s.streamWrite c ch ((if nz then [(c.stream off, b)] else []) ++ [(va, clean mb)]) with
      | none => none
      | some (.error r) => some r
      | some (.ok (s1, c)) =>
        some (s1.count 0x08 ((if nz then b.length else 0) + 1),
              { c with pos := j + 1, packOff := off + (if nz then b.length else 0), writes := [(0, mask)], pois := c.pois || (nz && b.any fun x => x.2),
                       ahead := got.drop (dUnitBytes c.w),
                       crc := if dCrc c.w && nz then c.crc ++ bytes else c.crc })
  else
    let mask := maskSet c.maskOf (8 * m - 1) false
    let len := roundUp4 off
    let pad := List.replicate (len - off) (0 : Byte)
    -- the last mask word and the padding first, LEN after every other byte
    match s.streamWrite c ch [(c.stream (m), clean (wordOf mask (m / 4 - 1))), (c.stream off, clean pad), (c.stream 0, clean (toBytes 4 len))] with
    | none => none
    | some (.error r) => some r
    | some (.ok (s1, c)) => some (s1.count 0x08 (8 + pad.length), { c with pos := j + 1, crc := if dCrc c.w then toBytes 4 len ++ mask ++ c.crc ++ pad else c.crc })

/-- Runs a read of bytes at a stream offset, or stops the command. -/
def State.streamRead (s : State) (c : Cmd) (ch : ElemChoice) (va n : Nat) : Option (Except (State × Cmd) (State × Cmd × List (Byte × Bool))) :=
  match s.translateSpan ch.useTlb .read (sectors n va (n + 1)) with
  | (s1, .error (f, a)) => some (.error (s1, c.stopAt f a))
  | (s1, .ok l) =>
    if s1.spanBusy l then none
    else
      let s2 := l.foldl (fun s x =>
        let k := s.granule x.2.2 (x.2.2.addr x.1)
        let a := x.2.2.addr x.1 / k * k
        let s := if x.2.2.space == .device then s.landRange s.team.core a k else s
        if x.2.2.cacheable then
          let s := if ch.useCache then s else s.evictRange s.team.core a k
          if dHint c.w != 3 && !x.2.2.poison then s.allocate s.team.core x.2.2 (dHint c.w) a k else s
        else s) (s1.countHints c l)
      let r := s2.spanPoison c l id
      some (.ok (r.1, r.2, s2.readSpan l))

/-- Lands the elements of a unit, each of k bytes and poisoned when one of its own bytes is (spec/10 R213, spec/11 R228). -/
def Team.landUnit (t : Team) (gix : GrpIx) (a k : Nat) (b : List (Byte × Bool)) : Team :=
  (List.range (b.length / k)).foldl (fun t i =>
    let e := (b.drop (k * i)).take k
    t.land gix 0 (.spad (a + k * i)) (e.map fun x => x.1) (e.any fun x => x.2)) t

/-- The next step of a CUNPK (spec/11 R228): the header and the mask, then one unit at a time.
Rests on notes/assumptions 28 (DEDUCED). -/
def State.stepUnpack (s : State) (c : Cmd) (ch : ElemChoice) : Option (State × Cmd) :=
  let m := dMaskBytes c.w
  let u := dUnitBytes c.w
  let room := c.shape.ext.headD 1 - c.w[3].toNat
  if c.pos = 0 then
    match s.streamRead c ch (c.stream 0) (4 + m) with
    | none => none
    | some (.error r) => some r
    | some (.ok (s1, c, b)) =>
      let len := ofBytes ((b.take 4).map fun x => x.1)
      let mask := (b.drop 4).map fun x => x.1
      let z := popCount (8 * m) (ofBytes mask)
      if len % 4 ≠ 0 ∨ room < len ∨ ofBytes mask / 2 ^ dUnits c.w ≠ 0 ∨ len ≠ 4 + m + roundUp4 (z * u) then some (s1, c.stopAt 0x091 (c.stream 0))
      else some (s1.count 0x08 (4 + m), { c with pos := 1, packOff := 4 + m, writes := [(0, mask)], pois := c.pois || b.any fun x => x.2 })
  else
    let j := c.pos - 1
    let here := (ofBytes c.maskOf).testBit j
    let at_ := c.local0 + j * u
    if s.team.poolTouched at_ u then some (s, c.stopAt 0x092 (c.stream c.packOff))
    else
      match (if here then s.streamRead c ch (c.stream c.packOff) u else some (.ok (s, c, clean (List.replicate u 0)))) with
      | none => none
      | some (.error r) => some r
      | some (.ok (s1, c, b)) =>
        let bytes := b.map fun x => x.1
        let pois := b.any fun x => x.2
        some ((s1.modTeam fun t => t.landUnit s.gix at_ (fmtBits (dField c.w 2 0 5) / 8) b).count 0x08 u,
              { c with pos := c.pos + 1, packOff := c.packOff + (if here then u else 0), pois := c.pois || pois,
                       crc := if dCrc c.w then c.crc ++ bytes else c.crc })

/-- The next write of a spill (spec/09 R183). -/
def State.stepSpill (s : State) (c : Cmd) (ch : ElemChoice) : Option (State × Cmd) :=
  match c.writes[c.pos]? with
  | none => none
  | some (va, b) =>
    match s.streamWrite c ch [(va.toNat, clean b)] with
    | none => none
    | some (.error r) => some r
    | some (.ok (s1, c)) => some (s1.count 0x08 b.length, { c with pos := c.pos + 1 })

/-! ## Lane memory atomics (spec/13 R259-R264) -/

/-- The coordinate of an index, or none at or beyond the product of the extents (R259). -/
def Shape.unravel (e : Shape) (x : Nat) : Option (List Nat) :=
  let n (d : Nat) : Nat := e.ext.getD d 1
  if n 0 * n 1 * n 2 * n 3 * n 4 ≤ x then none
  else some [x % n 0, x / n 0 % n 1, x / (n 0 * n 1) % n 2, x / (n 0 * n 1 * n 2) % n 3, x / (n 0 * n 1 * n 2 * n 3) % n 4]

/-- Bytes of a lane's result (R257). -/
def Cmd.resultBytes (c : Cmd) : Nat :=
  match c.op with
  | .adcas => 2 * atomWidth c.aty.toNat
  | .ared => 0
  | _ => atomWidth c.aty.toNat

/-- A word that executes at home, in the cluster's unit, or at a port (R253). -/
inductive AtomAt where
  | home | cluster | host | peer
  deriving DecidableEq, Repr

def Cmd.unitOf (c : Cmd) (e : TlbE) : AtomAt :=
  match e.space with
  | .host => .host
  | .peer _ => .peer
  | .device => if c.scope = 2 ∧ e.cp ≠ 2 then .cluster else .home

/-- Reads n bytes at the unit, with their poison. -/
def State.atomRead (s : State) (u : AtomAt) (e : TlbE) (pa n : Nat) : State × List Byte × Bool :=
  match u with
  | .host => (s, Memory.readBytes s.hostMem pa n, e.poison)
  | .peer => (s, Memory.readBytes s.peerMem pa n, e.poison)
  | .home => (s, Memory.readBytes s.mem pa n, e.poison || s.homePoisoned pa n)
  | .cluster =>
    let k := clusterOf s.team.core
    let s1 := s.atomFetch k e (pa / 64)
    let b := (List.range n).map fun i => match cfind s1.clusters[k].atom (pa + i) with | some b => (b.val, b.pois) | none => (0, false)
    (s1, b.map fun x => x.1, e.poison || b.any fun x => x.2)

/-- Writes a number of n bytes at the unit; a page with POISON drops it.
Rests on notes/assumptions 39 (DEDUCED). -/
def State.atomWrite (s : State) (u : AtomAt) (e : TlbE) (pa n v : Nat) (pois : Bool) : State :=
  if e.poison then s
  else
    match u with
    | .host => { s with hostMem := Memory.writeLe s.hostMem pa n v }
    | .peer => { s with peerMem := Memory.writeLe s.peerMem pa n v }
    | .home => (s.homeBytes (some (e.tag pa)) pa ((toBytes n v).map fun b => (b, pois))).watch
    | .cluster =>
      let k := clusterOf s.team.core
      s.modCluster k fun x =>
        { x with atom := (toBytes n v).zipIdx.foldl (fun l b =>
            l.map fun y => if y.pa == pa + b.2 then { y with val := b.1, dirty := true, pois := pois } else y) x.atom }

/-- The AtomicOps that PCIe carries (R263). -/
def Cmd.hostCarries (c : Cmd) : Bool :=
  let t := c.aty.toNat
  match c.op with
  | .atm => (c.aop == 0 && decide (t ≤ 3)) || (c.aop == 6) || (c.aop == 7)
  | .ared => c.aop == 0 && decide (t ≤ 3)
  | _ => false

/-- The result area of a lane. -/
def Cmd.resultAt (c : Cmd) (l : Nat) : Nat := c.local0 + l * c.resultBytes

/-- Lands a lane's result. -/
def State.landResult (s : State) (c : Cmd) (l : Nat) (b : List Byte) (pois : Bool) : State :=
  if b.isEmpty then s else s.modTeam fun t => t.land s.gix 0 (.spad (c.resultAt l)) b pois

/-- The lane goes on with the next one. -/
def Cmd.nextLane (c : Cmd) (pois : Bool) : Cmd := { c with pos := c.pos + 1, pois := c.pois || pois, half := none }

/-- The unit of R253 that performs a word's steps on device memory: a cluster's, or none for the home slice. -/
def State.clusterUse (s : State) (u : AtomAt) : Option (Fin 40) := if u = .cluster then some (clusterOf s.team.core) else none

/-- Notes that an atomic of the team in hand worked on an element of n bytes (spec/13 R254).
Rests on notes/assumptions 113 (DEDUCED). -/
def State.noteUse (s : State) (u : AtomAt) (pa n : Nat) : State :=
  if u = .home ∨ u = .cluster then
    let x : ScopeUse := { pa := pa, n := n, cluster := s.clusterUse u, core := s.team.core, released := false, acquired := [] }
    { s with uses := x :: s.uses.filter fun y => !(y.pa == x.pa && y.n == x.n && y.cluster == x.cluster && y.core == x.core) }
  else s

/-- An atomic of another scope has worked on an element of n bytes, with no device-scope release of its core and acquire of this one since
(spec/13 R254).
Rests on notes/assumptions 113 (DEDUCED). -/
def State.mixedScope (s : State) (u : AtomAt) (pa n : Nat) : Bool :=
  s.uses.any fun x => x.cluster.isSome != (s.clusterUse u).isSome && decide (pa < x.pa + x.n ∧ x.pa < pa + n) && !(x.released && x.acquired.contains s.team.core)

/-- A zero result lands (MODE 1 of R259), unless it would touch a pool entry in use (spec/07 R134). -/
def State.landZero (s : State) (c : Cmd) (l : Nat) : State × Cmd :=
  if s.team.poolTouched (c.resultAt l) c.resultBytes && c.resultBytes != 0 then (s, c.stopAt 0x092 0)
  else (s.landResult c l (List.replicate c.resultBytes 0) false, c.nextLane false)

/-- A poisoned read (R264): nothing is written at home, the result words are all ones with poison, and a record goes on the hardware-error lane.
Rests on notes/assumptions 30 (UNVERIFIED). -/
def State.poisonedLane (s : State) (c : Cmd) (l va : Nat) : State × Cmd :=
  ((s.landResult c l (List.replicate c.resultBytes 0xFF) true).sendFatal s.team.ctx
    { s.cmdRecord c s.poisonCause (BitVec.ofNat 64 va) with hw := true }, c.nextLane true)

/-- The element that an index names for a lane atomic of n bytes: its address; none out of bounds under MODE 1; a fault otherwise (R259). -/
def Cmd.laneElem (c : Cmd) (n x : Nat) : Except (Cause × Nat) (Option Nat) :=
  match c.shape.unravel x with
  | none => if c.shape.fill then .ok none else .error (0x090, 0)
  | some cs =>
    let va := c.shape.addr cs
    if n = 16 ∧ (va % 16 ≠ 0 ∨ !c.shape.inBounds ((cs.headD 0 + 1) :: cs.drop 1)) then .error (0x090, va) else .ok (some va)

/-- The right that a lane atomic's leaf must carry. -/
def Cmd.laneRight (c : Cmd) : Right := if c.op == .ared then .reduce else .atomic

/-- An ATM or ARED performs a lane (R259, R262, R264). Its read may come in a step of its own, which counts where an atomic of another scope works on the
element by the time of the write (R254); else the write's step reads again, and the two are one.
Rests on notes/assumptions 113 (DEDUCED). -/
def State.stepAtm (s : State) (c : Cmd) (a : AtomLane) (ch : ElemChoice) : Option (State × Cmd) :=
  let n := atomWidth c.aty.toNat
  match c.laneElem n a.xa.toNat with
  | .error f => some (s, c.stopAt f.1 f.2)
  | .ok none => some (s.landZero c a.lane)
  | .ok (some va) =>
    match s.translateAt s.team.core s.team.ctx va c.laneRight ch.useTlb with
    | (s1, .error f) => some (s1, c.stopAt f va)
    | (s1, .ok e) =>
      let pa := e.addr va
      let u := c.unitOf e
      if e.space == .device && s.homeBusy (e.home pa) then none
      else if u = .host ∧ !c.hostCarries then some (s1, c.stopAt 0x0C4 va)
      else if s.team.poolTouched (c.resultAt a.lane) c.resultBytes && c.resultBytes != 0 then some (s1, c.stopAt 0x092 va)
      else
        let now := s1.atomRead u e pa n
        if ch.apart && c.half.isNone && e.space == .device && !now.2.2 then some (now.1, { c with half := some now.2.1 })
        else
          let early := if s1.mixedScope u pa n then c.half else none
          let s1 := (s1.count 0x08 n).noteUse u pa n
          if c.op == .ared && e.poison then let r := s1.pagePoison c va; some (r.1, r.2.nextLane false)
          else if c.op == .ared && u = .home && early.isNone then
            let s2 := s1.contribute s.team.core e.cacheable (e.tag pa) (c.aop + 1) (atomFmt c.aty.toNat)
              { pa := pa, val := a.b.extractLsb' 0 64, pois := false, who := [(s.cmdName c, s.tick)] }
            some (s2, c.nextLane (s2.homePoisoned pa n))
          else
            let r := match early with | some b => (s1, b, false) | none => s1.atomRead u e pa n
            let old := ofBytes r.2.1
            let new := atomNew c.aop c.aty.toNat old (a.b.toNat % 2 ^ (8 * n)) (a.c.toNat % 2 ^ (8 * n))
            if r.2.2 then
              if c.op == .ared then some (r.1.atomWrite u e pa n new true, c.nextLane true) else some (r.1.poisonedLane c a.lane va)
            else some ((r.1.atomWrite u e pa n new false).landResult c a.lane (if c.op == .ared then [] else r.2.1) false, c.nextLane false)

/-- ADCAS and AXMV: both elements are checked and translated before either is read (R260, R261). AXMV reads xa alone: poison of xb does not reach it, and
a page with POISON drops its write of xb (R264, spec/10 R211). As in stepAtm, the reads may come in a step of their own (R254).
Rests on notes/assumptions 113 (DEDUCED). -/
def State.stepPair (s : State) (c : Cmd) (a : AtomLane) (ch : ElemChoice) : Option (State × Cmd) :=
  let n := atomWidth c.aty.toNat
  match c.laneElem n a.xa.toNat, c.laneElem n a.xb.toNat with
  | .error f, _ => some (s, c.stopAt f.1 f.2)
  | _, .error f => some (s, c.stopAt f.1 f.2)
  | .ok (some va), .ok (some vb) =>
    match s.translateAt s.team.core s.team.ctx va .atomic ch.useTlb with
    | (s1, .error f) => some (s1, c.stopAt f va)
    | (s1, .ok ea) =>
      match s1.translateAt s.team.core s.team.ctx vb .atomic ch.useTlb with
      | (s2, .error f) => some (s2, c.stopAt f vb)
      | (s2, .ok eb) =>
        let pa := ea.addr va
        let pb := eb.addr vb
        if ea.space ≠ .device then some (s2, c.stopAt 0x0C5 va)
        else if eb.space ≠ .device then some (s2, c.stopAt 0x0C5 vb)
        else if s.homeBusy (ea.home pa) || s.homeBusy (eb.home pb) then none
        else if s.team.poolTouched (c.resultAt a.lane) c.resultBytes then some (s2, c.stopAt 0x092 va)
        else
          let mixed := s2.mixedScope .home pa n || s2.mixedScope .home pb n
          let now := Memory.readBytes s2.mem pa n ++ Memory.readBytes s2.mem pb n
          let read := match (if mixed then c.half else none) with | some b => b | none => now
          let oa := ofBytes (read.take n)
          let ob := ofBytes (read.drop n)
          let part (v : BitVec 128) (k : Nat) : Nat := v.toNat / 2 ^ (8 * n * k) % 2 ^ (8 * n)
          let s3 := ((s2.count 0x08 (2 * n)).noteUse .home pa n).noteUse .home pb n
          if !(mixed && c.half.isSome) && (ea.poison || s2.homePoisoned pa n || (c.op == .adcas && (eb.poison || s2.homePoisoned pb n))) then
            some (s3.poisonedLane c a.lane va)
          else if ch.apart && c.half.isNone then some (s2, { c with half := some now })
          else if c.op == .adcas then
            let hit := if pa = pb then oa = part a.c 0 ∧ oa = part a.c 1 else oa = part a.c 0 ∧ ob = part a.c 1
            let s4 := if hit then (s3.homeLe (some (ea.tag pa)) pa n (part a.b 0)).homeLe (some (eb.tag pb)) pb n (part a.b 1) else s3
            some (s4.landResult c a.lane (toBytes n oa ++ toBytes n ob) false, c.nextLane false)
          else
            let r := if eb.poison then s3.pagePoison c vb else (s3.homeLe (some (eb.tag pb)) pb n oa, c)
            some ((r.1.homeLe (some (ea.tag pa)) pa n (part a.b 0)).landResult c a.lane (toBytes n oa) false, r.2.nextLane false)
  | _, _ => some (s.landZero c a.lane)

/-- The next step of a command. -/
def State.stepCmd (s : State) (c : Cmd) (ch : ElemChoice) : Option (State × Cmd) :=
  match c.op with
  | .cpack => s.stepPack c ch
  | .cunpk => s.stepUnpack c ch
  | .spill => s.stepSpill c ch
  | .atm | .ared => match c.lanes[c.pos]? with | some a => s.stepAtm c a ch | none => none
  | .adcas | .axmv => match c.lanes[c.pos]? with | some a => s.stepPair c a ch | none => none
  | _ => s.stepCopy c ch

/-! ## The engine's steps -/

/-- What a command writes outside the core's local storage (spec/12 R238). -/
def Cmd.writesOut (c : Cmd) : Bool := !(c.reads || c.op == .cunpk)

/-- A command with ORD has to wait for the commands that its group posted earlier (R193, R207). -/
def Team.behind (t : Team) (c : Cmd) : Bool :=
  dOrd c.w && !c.op.atomic && c.op != .spill &&
  (t.cmds.takeWhile fun x => !(x.gix == c.gix && x.seq == c.seq && x.sub == c.sub)).any fun x => x.live && x.gix == c.gix

/-- A command that may go on. -/
def Cmd.active (c : Cmd) : Bool := c.stat == .running && c.fault.isNone

/-- The team of an engine step is resident on a die that runs. -/
def State.engineRuns (s : State) : Bool := s.team.live && s.die.up && s.die.relock.isNone

/-- The engine performs the next elements of a command.
Rests on notes/assumptions 10 (DESIGN CHOICE). -/
def execCopyElementTranslate (t : TeamIx) (g : GrpIx) (seq : Word) (ch : ElemChoice) (s : State) : Host.Outcome State Fault Refusal :=
  let s0 := s.at t g
  match s0.team.findCmd g seq fun c => c.active && decide (c.pos < c.total) with
  | none => s.wait
  | some c =>
    if !s0.engineRuns || s0.team.behind c || (c.writesOut && s0.held) then s.wait
    else
      match s0.stepCmd c ch with
      | none => s.wait
      | some r =>
        let s1 := if r.2.stat == .overrun then r.1.endCmd r.2 .overrun else r.1.putCmd r.2
        .next { s1 with cur := s.cur, gix := s.gix }

/-- A replayable translation failure (R213). -/
def causeReplayable (c : Cause) : Bool := c == 0x080 || c == 0x081 || c == 0x082

/-- The stop of a command at an element: suspended with a replayable record, or ended in error with an asynchronous trap (R213). -/
def State.stopCmd (s : State) (c : Cmd) (cause : Cause) (addr : DWord) : State :=
  if causeReplayable cause then
    let c1 := { c with stat := .suspended, fault := none }
    ((s.sendReplay s.team.ctx { s.cmdRecord c cause addr with async := true } (some (.cmd s.cur s.gix c.seq))).putCmd c1).cmdEvent c1 2
  else (s.raiseAsync true (s.cmdRecord c cause addr)).endCmd c .error

/-- A failed translation, or another stop of the engine, is recorded. -/
def execTranslationFault (t : TeamIx) (g : GrpIx) (seq : Word) (s : State) : Host.Outcome State Fault Refusal :=
  let s0 := s.at t g
  match s0.team.findCmd g seq fun c => c.stat == .running && c.fault.isSome with
  | some c =>
    match c.fault with
    | some (cause, addr) => if s0.team.live then .next { s0.stopCmd c cause addr with cur := s.cur, gix := s.gix } else s.wait
    | none => s.wait
  | none => s.wait

/-- Rows of a counting command that have landed but are not counted yet (R208). -/
def Cmd.rowReady (c : Cmd) : Bool := c.counts && decide (c.rows < c.landed)

/-- The landed prefix of a counting command grows by a row. -/
def execCopyRowLanded (t : TeamIx) (g : GrpIx) (seq : Word) (s : State) : Host.Outcome State Fault Refusal :=
  let s0 := s.at t g
  match s0.team.findCmd g seq fun c => c.live && c.rowReady with
  | none => s.wait
  | some c =>
    if !s0.team.live then s.wait
    else
      let s1 := (s0.putCmd { c with rows := c.rows + 1 }).modTeam fun t =>
        let k : Fin 16 := Fin.ofNat 16 (dRctr c.w)
        { t with rowCnt := t.rowCnt.set k (t.rowCnt[k] + 1) }
      .next { s1 with cur := s.cur, gix := s.gix }

/-- A command whose elements are all performed ends ok or poisoned, and its landed rows are counted (R203, R206). -/
def execCommandEnd (t : TeamIx) (g : GrpIx) (seq : Word) (s : State) : Host.Outcome State Fault Refusal :=
  let s0 := s.at t g
  match s0.team.findCmd g seq fun c => c.active && decide (c.total ≤ c.pos) with
  | none => s.wait
  | some c =>
    if !s0.engineRuns || s0.team.behind c then s.wait
    else .next { s0.endCmd c (if c.pois then .poisoned else .ok) with cur := s.cur, gix := s.gix }

end Sys2Proof.Machine
end

