-- ==== Sys2Proof/Machine/Hub.lean ====
section
/-! DEFINITION. The hub's shared operations: owners of its records, its reads and writes of memory, pennant updates and counter arrivals
(spec/12 R244, spec/15 R298-R300, spec/16 R322, R329, spec/18 R356). -/

namespace Sys2Proof.Machine

/-! ## Ranges of a context (spec/16 R329) -/

/-- A range of hub records of a context. -/
inductive HubRange where
  | pennants | counters | slots
  deriving DecidableEq, Repr

def HubRange.off : HubRange → Nat
  | .pennants => 0x30 | .counters => 0x34 | .slots => 0x38

def Ctx.base (c : Ctx) (r : HubRange) : Nat := c.field r.off 2
def Ctx.count (c : Ctx) (r : HubRange) : Nat := c.field (r.off + 2) 2

/-- The valid context whose range holds record k (spec/18 R356). -/
def State.owner (s : State) (r : HubRange) (k : Nat) : Option CtxIx :=
  (List.finRange 256).find? fun c => s.ctxs[c].valid && decide (s.ctxs[c].base r ≤ k ∧ k < s.ctxs[c].base r + s.ctxs[c].count r)

/-- The function that serves a context's partition (spec/18 R357): VF p + 1 while it is enabled, else the PF.
Rests on notes/assumptions 68 (DEDUCED). -/
def State.vfOf (s : State) (c : CtxIx) : Nat :=
  let p := (s.ctx c).field 0x40 1
  if s.mgmt.vfOn.getLsbD p then p + 1 else 0

/-- An access or an interrupt that is dropped (spec/18 R356, R357). -/
def State.filtered (s : State) : State := { s with mgmt := { s.mgmt with filtered := s.mgmt.filtered + 1 } }

/-- A vector of a function interrupts; a masked one sets its pending bit (R357).
Rests on notes/assumptions 68 (DEDUCED). -/
def Mgmt.interrupt (m : Mgmt) (x : Nat × Nat) : Mgmt :=
  if m.msixMask.contains x then { m with msixPend := if m.msixPend.contains x then m.msixPend else x :: m.msixPend } else { m with msix := m.msix ++ [x] }

/-- The mask bit of a vector is written: a vector that is unmasked with its pending bit set interrupts, and the bit clears.
Rests on notes/assumptions 68 (DEDUCED). -/
def Mgmt.setMask (m : Mgmt) (x : Nat × Nat) (on : Bool) : Mgmt :=
  let m1 := { m with msixMask := if on then x :: m.msixMask.filter fun y => y != x else m.msixMask.filter fun y => y != x }
  if !on && m.msixPend.contains x then { m1 with msixPend := m.msixPend.filter fun y => y != x, msix := m.msix ++ [x] } else m1

/-- Raises an MSI-X vector of the function that serves a context; a number beyond its table is dropped and counted.
Rests on notes/assumptions 68 (DEDUCED). -/
def State.raiseMsix (s : State) (c : CtxIx) (v : Nat) : State :=
  if v < (if s.vfOf c = 0 then 2048 else 64) then { s with mgmt := s.mgmt.interrupt (s.vfOf c, v) } else s.filtered

/-- A record of the hub itself (spec/16 R319): only what R292 lists applies.
Rests on notes/assumptions 17 (DEDUCED). -/
def State.hubRecord (s : State) (c : CtxIx) (cause : Cause) (addr : DWord) : TrapRec :=
  { TrapRec.zero with
    cause := cause, ctx := BitVec.ofNat 16 c.val, part := BitVec.ofNat 8 ((s.ctx c).field 0x40 1), addr := addr, reft := s.reft }

/-! ## The hub's memory accesses -/

/-- The die whose L2 the hub's page-table walks read (notes/assumptions/41.md).
Rests on notes/assumptions 41 (DESIGN CHOICE). -/
def hubDie : DieIx := 0

/-- The requests of a span, each of one 64-byte sector, with their translations.
Rests on notes/assumptions 41 (DESIGN CHOICE). -/
def State.hubSpan (s : State) (c : CtxIx) (r : Right) : List (Nat × Nat) → Except (Cause × Nat) (List (Nat × Nat × TlbE))
  | [] => .ok []
  | (va, n) :: rest =>
    match s.translate hubDie c (va % 2 ^ 64) r with
    | .error f => .error (f, va)
    | .ok e => match s.hubSpan c r rest with | .error f => .error f | .ok l => .ok ((va % 2 ^ 64, n, e) :: l)

/-- Cuts [va, va+n) into requests of one 64-byte sector. -/
def hubSectors : (n va : Nat) → (fuel : Nat) → List (Nat × Nat)
  | 0, _, _ => []
  | _, _, 0 => []
  | n + 1, va, f + 1 =>
    let k := min (n + 1) (64 - va % 64)
    (va, k) :: hubSectors (n + 1 - k) (va + k) f

/-- Writes bytes at the home of a page, at the port of a host or peer page.
Rests on notes/assumptions 39 (DEDUCED), 117 (DEDUCED). -/
def State.hubPut (s : State) (e : TlbE) (pa : Nat) (b : List Byte) : State :=
  match e.space with
  | .device => (s.homeBytes (some (e.tag pa)) pa (b.map fun x => (x, false))).watch
  | .host => { s with hostMem := Memory.writeBytes s.hostMem pa b }
  | .peer _ => { s with peerMem := Memory.writeBytes s.peerMem pa b }

/-- The bytes at the home of a page. -/
def State.hubGet (s : State) (e : TlbE) (pa n : Nat) : List Byte :=
  match e.space with
  | .device => Memory.readBytes s.mem pa n
  | .host => Memory.readBytes s.hostMem pa n
  | .peer _ => Memory.readBytes s.peerMem pa n

/-- The hub writes bytes at a virtual address of a context. -/
def State.hubWrite (s : State) (c : CtxIx) (va : Nat) (b : List Byte) : Except (Cause × Nat) State :=
  match s.hubSpan c .write (hubSectors b.length va (b.length + 1)) with
  | .error f => .error f
  | .ok l =>
    .ok (l.foldl (fun (x : State × List Byte) r => (if r.2.2.poison then x.1 else x.1.hubPut r.2.2 (r.2.2.addr r.1) (x.2.take r.2.1), x.2.drop r.2.1)) (s, b)).1

/-- The hub's write of a ring or of a Streamer buffer (spec/16 R322): it fails where a page it reaches has POISON set, its home being poisoned, with
nothing written.
Rests on notes/assumptions 92 (DESIGN CHOICE). -/
def State.ringWrite (s : State) (c : CtxIx) (va : Nat) (b : List Byte) : Except (Cause × Nat) State :=
  match s.hubSpan c .write (hubSectors b.length va (b.length + 1)) with
  | .error f => .error f
  | .ok l => if l.any fun r => r.2.2.poison then .error (0x101, va) else s.hubWrite c va b

/-- The hub reads n bytes at a virtual address of a context. -/
def State.hubRead (s : State) (c : CtxIx) (va n : Nat) : Except (Cause × Nat) (List Byte) :=
  match s.hubSpan c .read (hubSectors n va (n + 1)) with
  | .error f => .error f
  | .ok l => .ok (l.flatMap fun r => s.hubGet r.2.2 (r.2.2.addr r.1) r.2.1)

/-- A number at a virtual address of a context. -/
def State.hubReadLe (s : State) (c : CtxIx) (va n : Nat) : Except (Cause × Nat) Nat :=
  match s.hubRead c va n with | .error f => .error f | .ok b => .ok (ofBytes b)

/-- True when a read of a hub span meets poison. -/
def State.hubPoisoned (s : State) (c : CtxIx) (va n : Nat) : Bool :=
  match s.hubSpan c .read (hubSectors n va (n + 1)) with
  | .error _ => false
  | .ok l => l.any fun r => r.2.2.poison || (r.2.2.space == .device && s.homePoisoned (r.2.2.addr r.1) r.2.1)

/-! ## Pennants (spec/12 R244-R247) -/

def State.pennant (s : State) (k : Nat) : Pennant := if h : k < 4096 then s.pennants[k] else Pennant.fresh

def State.setPennant (s : State) (k : Nat) (p : Pennant) : State := if h : k < 4096 then { s with pennants := s.pennants.set k p } else s

/-- A waiting PACQ looks at a pennant after an update: what it first finds true is kept, with the binding in force (R247). -/
def PacqWait.look (k : Nat) (p : Pennant) (w : PacqWait) : PacqWait :=
  if w.pen = k ∧ w.sat.isNone ∧ w.cond.holds p.ctr w.v then { w with sat := some (p.scope, p.regions) } else w

/-- One update of a pennant's counter, in its update order. -/
def State.updatePennant (s : State) (k : Nat) (f : DWord → DWord) : State :=
  let p := { s.pennant k with ctr := f (s.pennant k).ctr }
  { s.setPennant k p with pacqs := s.pacqs.map (PacqWait.look k p) }

/-! ## Completion counters (spec/15 R298-R300) -/

def State.counter (s : State) (k : Nat) : Counter := if h : k < 4096 then s.counters[k] else Counter.fresh

def State.setCounter (s : State) (k : Nat) (c : Counter) : State := if h : k < 4096 then { s with counters := s.counters.set k c } else s

/-- Re-arming (R299). -/
def Counter.rearm (c : Counter) (target : Word) : Counter :=
  { c with count := 0, target := target, status := 0, retired := 0, done := 0, worst := 1 }

def State.rearm (s : State) (k : Nat) (target : Word) : State := s.setCounter k ((s.counter k).rearm target)

/-- A counter as it completes (R300): its status and its time. -/
def Counter.complete (c : Counter) (status : Byte) (now : DWord) : Counter := { c with status := status, done := now }

/-- The steps of a counter that has completed, from its release on and before the arrival at its parent (R300): the release at its SCOPE, the memory write,
the pennant. A graph whose counter completes is complete (R302).
Rests on notes/assumptions 42 (DEDUCED). -/
def State.completeCounter (s : State) (k : Nat) (c : Counter) : State :=
  let s1 : State := { s.hubRelease c.scope.toNat with graphs := s.graphs.map fun g => if g.cnt = k then { g with finished := true } else g }
  match s1.owner .counters k with
  | none => s1
  | some x =>
    let s2 := if c.act.getLsbD 0 then
        match s1.hubWrite x c.waddr.toNat (toBytes 8 c.wval.toNat ++ [c.status, 0] ++ toBytes 6 c.retired.toNat) with
        | .ok y => y
        | .error _ => s1.sendFatal x (s1.hubRecord x 0x1CA c.waddr)
      else s1
    if c.act.getLsbD 3 then s2.updatePennant ((s2.ctx x).base .pennants + c.pen.toNat) fun v => v + 1 else s2

/-- Step 6 of a completion: the vector. -/
def State.signalCounter (s : State) (k : Nat) (c : Counter) : State :=
  match s.owner .counters k with
  | some x => if c.act.getLsbD 2 then s.raiseMsix x c.msix.toNat else s
  | none => s

/-- The parent of a counter, as an absolute number, when its completion arrives there. -/
def State.parentOf (s : State) (k : Nat) (c : Counter) : Option Nat :=
  if c.act.getLsbD 1 && c.parent != 0xFFFF then (s.owner .counters k).map fun x => (s.ctx x).base .counters + c.parent.toNat else none

/-- An arrival (R300): status and retired teams; the counter that it completes arrives at its parent, once its release has completed.
Rests on notes/assumptions 42 (DEDUCED). -/
def State.arriveCtr (s : State) (k : Nat) (status : Byte) (retired : Nat) : (fuel : Nat) → State
  | 0 => s
  | n + 1 =>
    let c := s.counter k
    if c.status ≠ 0 then
      match s.owner .counters k with
      | some x => s.modCtx x fun y => { y with ignored := y.ignored + 1 }
      | none => s
    else
      let worst := if c.worst.toNat < status.toNat then status else c.worst
      let total := min (2 ^ 48 - 1) (c.retired.toNat + retired)
      let s1 := s.setCounter k { c with count := c.count + 1, worst := worst, retired := BitVec.ofNat 64 total }
      if c.count + 1 = c.target then
        let c2 := (s1.counter k).complete worst s.reft
        let s2 := s1.setCounter k c2
        if s.hubWaits c.scope.toNat then { s2 with completing := s2.completing ++ [(k, c2)] }
        else
          let s3 := s2.completeCounter k c2
          (match s3.parentOf k c2 with | some p => s3.arriveCtr p worst total n | none => s3).signalCounter k c2
      else s1

/-- An arrival at a counter and at every parent that completes with it. -/
def State.arrival (s : State) (k : Nat) (status : Byte) (retired : Nat) : State := s.arriveCtr k status retired 4097

/-- The steps of R300 from the release on, to the vector. -/
def State.endCompletion (s : State) (k : Nat) (c : Counter) : State :=
  let s1 := s.completeCounter k c
  (match s1.parentOf k c with | some p => s1.arrival p c.status c.retired.toNat | none => s1).signalCounter k c

/-- The completed counters whose release has nothing left to wait for go on with their steps (R300, R236).
Rests on notes/assumptions 42 (DEDUCED). -/
def State.endCompletions (s : State) : State :=
  if s.completing.isEmpty then s
  else
    let go (x : Nat × Counter) : Bool := !s.hubWaits x.2.scope.toNat
    (s.completing.filter go).foldl (fun s x => s.endCompletion x.1 x.2) { s with completing := s.completing.filter fun x => !go x }

end Sys2Proof.Machine
end

