-- ==== Sys2Proof/Machine/Order.lean ====
section
/-! DEFINITION. The scalar ordering words: FENCE, the pennant words, WAITA and RCOMB (spec/12 R236-R250, spec/13 R267), and SPRESIZE (spec/08 R152). -/

namespace Sys2Proof.Machine

/-! ## Waiting for what was posted earlier (R238) -/

/-- CMDSEQ when the ordering word at SPC first issued. -/
def Group.fenceSeq (g : Group) : Word := match g.fence with | some (spc, seq) => if spc = g.spc then seq else g.cmdSeq | none => g.cmdSeq

/-- A command that the group posted before the ordering word issued, and that has not ended. -/
def State.earlier (s : State) : Bool :=
  s.team.cmds.any fun c => c.live && c.gix == s.gix && decide ((s.grp.fenceSeq - c.seq).toNat < 2 ^ 31)

/-- The ordering word waits, remembering what it waits for. -/
def State.fenceWait (s : State) : Host.Outcome State Fault Refusal :=
  (s.modGrp fun g => { g with fence := some (g.spc, g.fenceSeq) }).wait

/-- The ordering word is past its waits. -/
def State.fenceDone (s : State) : State := s.modGrp fun g => { g with fence := none }

/-- The trap of a push toward a lost home (R250). -/
def State.lostPush (s : State) (lost : Bool) (spc : Word) : State := if lost then s.raiseAsync false { s.record 0x084 with spc := spc } else s

/-- A region test that everything meets. -/
def anyEntry : Comb → Bool := fun _ => true

/-! ## FENCE (R237-R240) -/

/-- The release part waits for earlier commands; then the parts that the order names run. A push or a write-back waits for a home that relocks, but an
acqrel fence at cluster scope or wider does not wait for its push (R238). An acquire reports no lost home (R250). -/
def State.fenceWord (s : State) (scope : Nat) (rel acq both : Bool) : Host.Outcome State Fault Refusal :=
  let c := s.team.core
  let homes := s.pushHomes c scope anyByte anyEntry
  let apart := both && decide (2 ≤ scope)
  if rel && s.earlier then s.fenceWait
  else if !apart && s.pushWaits (if rel then homes else s.acquireHomes c scope) then s.fenceWait
  else
    let s1 := if apart then s.depart c scope { team := s.cur, grp := s.gix, spc := s.grp.spc } else if rel then s.pushScope c scope else s
    let s2 := if acq then s1.acquireScope c scope else s1
    let s3 := (s2.lostPush (rel && s.pushLost homes) s.grp.spc).fenceDone
    .next ((if scope = 0 then s3 else s3.modTeam fun t => t.fencePast (s.gix, false) acq rel).advance 4)

def execFenceAcq (x : BitVec 3) (s : State) : Host.Outcome State Fault Refusal := s.fenceWord x.toNat false true false

def execFenceRel (x : BitVec 3) (s : State) : Host.Outcome State Fault Refusal := s.fenceWord x.toNat true false false

def execFenceAcqrel (x : BitVec 3) (s : State) : Host.Outcome State Fault Refusal := s.fenceWord x.toNat true true true

def execFenceSc (x : BitVec 3) (s : State) : Host.Outcome State Fault Refusal := s.fenceWord x.toNat true true false

/-! ## Pennants (R245-R248) -/

/-- The hub's number of the pennant that a register names, or none under cause 0x158. -/
def State.penOf (s : State) (v : Word) (high : Nat) : Option Nat :=
  let c := s.ctx s.team.ctx
  if bitsOf v high (32 - high) = 0 ∧ bitsOf v 0 12 < c.count .pennants then some (c.base .pennants + bitsOf v 0 12) else none

/-- Region i of a PBIND: refused, empty, or a base and the logarithm of its size. -/
def State.bindRegion (s : State) (d : Reg) (i : Nat) : Option (Option (Nat × Nat)) :=
  let lo := s.sr (d + BitVec.ofNat 8 (2 * i))
  let hi := s.sr (d + BitVec.ofNat 8 (2 * i + 1))
  let k := bitsOf lo 0 6
  let va := hi.toNat * 2 ^ 32 + lo.toNat / 256 * 256
  if bitsOf lo 6 2 ≠ 0 then none
  else if k = 0x3F then some none
  else if 40 < k ∨ va % 2 ^ (8 + k) ≠ 0 then none
  else some (some (va, 8 + k))

def execPbind (d a : Reg) (n : BitVec 2) (s : State) : Host.Outcome State Fault Refusal :=
  let v := s.sr a
  let rs := (List.range (n.toNat + 1)).map fun i => s.bindRegion d i
  let scope := bitsOf v 12 3
  match s.penOf (v &&& 0xFFFF8FFF) 12 with
  | none => s.scalarTrap0 0x158
  | some k =>
    if scope = 0 ∨ 5 < scope ∨ rs.any Option.isNone then s.scalarTrap0 0x159
    else .next ((s.setPennant k { s.pennant k with scope := scope, regions := rs.filterMap fun r => r.join }).advance 4)

/-- A PREL: earlier commands end, the regions are pushed at the pennant's scope, and the counter is updated (R246). -/
def State.prel (s : State) (a b : Reg) (f : DWord → DWord → DWord) : Host.Outcome State Fault Refusal :=
  match s.penOf (s.sr a) 12 with
  | none => s.scalarTrap0 0x158
  | some k =>
    let p := s.pennant k
    let c := s.team.core
    let t := s.regionTable s.dieIx s.team.ctx p.regions
    let inside := inRegions t
    let homes := s.pushHomes c p.scope (fun x => inside x.pa) fun e => e.parts.any fun q => inside q.pa
    if s.earlier || s.held then s.fenceWait
    else if s.pushWaits homes then s.fenceWait
    else
      let v := s.sr64 b
      .next (((((s.pushRegions c p.scope inside).updatePennant k fun x => f x v).lostPush (s.pushLost homes) s.grp.spc).fenceDone).advance 4)

def execPrelAdd (a b : Reg) (s : State) : Host.Outcome State Fault Refusal := s.prel a b fun x v => x + v

def execPrelSet (a b : Reg) (s : State) : Host.Outcome State Fault Refusal := s.prel a b fun _ v => v

/-- The waiting PACQ of the group in hand. -/
def State.myPacq (s : State) : Option PacqWait := s.pacqs.find? fun p => p.team == s.cur && p.grp == s.gix

/-- The end of a PACQ whose condition an update satisfied: it invalidates the regions and goes on (R247). -/
def State.finishPacq (s : State) (scope : Nat) (regions : List (Nat × Nat)) : Host.Outcome State Fault Refusal :=
  let inside := inRegions (s.regionTable s.dieIx s.team.ctx regions)
  let c := s.team.core
  if s.pushWaits (s.pushHomes c scope (fun x => inside x.pa) fun _ => false) then s.wait
  else .next ((s.invRegions c scope inside).dropWaits.advance 4)

/-- A PACQ: the hub evaluates its condition at arrival and after every update. -/
def State.pacq (s : State) (cond : Cond) (a b : Reg) : Host.Outcome State Fault Refusal :=
  match s.penOf (s.sr a) 12 with
  | none => s.scalarTrap0 0x158
  | some k =>
    match s.myPacq with
    | some p => (match p.sat with | some x => s.finishPacq x.1 x.2 | none => s.wait)
    | none =>
      let w := ({ team := s.cur, grp := s.gix, pen := k, cond := cond, v := s.sr64 b, sat := none } : PacqWait).look k (s.pennant k)
      let s1 : State := { s with pacqs := s.pacqs ++ [w] }
      match w.sat with
      | some x => s1.finishPacq x.1 x.2
      | none => s1.wait

def execPacqGe (a b : Reg) (s : State) : Host.Outcome State Fault Refusal := s.pacq .ge a b

def execPacqEq (a b : Reg) (s : State) : Host.Outcome State Fault Refusal := s.pacq .eq a b

def execPacqNe (a b : Reg) (s : State) : Host.Outcome State Fault Refusal := s.pacq .ne a b

/-- A step in the place of a group of a team that runs; the stream in hand stays. -/
def State.eventAt (s : State) (t : TeamIx) (g : GrpIx) (f : State → Host.Outcome State Fault Refusal) : Host.Outcome State Fault Refusal :=
  let s0 := s.at t g
  if s0.team.live && s0.grp.phase == .running && s0.die.up && s0.die.relock.isNone && !s0.grp.stepping then
    match f s0 with
    | .next x => .next { x with cur := s.cur, gix := s.gix }
    | .fault e => .fault e
    | .refused r => .refused r
  else s.wait

/-- The satisfied PACQ of a group returns. -/
def execPacqSatisfied (t : TeamIx) (g : GrpIx) (s : State) : Host.Outcome State Fault Refusal :=
  s.eventAt t g fun s0 => match s0.myPacq with | some p => (match p.sat with | some x => s0.finishPacq x.1 x.2 | none => s0.wait) | none => s0.wait

def execPtest (d a : Reg) (s : State) : Host.Outcome State Fault Refusal :=
  match s.penOf (s.sr a) 12 with
  | none => s.scalarTrap0 0x158
  | some k => .next ((s.setSr64 d (s.pennant k).ctr).advance 4)

/-! ## WAITA (R249) -/

/-- The monitor of the group in hand.
Rests on notes/assumptions 101 (DEDUCED). -/
def State.myMonitor (s : State) : Option Monitor := s.monitors.find? fun m => m.team == s.cur && m.grp == s.gix

/-- A WAITA returns. -/
def State.endWaita (s : State) (q : BitVec 3) (v : Bool) : State := (s.dropWaits.setQ q v).advance 4

/-- The record of a WAITA whose translation fails: the group's latest CMDSEQ and element 0.
Rests on notes/assumptions 17 (DEDUCED). -/
def State.waitaRecord (s : State) (cause : Cause) (a : DWord) : TrapRec := { s.record cause with cmdseq := s.grp.cmdSeq, addr := a }

/-- A false result counts as event 0x0B, for the context on the core's die (spec/17 R349). -/
def State.countFalse (s : State) : State :=
  s.modDie s.dieIx fun d =>
    { d with waitaFalse := (s.team.ctx, (d.waitaFalse.lookup s.team.ctx).getD 0 + 1) :: d.waitaFalse.filter fun x => x.1 != s.team.ctx }

/-- A WAITA: it translates, arms its monitor, and waits for the word at home.
Rests on notes/assumptions 101 (DEDUCED). -/
def State.waita (s : State) (q : BitVec 3) (cond : Cond) (a b : Reg) : Host.Outcome State Fault Refusal :=
  let va := s.sr64 a
  if va.toNat % 8 ≠ 0 then s.scalarTrap0 0x15A
  else
    match s.grp.waitaRes, s.myMonitor with
    | some r, _ => .next (s.endWaita q r)
    | none, some m => if m.sat then .next (s.endWaita q true) else s.wait
    | none, none =>
      if s.grp.armed then s.wait
      else
        match s.translateAt s.team.core s.team.ctx va.toNat .read true with
        | (s1, .error f) =>
          if causeReplayable f then
            ((s1.sendReplay s.team.ctx { s1.waitaRecord f va with async := true } (some (.waita s.cur s.gix))).modGrp fun g => { g with armed := true }).wait
          else .next ((s1.raiseAsync false (s1.waitaRecord f va)).endWaita q false)
        | (s1, .ok e) =>
          let pa := e.addr va.toNat
          if e.space ≠ .device ∨ 1024 ≤ (s.monitors.filter fun m => m.die == e.home pa).length then .next (s1.countFalse.endWaita q false)
          else if s.homeBusy (e.home pa) then s.wait
          else if cond.holds (s.homeWord pa) (s.sr64 b) then .next (s1.endWaita q true)
          else ({ s1 with monitors := s1.monitors ++
                    [{ team := s.cur, grp := s.gix, die := e.home pa, pa := pa, cond := cond, v := s.sr64 b, sat := false }] } : State).wait

def execWaitaGe (q : BitVec 3) (a b : Reg) (s : State) : Host.Outcome State Fault Refusal := s.waita q .ge a b

def execWaitaEq (q : BitVec 3) (a b : Reg) (s : State) : Host.Outcome State Fault Refusal := s.waita q .eq a b

def execWaitaNe (q : BitVec 3) (a b : Reg) (s : State) : Host.Outcome State Fault Refusal := s.waita q .ne a b

/-- The satisfied monitor of a group lets its WAITA return true. -/
def execWaitaMonitorSatisfied (t : TeamIx) (g : GrpIx) (s : State) : Host.Outcome State Fault Refusal :=
  s.eventAt t g fun s0 =>
    match s0.myMonitor, s0.scalarInstr with
    | some m, .waitaGe q _ _ => if m.sat then .next (s0.endWaita q true) else s0.wait
    | some m, .waitaEq q _ _ => if m.sat then .next (s0.endWaita q true) else s0.wait
    | some m, .waitaNe q _ _ => if m.sat then .next (s0.endWaita q true) else s0.wait
    | _, _ => s0.wait

/-! ## Combining slots (spec/13 R266-R268) -/

def State.slot (s : State) (k : Nat) : Slot := if h : k < 256 then s.slots[k] else Slot.zero

def State.setSlot (s : State) (k : Nat) (x : Slot) : State := if h : k < 256 then { s with slots := s.slots.set k x } else s

def execRcomb (a b : Reg) (s : State) : Host.Outcome State Fault Refusal :=
  let v := s.sr a
  let c := s.ctx s.team.ctx
  let k := c.base .slots + v.toNat
  if 256 ≤ v.toNat ∨ c.count .slots ≤ v.toNat then s.scalarTrap0 0x15C
  else if !(s.slot k).armed then s.scalarTrap0 0x15B
  else if s.held then s.wait
  else
    let x := s.slot k
    .next ((s.setSlot k { x with contribs := x.contribs ++ [s.sr64 b], count := min (x.contribs.length + 1) x.expect }).advance 4)

/-- A contribution as its operation reads it. -/
def slotValue (op : Nat) (v : DWord) : Nat := if op = 1 then v.toNat % 2 ^ 32 else v.toNat

/-- A round completes (R268): the result is written at its home, then the pennant is released; a failed write disarms the slot.
Rests on notes/assumptions 102 (DEDUCED). -/
def execRcombRoundComplete (k : Fin 256) (order : List Nat) (s : State) : Host.Outcome State Fault Refusal :=
  let x := s.slots[k]
  match s.owner .slots k.val with
  | none => s.wait
  | some c =>
    if !x.armed || decide (x.contribs.length < x.expect) then s.wait
    else
      let round := (x.contribs.take x.expect).map (slotValue x.op)
      let rest := x.contribs.drop x.expect
      match s.hubWrite c x.resaddr.toNat (toBytes 8 (combineAll x.op round x.expect order)) with
      | .error _ => .next ((s.setSlot k.val { x with armed := false }).sendFatal c (s.hubRecord c 0x15D x.resaddr))
      | .ok s1 =>
        let s2 := if x.penen then s1.updatePennant ((s1.ctx c).base .pennants + x.pen) fun v => v + 1 else s1
        .next (s2.setSlot k.val { x with round := x.round + 1, contribs := rest, count := min rest.length x.expect })

/-! ## SPRESIZE (spec/08 R152) -/

/-- The resident teams of a core. -/
def State.residents (s : State) (c : CoreIx) : List Team := s.teams.toList.filter fun t => t.live && t.core == c

/-- The bytes of core SRAM that the scratchpad holds under n ways (spec/08 R150). -/
def spadBytes (n : Nat) : Nat := 4 * (32768 * (12 - n))

/-- Why SPRESIZE refuses a way count: too many ways, an allocation in the way, or race detection without its ways.
Rests on notes/assumptions 94 (DEDUCED). -/
def State.resizeRefused (s : State) (c : CoreIx) (n : Nat) : Bool :=
  decide (6 < n) || (decide (s.cores[c].ways < n) && (s.residents c).any fun t => decide (spadBytes n < t.spadBase + t.spadSize)) ||
  (decide (n < s.cores[c].ways) && decide (n < 3) && (s.residents c).any fun t => t.race)

/-- The ways from n upward are given up: their entries go home, their dirty bytes to L2, and they are invalid. -/
def State.giveUpWays (s : State) (c : CoreIx) (n : Nat) : State :=
  (((s.sendRed c (fun e => decide (n ≤ e.way)) []).invL1 c fun b => decide (n ≤ b.way))).modCore c fun x => { x with ways := n }

/-- Rests on notes/assumptions 94 (DEDUCED). -/
def execSpresize (q : BitVec 3) (a : Reg) (s : State) : Host.Outcome State Fault Refusal :=
  let n := (s.sr a).toNat
  let c := s.team.core
  if s.resizeRefused c n then .next ((s.setQ q false).advance 4) else .next (((s.giveUpWays c n).setQ q true).advance 4)

end Sys2Proof.Machine
end

