-- ==== Sys2Proof/Machine/Launch.lean ====
section
/-! DEFINITION. Launches and their bodies, object records, acceptance, cancelling, graph nodes, completion, and the words LNCH, CNTR and CNCL
(spec/15 R293-R307, spec/02 R51, R53). -/

namespace Sys2Proof.Machine

/-- The number in n bytes from an offset of a byte string. -/
def field (b : List Byte) (off n : Nat) : Nat := ofBytes ((b.drop off).take n)

/-- True when n bytes from an offset are zero. -/
def zeroAt (b : List Byte) (off n : Nat) : Bool := ((b.drop off).take n).all fun x => x == 0

/-- What the hub gets from a read and its checks: a value, a rejection, or a translation that failed at an address. -/
inductive Got (α : Type) where
  | got (a : α)
  | bad
  | unread (cause : Cause) (va : Nat)

/-- A read of the hub through a context's translation. -/
def State.fetchBytes (s : State) (c : CtxIx) (va n : Nat) : Got (List Byte) :=
  match s.hubRead c va n with
  | .ok b => .got b
  | .error (f, a) => .unread f a

/-! ## Object records (spec/02 R51, R53) -/

def Obj.ofBytes (b : List Byte) : Obj :=
  { stext := BitVec.ofNat 64 (field b 0 8), ssize := field b 8 4, entry := BitVec.ofNat 32 (field b 0x0C 4), lbase := field b 0x10 4, lwords := field b 0x14 4,
    groups := field b 0x40 1, vregs := 8 * field b 0x41 1, tiles := field b 0x42 1, accs := field b 0x43 1, htabs := field b 0x44 1,
    hoists := field b 0x45 1, bars := field b 0x46 1, spadG := field b 0x48 4, caps := (List.range 16).map fun k => field b (0x50 + k) 1 }

/-- The resource limits of R47. -/
def Obj.inLimits (o : Obj) (spadX : Nat) : Bool :=
  decide (1 ≤ o.groups ∧ o.groups ≤ 16) && decide (8 ≤ o.vregs ∧ o.vregs ≤ 256) && decide (o.tiles ≤ 32) && decide (o.accs ≤ 8) &&
  decide (o.htabs ≤ 4) && decide (o.hoists ≤ 16) && decide (o.bars ≤ 16) && decide (4096 * (o.spadG + spadX) ≤ 1572864)

/-- Vector-register granules of a team (spec/01 R13). -/
def Obj.granules (o : Obj) : Nat := o.groups * (o.vregs / 8)

/-! ## Bodies (R293, R294) -/

/-- Teams of a launch. -/
def Launch.total (l : Launch) : Nat := l.tdim[0].toNat * l.tdim[1].toNat * l.tdim[2].toNat

/-- The fields of a body that R293 gives a range, but for CODE's object, HANDLER and CNT.
Rests on notes/assumptions 49 (DESIGN CHOICE). -/
def bodyFieldsOk (b : List Byte) : Bool :=
  field b 0 1 == 1 && decide (field b 1 1 < 16) && decide (field b 2 1 < 4) && decide (1 ≤ field b 3 1 ∧ field b 3 1 ≤ 5) &&
  decide (1 ≤ field b 6 1 ∧ field b 6 1 ≤ 15) && zeroAt b 7 1 && zeroAt b 0x0A 6 &&
  decide (field b 0x10 4 < 2 ^ 31 ∧ field b 0x14 4 < 2 ^ 31 ∧ field b 0x18 4 < 2 ^ 31) && field b 0x20 8 % 64 == 0 &&
  decide (1 ≤ field b 0x34 4 ∧ field b 0x34 4 ≤ 2 ^ 24) && zeroAt b 0x38 8

def bodyFlag (b : List Byte) (k : Nat) : Bool := (field b 1 1 >>> k) % 2 == 1
def bodyCnt (b : List Byte) : Nat := field b 4 2
def bodyTarget (b : List Byte) : Word := BitVec.ofNat 32 (field b 0x34 4)

/-- A launch as its body and its object give it; the rest is filled in at acceptance. -/
def bodyLaunch (c : CtxIx) (base : Nat) (b : List Byte) (o : Obj) : Launch :=
  { id := 0, lid := 0, ctx := c, queue := none, node := none, after := [], prio := field b 2 1, scope := field b 3 1,
    cnt := if bodyCnt b = 0xFFFF then none else some (base + bodyCnt b), spc := 0, dieMask := BitVec.ofNat 4 (field b 6 1), obj := o,
    tdim := #v[BitVec.ofNat 32 (field b 0x10 4), BitVec.ofNat 32 (field b 0x14 4), BitVec.ofNat 32 (field b 0x18 4)],
    handler := if bodyFlag b 3 then some (BitVec.ofNat 32 (field b 0x1C 4)) else none, args := [], start := BitVec.ofNat 64 (field b 0x28 8),
    started := false, spadX := field b 0x30 4, race := bodyFlag b 1, raceTrap := bodyFlag b 2, next := 0, stopped := false, retired := 0, status := 1,
    coresInv := [], diesInv := [] }

/-- The checks of R294 on a body, with the read of its object's record.
Rests on notes/assumptions 49 (DESIGN CHOICE). -/
def State.parseBody (s : State) (c : CtxIx) (b : List Byte) : Got Launch :=
  let x := s.ctx c
  if !bodyFieldsOk b || decide (x.field 0x58 4 ≤ field b 8 2) then .bad
  else
    match s.fetchBytes c (x.field 0x48 8 + 128 * field b 8 2) 128 with
    | .unread f a => .unread f a
    | .bad => .bad
    | .got r =>
      let o := Obj.ofBytes r
      let h := field b 0x1C 4
      let spad := 4096 * (o.spadG + field b 0x30 4)
      if field r 0x18 1 % 2 = 1 && o.inLimits (field b 0x30 4) && decide (spad ≤ spadBytes (if bodyFlag b 1 then 3 else 2)) && decide (o.granules ≤ 256) &&
         h % 4 == 0 && decide (h < o.ssize)
      then .got (bodyLaunch c (x.base .counters) b o)
      else .bad

/-- A counter that still runs. -/
def State.running (s : State) (k : Nat) : Bool := (s.counter k).status == 0

/-- The LAUNCHID of the launch that is accepted next.
Rests on notes/assumptions 56 (UNVERIFIED). -/
def State.launchName (s : State) : Word := Config.launchName s.nextLid.toNat

/-- Puts a launch in the Work Distributor with a number and a LAUNCHID of its own.
Rests on notes/assumptions 56 (UNVERIFIED). -/
def State.accept (s : State) (l : Launch) : State :=
  { s with launches := s.launches ++ [{ l with id := s.nextId, lid := s.launchName }], nextId := s.nextId + 1, nextLid := s.nextLid + 1 }

/-- Launches and graphs of a queue that have not completed. -/
def State.queueWork (s : State) (q : QueueIx) : List Nat :=
  ((s.launches.filter fun l => l.queue == some q).map fun l => l.id) ++ ((s.graphs.filter fun g => g.queue == q && !g.finished).map fun g => g.id)

/-- What an ORD waits for has completed. -/
def State.ordDone (s : State) (after : List Nat) : Bool :=
  !(s.launches.any fun l => after.contains l.id) && !(s.graphs.any fun g => !g.finished && after.contains g.id)

/-- Entries of the ready pool in use: nodes and launches from the device that are not wholly dispatched (R302, R305).
Rests on notes/assumptions 53 (DESIGN CHOICE). -/
def State.poolUsed (s : State) : Nat := (s.launches.filter fun l => l.queue.isNone && (decide (l.next < l.total) || l.total == 0)).length

/-- A free entry of the ready pool.
Rests on notes/assumptions 53 (DESIGN CHOICE). -/
def State.poolFree (s : State) : Bool := decide (s.poolUsed < 4096)

/-! ## Samples that spill (spec/17 R340) -/

/-- The SAMPLE record of an entry. -/
def State.sampleRecord (s : State) (c : CoreIx) (x : Sample) : State :=
  s.emit x.ctx (some 3) c.val (some (dieOf c)) 0xFF 6
    (toBytes 4 x.launch.toNat ++ toBytes 4 x.pc.toNat ++ toBytes 4 x.blame.toNat ++
     toBytes 4 (x.count % 2 ^ 24 + 2 ^ 24 * x.reason.toNat + (if x.lane then 2 ^ 28 else 0)))

/-- Spills the entries of a core that meet p. -/
def State.spillSamples (s : State) (c : CoreIx) (p : Sample → Bool) : State :=
  let s1 := (s.cores[c].samples.filter fun x => p x.2).foldl (fun s x => s.sampleRecord c x.2) s
  s1.modCore c fun y => { y with samples := y.samples.filter fun x => !p x.2 }

/-- The entries of a launch spill at its end, on every core. -/
def State.spillLaunch (s : State) (lid : Word) : State := (List.finRange 160).foldl (fun s c => s.spillSamples c fun x => x.launch == lid) s

/-! ## Discarding a team (R307) -/

/-- Who waits for a reply belongs to a team. -/
def ReplyFor.ofTeam (t : TeamIx) (w : ReplyFor) : Bool :=
  match w with
  | .cmd x _ _ => x == t
  | .waita x _ => x == t
  | .lnch x _ => x == t
  | .queue _ => false
  | .saved _ _ _ _ => false

/-- Takes a team off its core: its waits and reply tags go, its resources are free. -/
def State.freeTeam (s : State) (t : TeamIx) : State :=
  let c := s.teams[t].ctx
  let s1 := (s.modCtx c fun x => { x with replies := x.replies.filter fun y => !y.2.ofTeam t }).modCore s.teams[t].core fun x =>
    { x with promoted := x.promoted.filter fun y => y.1 != t }
  { s1 with outgoing := s1.outgoing.map fun o => { o with by_ := o.by_.filter fun l => l.team != t }
            homeRed := s1.homeRed.map fun e => { e with out := e.out.filter fun l => l.team != t }
            monitors := s1.monitors.filter fun m => m.team != t, pacqs := s1.pacqs.filter fun p => p.team != t, teams := s1.teams.set t Team.zero }

/-- Discards a resident team: its commands are cancelled, its performed writes stand (R307). -/
def State.discardTeam (s : State) (t : TeamIx) : State :=
  let s1 := (s.teams[t].cmds.filter Cmd.live).foldl (fun s c => s.within t c.gix fun y => y.cmdEvent { c with stat := .cancelled } 1) s
  s1.freeTeam t

/-- The SPC of the LNCH that a launch comes from (spec/17 R338). -/
def State.launchSpc (s : State) (i : Nat) : Word := match s.launches.find? fun l => l.id == i with | some l => l.spc | none => 0

/-- The CMD records of the commands of a saved team that is ended. -/
def Team.endCmds (t : Team) (s : State) : State :=
  (t.cmds.filter Cmd.live).foldl (fun s c => s.savedEvent t.ctx { c with stat := .cancelled } 1) s

/-- Discards the saved teams that p names: their commands are cancelled (R307). -/
def State.dropSaved (s : State) (p : Saved → Bool) : State :=
  let s1 := (s.saved.filter p).foldl (fun s x => x.team.endCmds s) s
  { s1 with saved := s1.saved.filter fun x => !p x }

/-- The resident teams of the launches that p names. -/
def State.teamsOf (s : State) (p : Nat → Bool) : List TeamIx := (List.finRange 10240).filter fun t => s.teams[t].live && p s.teams[t].launch

/-! ## Completion (R300-R303) -/

/-- The counter where a launch arrives: its own, or its graph's. -/
def State.launchCounter (s : State) (l : Launch) : Option Nat :=
  match l.cnt, l.node with
  | some k, _ => some k
  | none, some (g, _) => (s.graphs.find? fun x => x.id == g).map fun x => x.cnt
  | none, none => none

/-- The successors of a node record (R302). -/
def nodeSuccs (r : List Byte) : List Nat := (List.range (field r 0x42 1)).map fun i => field r (0x44 + 2 * i) 2

/-- The hub decrements a node's entry of the node-state area; a node whose entry reaches 0 becomes ready.
Rests on notes/assumptions 54 (DESIGN CHOICE). -/
def State.releaseNode (s : State) (g : Graph) (n : Nat) : State :=
  let va := g.area.toNat + 4 * n
  match s.hubReadLe g.ctx va 4 with
  | .error _ => s
  | .ok v =>
    match s.hubWrite g.ctx va (toBytes 4 (v + 2 ^ 32 - 1)) with
    | .error _ => s
    | .ok s1 => if v = 1 ∧ n ∉ g.dropped then { s1 with readyNodes := s1.readyNodes ++ [(g.id, n)] } else s1

/-- After a node's launch has arrived: its successors. -/
def State.nodeDone (s : State) (node : Option (Nat × Nat)) : State :=
  match node with
  | none => s
  | some (g, n) =>
    match s.graphs.find? fun x => x.id == g with
    | none => s
    | some x => (nodeSuccs (x.recs.getD n [])).foldl (fun s m => s.releaseNode x m) s

/-- Graphs that are complete and that no launch or ready node belongs to any more are forgotten. -/
def State.tidyGraphs (s : State) : State :=
  { s with graphs := s.graphs.filter fun g =>
      !g.finished || (s.launches.any fun l => match l.node with | some (i, _) => i == g.id | none => false) || s.readyNodes.any fun x => x.1 == g.id }

/-- A launch has ended: it leaves the Work Distributor, its samples spill, it arrives at its counter, and its successors follow. The hub releases at the
SCOPE of a launch that has no teams (R303).
Rests on notes/assumptions 42 (DEDUCED). -/
def State.endLaunch (s : State) (l : Launch) : State :=
  let s0 := if l.total = 0 then s.hubRelease l.scope else s
  let s1 := ({ s0 with launches := s0.launches.filter fun x => x.id != l.id } : State).spillLaunch l.lid
  let s2 := match s.launchCounter l with
    | some k => s1.arrival k (BitVec.ofNat 8 l.status) l.retired
    | none => s1
  (s2.nodeDone l.node).tidyGraphs

/-- Every team of a launch has been dispatched or given up, none is resident or saved, and a launch of no team has reached its START after its ORD
wait (R301, R303). -/
def State.launchDone (s : State) (l : Launch) : Bool :=
  (l.stopped || decide (l.total ≤ l.next)) && (s.teamsOf fun i => i == l.id).isEmpty && !(s.saved.any fun x => x.team.launch == l.id) &&
  (decide (0 < l.total) || l.stopped || (s.ordDone l.after && (l.start == 0 || l.started))) && !(l.total == 0 && s.hubWaits l.scope)

def execLaunchComplete (i : Nat) (s : State) : Host.Outcome State Fault Refusal :=
  match s.launches.find? fun l => l.id == i with
  | none => s.wait
  | some l => if s.launchDone l then .next (s.endLaunch l) else s.wait

/-- REFT at the hub reaches a launch's START (R297, R303). -/
def execTeamStartTime (i : Nat) (s : State) : Host.Outcome State Fault Refusal :=
  match s.launches.find? fun l => l.id == i with
  | none => s.wait
  | some l =>
    if !l.started && decide ((s.reft - l.start).toNat < 2 ^ 63) then
      .next { s with launches := s.launches.map fun x => if x.id == i then { x with started := true } else x }
    else s.wait

/-- The oldest ready node enters the pool when an entry is free and its own counter, if it has one, is not running (R302). Where its argument block
cannot be read for good, its bytes are open (notes/assumptions/50.md).
Rests on notes/assumptions 50 (UNVERIFIED), 53 (DESIGN CHOICE). -/
def execNodeEntersPool (g n : Nat) (s : State) : Host.Outcome State Fault Refusal :=
  match s.readyNodes, s.graphs.find? fun x => x.id == g with
  | (a, b) :: rest, some x =>
    let r := x.recs.getD n []
    if a ≠ g ∨ b ≠ n ∨ !s.poolFree then s.wait
    else
      match s.parseBody x.ctx (r.take 64) with
      | .unread _ _ => s.wait
      | .bad => .next { s with readyNodes := rest }
      | .got l =>
        if match l.cnt with | some k => s.running k | none => false then s.wait
        else
          let args := match s.fetchBytes x.ctx (field r 0x20 8) 64 with
            | .got b => some b
            | .unread f a => if causeReplayable f then none else some ((List.range 64).map fun i => Config.unreadArgument (a + i))
            | .bad => none
          match args with
          | none => s.wait
          | some b =>
            let s1 := match l.cnt with | some k => s.rearm k (bodyTarget r) | none => s
            let first := field r 0x40 2 == 0
            .next ({ s1 with readyNodes := rest } |>.accept { l with args := b, node := some (g, n), after := if first then x.after else [] })
  | _, _ => s.wait

/-! ## Cancelling (R307) -/

/-- The parent that a counter's record names, by its number in the table. -/
def State.parentLink (s : State) (k : Nat) : Option Nat :=
  let p := (s.counter k).parent
  if p == 0xFFFF then none else (s.owner .counters k).map fun x => (s.ctx x).base .counters + p.toNat

/-- How many parent links lead from a counter to counter k, if they do. -/
def State.chainTo (s : State) (k : Nat) : (fuel : Nat) → Nat → Option Nat
  | 0, _ => none
  | f + 1, j => if j = k then some 0 else match s.parentLink j with | some p => (s.chainTo k f p).map fun n => n + 1 | none => none

/-- The affected counters with their depth: k, and the running ones below it. -/
def State.affected (s : State) (k : Nat) : List (Nat × Nat) :=
  (List.range 4096).filterMap fun j =>
    if j = k then some (j, 0) else if s.running j then (s.chainTo k 4097 j).map fun d => (j, d) else none

/-- The deepest first. -/
def deepFirst (l : List (Nat × Nat)) : List Nat :=
  let top := l.foldl (fun m x => max m x.2) 0
  (List.range (top + 1)).reverse.flatMap fun d => (l.filter fun x => x.2 == d).map fun x => x.1

/-- A running counter completes at once with status 2. -/
def State.cancelCounter (s : State) (k : Nat) : State :=
  if s.running k then
    let c := (s.counter k).complete 2 s.reft
    let s1 := s.setCounter k c
    if s.hubWaits c.scope.toNat then { s1 with completing := s1.completing ++ [(k, c)] } else s1.endCompletion k c
  else s

/-- The launches that a cancel of counters concerns. -/
def State.hitLaunches (s : State) (ks : List Nat) : List Launch :=
  s.launches.filter fun l =>
    (match l.cnt with | some c => ks.contains c | none => false) ||
    (match l.node with | some (g, _) => s.graphs.any fun x => x.id == g && ks.contains x.cnt | none => false)

/-- A node of a graph whose own counter is one of a list. -/
def State.nodeHit (s : State) (ks : List Nat) (g : Graph) (n : Nat) : Bool :=
  let k := field (g.recs.getD n []) 4 2
  k != 0xFFFF && ks.contains ((s.ctx g.ctx).base .counters + k)

/-- Cancels the work below a counter: teams, launches, and the ready and waiting nodes of affected graphs or with an affected counter of their own. -/
def State.cancelWork (s : State) (k : Nat) : State :=
  let hit := s.affected k
  let ks := hit.map fun x => x.1
  let ls := s.hitLaunches ks
  let ids := ls.map fun l => l.id
  let s1 : State :=
    { s with readyNodes := s.readyNodes.filter fun x => !(s.graphs.any fun g => g.id == x.1 && (ks.contains g.cnt || s.nodeHit ks g x.2))
             graphs := s.graphs.map fun g => { g with dropped := g.dropped ++ (List.range g.recs.length).filter fun n => s.nodeHit ks g n }
             launches := s.launches.filter fun l => !ids.contains l.id }
  let s2 := (s1.teamsOf fun i => ids.contains i).foldl (fun s t => s.discardTeam t) (s1.dropSaved fun x => ids.contains x.team.launch)
  let s3 := ls.foldl (fun s l => s.spillLaunch l.lid) s2
  ((deepFirst hit).foldl (fun s j => s.cancelCounter j) s3).tidyGraphs

/-! ## The words -/

/-- The counter that a CNCL names, or none under cause 0x1C5. -/
def State.cncTarget (s : State) (v : Word) : Option Nat :=
  let c := s.ctx s.team.ctx
  if v.getLsbD 31 then
    if bitsOf v 0 31 ≠ 0 then none
    else match s.launches.find? fun l => l.id == s.team.launch with | some l => s.launchCounter l | none => none
  else if bitsOf v 12 19 = 0 ∧ bitsOf v 0 12 < c.count .counters then some (c.base .counters + bitsOf v 0 12)
  else none

def execCncl (a : Reg) (s : State) : Host.Outcome State Fault Refusal :=
  match s.cncTarget (s.sr a) with
  | none => s.scalarTrap0 0x1C5
  | some k =>
    let mine := (s.hitLaunches ((s.affected k).map fun x => x.1)).any fun l => l.id == s.team.launch
    if mine then .next (s.cancelWork k) else .next ((s.cancelWork k).advance 4)

def execCntr (d a : Reg) (s : State) : Host.Outcome State Fault Refusal :=
  let v := s.sr a
  let c := s.ctx s.team.ctx
  let k := c.base .counters + bitsOf v 0 12
  let x := s.counter k
  let core := s.team.core
  let scope := x.scope.toNat
  let homes := s.pushHomes core scope anyByte anyEntry
  if 2 ≤ bitsOf v 30 2 ∨ bitsOf v 12 18 ≠ 0 ∨ c.count .counters ≤ bitsOf v 0 12 then s.scalarTrap0 0x1C5
  else
    let put (s : State) : State := (s.setSr d x.count).setSr (d + 1) (x.status.zeroExtend 32)
    if bitsOf v 30 2 = 0 then .next ((put s).advance 4)
    else if s.earlier || s.held || s.pushWaits homes then s.fenceWait
    else .next (((((put (s.pushScope core scope)).arrival k 1 0).lostPush (s.pushLost homes) s.grp.spc).fenceDone).advance 4)

/-! ### LNCH (R305) -/

/-- The word is past; what it held is forgotten. -/
def State.lnchDone (s : State) : State := s.modGrp fun g => { g with lnch := none, armed := false, waitaRes := none, fence := none }

/-- The trap of a LNCH, once a chain in progress has ended. -/
def State.lnchTrap (s : State) : Host.Outcome State Fault Refusal := if s.grp.chain.isSome then s.wait else s.lnchDone.scalarTrap0 0x1C7

/-- A body that R305 refuses. -/
def lnchBad (count : Nat) (b : List Byte) : Bool := bodyFlag b 0 || decide (count ≤ bodyCnt b)

/-- A read that failed: a replayable failure waits for its reply, any other is cause 0x1C7. -/
def State.lnchUnread (s : State) (f : Cause) (va : Nat) : Host.Outcome State Fault Refusal :=
  if causeReplayable f then
    ((s.sendReplay s.team.ctx { s.record f with async := true, cmdseq := s.grp.cmdSeq, addr := BitVec.ofNat 64 va } (some (.lnch s.cur s.gix))).modGrp fun g =>
      { g with armed := true }).wait
  else s.lnchTrap

/-- The body is read and checked: the word waits for the counter, reads the argument block and re-arms, then waits for an entry of the pool. -/
def State.lnchEnter (s : State) (b : List Byte) (args : Option (List Byte)) : Host.Outcome State Fault Refusal :=
  match s.parseBody s.team.ctx b with
  | .bad => s.lnchTrap
  | .unread f a => s.lnchUnread f a
  | .got l =>
    match args with
    | some x => if s.poolFree then .next ((s.lnchDone.accept { l with args := x, spc := s.grp.spc }).advance 4) else s.wait
    | none =>
      match l.cnt with
      | none => s.lnchTrap
      | some k =>
        if s.running k then s.wait
        else
          match s.fetchBytes s.team.ctx (field b 0x20 8) 64 with
          | .bad => s.wait
          | .unread f a => s.lnchUnread f a
          | .got x =>
            let s1 := s.rearm k (bodyTarget b)
            if s1.poolFree then .next ((s1.lnchDone.accept { l with args := x, spc := s.grp.spc }).advance 4)
            else (s1.modGrp fun g => { g with lnch := some (b, some x) }).wait

def execLnch (a : Reg) (s : State) : Host.Outcome State Fault Refusal :=
  let va := s.sr64 a
  let c := s.team.core
  let homes := s.pushHomes c 4 anyByte anyEntry
  if va.toNat % 64 ≠ 0 then s.scalarTrap0 0x1C6
  else if s.grp.waitaRes.isSome then s.lnchTrap
  else if s.grp.armed then s.wait
  else
    match s.grp.lnch with
    | some (b, x) => s.lnchEnter b x
    | none =>
      if s.earlier || s.held || s.pushWaits homes then s.fenceWait
      else
        let s1 := ((s.pushScope c 4).lostPush (s.pushLost homes) s.grp.spc).fenceDone
        match s1.fetchBytes s1.team.ctx va.toNat 64 with
        | .bad => s1.wait
        | .unread f x => s1.lnchUnread f x
        | .got b =>
          if lnchBad ((s1.ctx s1.team.ctx).count .counters) b then s1.scalarTrap0 0x1C7
          else (s1.modGrp fun g => { g with lnch := some (b, none) }).lnchEnter b none

end Sys2Proof.Machine
end

