-- ==== Sys2Proof/Machine/LaneConvert.lean ====
section
/-! DEFINITION. The conversion words (spec/05 R104-R111). -/

namespace Sys2Proof.Machine

/-- The source and destination formats in IMM32 (R104). -/
def fsrc (w : LaneWord) : Nat := (w.imm.extractLsb' 0 5).toNat
def fdst (w : LaneWord) : Nat := (w.imm.extractLsb' 8 5).toNat

/-- The block length of the scaled conversions (R104). -/
def blockLen (w : LaneWord) : Nat := if w.imm.getLsbD 16 then 32 else 16

/-- A source as a code of a format. -/
def State.fmtOperand (s : State) (w : LaneWord) (f : BitVec 10) (l : Fin 64) : Nat :=
  if fmtBits (fsrc w) = 64 then (s.srcW .unsigned w f l).toNat else (s.srcN w f l).toNat

/-- A conversion result in each executing lane, in a register or a pair as its format needs. -/
def State.laneCvt (s : State) (opc : Nat) (w : LaneWord) (f : State → Mask → Fin 64 → Nat × BitVec 5) : Host.Outcome State Fault Refusal :=
  if fmtBits (fdst w) = 64 then s.laneOp64 opc w fun s e l => let r := f s e l; (BitVec.ofNat 64 r.1, r.2)
  else s.laneOp32 opc w fun s e l => let r := f s e l; (BitVec.ofNat 32 r.1, r.2)

/-- One converted value as a register holds it. -/
def convertOne (w : LaneWord) (v : Nat) : Nat × BitVec 5 :=
  let r := convert (fsrc w) (fdst w) (subMode w.sub) (w.sub.getLsbD 3) v
  (fmtExtend (fdst w) r.1, r.2)

def execCvt (w : LaneWord) (s : State) : Host.Outcome State Fault Refusal := s.laneCvt 0x0F0 w fun s _ l => convertOne w (s.fmtOperand w w.srcA l)

/-- PK2: two values side by side, neither sign-extended (R107). -/
def execPk2 (w : LaneWord) (s : State) : Host.Outcome State Fault Refusal :=
  let c (v : Nat) : Nat × BitVec 5 := convert (fsrc w) (fdst w) (subMode w.sub) (w.sub.getLsbD 3) v
  s.laneOp32 0x0F3 w fun s _ l =>
    let lo := c (s.fmtOperand w w.srcA l)
    let hi := c (s.fmtOperand w w.srcB l)
    (BitVec.ofNat 32 (lo.1 + 2 ^ fmtBits (fdst w) * hi.1), lo.2 ||| hi.2)

/-- UPK2: the low value into the even register, the next into the odd one (R108). -/
def execUpk2 (w : LaneWord) (s : State) : Host.Outcome State Fault Refusal :=
  s.laneOp64 0x0F4 w fun s _ l =>
    let a := (s.srcN w w.srcA l).toNat
    let lo := convertOne w (a % 2 ^ fmtBits (fsrc w))
    let hi := convertOne w (a / 2 ^ fmtBits (fsrc w) % 2 ^ fmtBits (fsrc w))
    (BitVec.ofNat 64 (lo.1 + 2 ^ 32 * hi.1), lo.2 ||| hi.2)

/-! ## Scaled conversion (R109, R111) -/

/-- |x| of finite values compared: x < y. -/
def magLt (x y : Num) : Bool :=
  match x, y with
  | .fin _ m1 e1, .fin _ m2 e2 => numLt (.fin false m1 e1) (.fin false m2 e2)
  | _, _ => false

/-- ilog2 of a finite nonzero magnitude. -/
def numLog2 : Num → Int
  | .fin _ m e => e + Nat.log2 m
  | _ => 0

/-- True for a finite zero. -/
def numZero : Num → Bool
  | .fin _ m _ => m == 0
  | _ => false

def numFinite : Num → Bool
  | .fin _ _ _ => true
  | _ => false

/-- x times 2^n, exactly. -/
def numScale (x : Num) (n : Int) : Num :=
  match x with
  | .fin s m e => .fin s m (e + n)
  | y => y

/-- The lowest lane of the largest magnitude of a list, with that value. -/
def magMax : List (Nat × Num) → Option (Nat × Num)
  | [] => none
  | x :: r => some (r.foldl (fun a y => if magLt a.2 y.2 then y else a) x)

/-- The codec's record and codes for one block of values, by position: scale byte, special byte, codes, and each value's flags with those of the special
value (R109). The block is finite and not empty. -/
def quantBlock (fd : Nat) (mode : RMode) (xs : List (Nat × Num)) : Nat × Nat × List (Nat × Nat) × List (Nat × BitVec 5) :=
  match magMax xs with
  | none => (127, 0, [], [])
  | some (m, amax) =>
    let special := !numZero amax && fd == 14
    let s0 : Int :=
      if numZero amax then 0
      else if fd = 14 then
        let a := numLog2 amax - 8
        match magMax (xs.filter fun x => x.1 != m) with
        | some (_, a2) => if numZero a2 then a else max a (numLog2 a2 - 2)
        | none => a
      else numLog2 amax - (if fd = 13 then 8 else 15)
    let s := max s0 (-127)
    let t := if special then e4m3.ofNum mode true (numScale amax (-s)) else (0, 0)
    let q (x : Num) : Nat × BitVec 5 :=
      match floatFmt fd with
      | some f => let r := f.ofNum mode true (numScale x (-s)); (if fd = 14 ∧ r.1 = 8 then 0 else r.1, r.2)
      | none => (0, 0)
    let codes := xs.map fun x => (x.1, if special && x.1 == m then (8, (0 : BitVec 5)) else q x.2)
    ((s + 127).toNat, t.1, codes.map fun c => (c.1, c.2.1), (m, t.2) :: codes.map fun c => (c.1, c.2.2))

/-- What CVTQ gives to the lanes of block j: the word of each executing lane and the block's flags.
Rests on notes/assumptions 18 (DEDUCED). -/
def quantLanes (fd : Nat) (mode : RMode) (xs : List (Nat × Num)) : List (Nat × Nat) × List (Nat × BitVec 5) :=
  if xs.all fun x => numFinite x.2 then
    let (s, t, codes, fl) := quantBlock fd mode xs
    (codes.map fun c => (c.1, t * 65536 + s * 256 + c.2), fl)
  else (xs.map fun x => (x.1, 0xFF00), (xs.filter fun x => !numFinite x.2).map fun x => (x.1, flagNV))

def execCvtq (w : LaneWord) (s : State) : Host.Outcome State Fault Refusal :=
  s.laneWord w fun s1 e =>
    let block (j : Nat) : List (Nat × Nat) × List (Nat × BitVec 5) :=
      quantLanes (fdst w) (subMode w.sub)
        (((maskLanes e).filter fun l => l.val / (blockLen w) == j).map fun l => (l.val, fmtDecode (fsrc w) (s1.fmtOperand w w.srcA l)))
    let all := (List.range (64 / (blockLen w))).map fun j => let b := block j; (if b.1.isEmpty then [] else b.1, if b.1.isEmpty then [] else b.2)
    let codes := all.flatMap fun b => b.1
    (s1.modGrp fun g => g.result32 w e fun l => BitVec.ofNat 32 ((codes.lookup l.val).getD 0)).laneDone 0x0F1 w ((all.flatMap fun b => b.2).filter fun x => !(x.2 == 0))

/-- A block element's value from its code, scale and special bytes (R99). -/
def blockValue (fs c s t : Nat) : Num :=
  if s = 255 then .nan false
  else if fs = 14 ∧ c = 8 then numScale (e4m3.decode t) ((s : Int) - 127)
  else
    match floatFmt fs with
    | some f => numScale (f.decode c) ((s : Int) - 127)
    | none => .nan false

def execCvtd (w : LaneWord) (s : State) : Host.Outcome State Fault Refusal :=
  s.laneCvt 0x0F2 w fun s _ l =>
    let a := (s.srcN w w.srcA l).toNat
    let x := blockValue (fsrc w) (if (fsrc w) = 14 then a % 16 else a % 256) (a / 256 % 256) (a / 65536 % 256)
    match floatFmt (fdst w) with
    | some f => f.ofNum (subMode w.sub) (w.sub.getLsbD 3) x
    | none => (0, 0)

end Sys2Proof.Machine
end

