-- ==== Sys2Proof/Machine/Matrix.lean ====
section
/-! DEFINITION. The matrix words and the cluster matrix engine: posts, the arbiter, passes, zeroing, reading out and waiting (spec/14 R271-R290), and TSHAPE
(spec/08 R159). -/

namespace Sys2Proof.Machine

/-! ## Accumulators and format blocks -/

def Team.acc (t : Team) (k : Nat) : Acc := if h : k < 8 then t.accs[k] else Acc.zero

def Team.modAcc (t : Team) (k : Nat) (f : Acc → Acc) : Team := if h : k < 8 then { t with accs := t.accs.set k (f t.accs[k]) } else t

/-- The fields of a format block (R274). -/
def fbA (f : Word) : Nat := bitsOf f 0 5
def fbB (f : Word) : Nat := bitsOf f 8 5
def fbLen (f : Word) : Nat := if bitsOf f 16 1 = 1 then 32 else 16
def fbZ (f : Word) : Bool := bitsOf f 17 1 == 1

/-- An FP64 request (R275). -/
def fbWide (f : Word) : Bool := fbA f == 9 && fbB f == 9

def narrowFloat (n : Nat) : Bool := n == 0x0C || n == 0x0D
def byteInt (n : Nat) : Bool := n == 6 || n == 7
def scaledFloat (n : Nat) : Bool := n == 0x0C || n == 0x0D || n == 0x0E

/-- A pair of formats that R275 lists for the form. -/
def formatsAllowed (scaled : Bool) (a b : Nat) : Bool :=
  if scaled then scaledFloat a && scaledFloat b
  else (a == 0x0B && b == 0x0B) || (a == 0x0A && b == 0x0A) || (narrowFloat a && narrowFloat b) || (byteInt a && byteInt b) || (a == 9 && b == 9)

/-- The greatest K that R275 gives a pair of formats. -/
def kMax (a b : Nat) : Nat := if a = 9 then 32 else if a = 0x0A ∨ a = 0x0B then 128 else if a = 0x0E ∧ b = 0x0E then 512 else 256

/-- A format block that breaks R274 or names a pair that R275 does not list. -/
def blockBad (scaled : Bool) (f0 f1 : Word) : Bool :=
  bitsOf f0 18 14 != 0 || bitsOf f0 13 3 != 0 || bitsOf f0 5 3 != 0 || (!scaled && (bitsOf f0 16 1 != 0 || f1 != 0)) ||
  !formatsAllowed scaled (fbA f0) (fbB f0)

/-- K as a tile's shape gives it for a format (R272). -/
def TileShape.k (x : TileShape) (fmt : Nat) : Nat := 8 * x.rb / fmtBits fmt

/-- The record areas of a scaled request: base and bytes (R274). -/
def Team.recordAreas (t : Team) (ta tb : Nat) (f0 f1 : Word) : List (Nat × Nat) :=
  [(32 * bitsOf f1 0 16, 128 * (t.tile ta).shape.k (fbA f0) / fbLen f0), (32 * bitsOf f1 16 16, 128 * (t.tile tb).shape.k (fbB f0) / fbLen f0)]

/-- A tile that breaks R272 for a format. -/
def tileBad (x : TileShape) (fmt : Nat) : Bool := x.layout != 1 || x.rows != 64 || x.fmt != fmt

/-- The first check of R276 that a post fails. -/
def Team.mmaFault (t : Team) (scaled : Bool) (acc ta tb : Nat) (f0 f1 : Word) : Option Cause :=
  let a := (t.tile ta).shape
  let b := (t.tile tb).shape
  let k := a.k (fbA f0)
  if decide (t.obj.accs ≤ acc) || decide (t.obj.tiles ≤ ta) || decide (t.obj.tiles ≤ tb) || (fbWide f0 && decide (t.obj.accs ≤ acc + 1)) then some 0x180
  else if blockBad scaled f0 f1 || (scaled && (t.recordAreas ta tb f0 f1).any fun x => decide (t.spadSize < x.1 + x.2)) then some 0x181
  else if scaled && (t.recordAreas ta tb f0 f1).any fun x => t.poolTouched x.1 x.2 then some 0x14E
  else if tileBad a (fbA f0) || tileBad b (fbB f0) || k != b.k (fbB f0) || k % 32 != 0 || k == 0 || decide (kMax (fbA f0) (fbB f0) < k) ||
          (fbWide f0 && acc % 2 == 1) then some 0x182
  else none

/-- How a MOUT reads its accumulator: 0 FP32, 1 s32, 2 an FP64 pair (R285). -/
def moAk (c : Word) : Nat := bitsOf c 8 2
def moFmt (c : Word) : Nat := bitsOf c 0 5

/-- The accumulators of a request: FP64 requests take a pair (R275, R285). -/
def MxReq.accs (r : MxReq) : List Nat :=
  match r.kind with
  | .mma _ => if fbWide r.f0 then [r.acc, r.acc + 1] else [r.acc]
  | .mzero => [r.acc]
  | .mout _ => if moAk r.f0 = 2 then [r.acc, r.acc + 1] else [r.acc]

/-- The tiles that a request reads, and the tile that it writes. -/
def MxReq.readsTiles (r : MxReq) : List Nat := match r.kind with | .mma _ => [r.ta, r.tb] | _ => []
def MxReq.writesTile (r : MxReq) : List Nat := match r.kind with | .mout false => [r.ta] | _ => []

/-! ## Posting -/

/-- The entries of a cluster's reservation table in use (R279). -/
def State.mxEntries (s : State) (k : Fin 40) : Nat :=
  (s.teams.toList.map fun t => if t.live && clusterOf t.core == k then t.reqs.length else 0).sum

/-- The 32 bits of a scalar word. -/
def wordBits (i : Instr) : Word := match encode i with | some (.scalar w) => w | _ => 0

/-- Enters a request at the tail of its accumulators' queues, once the reservation table has a free entry. -/
def State.mxPost (s : State) (i : Instr) (kind : MxKind) (acc ta tb : Nat) (f0 f1 : Word) (kLen : Nat) (spec : Option (BitVec 3)) :
    Host.Outcome State Fault Refusal :=
  if 64 ≤ s.mxEntries (clusterOf s.team.core) then s.wait
  else
    let r : MxReq :=
      { age := s.team.mxAge, gix := s.gix, kind := kind, acc := acc, ta := ta, tb := tb, f0 := f0, f1 := f1, kLen := kLen, next := 0, spec := spec.isSome,
        prio := s.grp.mpri.toNat, starved := false, spc := s.grp.spc, word := wordBits i, post := s.tick, since := none }
    let arm (t : Team) : Team := match spec with
      | none => t
      | some q => r.accs.foldl (fun t k => t.modAcc k fun a => if a.pend.isSome then a else { a with pend := some (s.gix, q), pendAge := r.age }) t
    .next ((s.modTeam fun t => { arm t with reqs := t.reqs ++ [r], mxAge := t.mxAge + 1 }).advance 4)

/-- An MMA or MMAS form (R276, R282). -/
def State.mmaPost (s : State) (i : Instr) (scaled : Bool) (d : Reg) (c : BitVec 3) (a b : BitVec 5) (q : Option (BitVec 3)) :
    Host.Outcome State Fault Refusal :=
  let f0 := s.sr d
  let f1 := s.sr (d + 1)
  let t := s.team
  match t.mmaFault scaled c.toNat a.toNat b.toNat f0 f1 with
  | some x => s.scalarTrap0 x
  | none =>
    let go := s.mxPost i (.mma scaled) c.toNat a.toNat b.toNat f0 f1 ((t.tile a.toNat).shape.k (fbA f0)) q
    match q with
    | none => go
    | some q =>
      let pends := (if fbWide f0 then [c.toNat, c.toNat + 1] else [c.toNat]).map fun k => (t.acc k).pend
      if q = 7 ∨ (pends.any fun p => match p with | some (g, m) => g == s.gix && m != q | none => false) then s.scalarTrap0 0x183
      else if pends.any fun p => match p with | some (g, _) => g != s.gix | none => false then s.wait
      else go

def execMma (d : Reg) (c : BitVec 3) (a b : BitVec 5) (s : State) : Host.Outcome State Fault Refusal := s.mmaPost (.mma d c a b) false d c a b none

def execMmaSpec (d : Reg) (c : BitVec 3) (a : BitVec 5) (q : BitVec 3) (b : BitVec 5) (s : State) : Host.Outcome State Fault Refusal :=
  s.mmaPost (.mmaSpec d c a q b) false d c a b (some q)

def execMmas (d : Reg) (c : BitVec 3) (a b : BitVec 5) (s : State) : Host.Outcome State Fault Refusal := s.mmaPost (.mmas d c a b) true d c a b none

def execMmasSpec (d : Reg) (c : BitVec 3) (a : BitVec 5) (q : BitVec 3) (b : BitVec 5) (s : State) : Host.Outcome State Fault Refusal :=
  s.mmaPost (.mmasSpec d c a q b) true d c a b (some q)

def execMzero (c : BitVec 3) (s : State) : Host.Outcome State Fault Refusal :=
  if s.team.obj.accs ≤ c.toNat then s.scalarTrap0 0x180 else s.mxPost (.mzero c) .mzero c.toNat 0 0 0 0 0 none

/-- Priority (R280). -/
def execMpri (a : Reg) (s : State) : Host.Outcome State Fault Refusal :=
  let v := s.sr a
  if bitsOf v 2 30 ≠ 0 then s.scalarTrap0 0x186 else .next ((s.modGrp fun g => { g with mpri := v.extractLsb' 0 2 }).advance 4)

/-- The output formats of R285. -/
def outAllowed (ak fmt : Nat) (toSpad : Bool) : Bool :=
  match ak with
  | 0 => fmt == 8 || fmt == 0x0A || fmt == 0x0B || fmt == 0x0C || fmt == 0x0D
  | 1 => fmt == 1 || fmt == 5 || fmt == 7 || fmt == 8
  | 2 => fmt == 8 || (fmt == 9 && toSpad)
  | _ => false

/-- Bytes of an output row (R286). -/
def moRow (c : Word) : Nat := 8 * fmtBits (moFmt c)

/-- The row pitch of a MOUT.s (R285). -/
def moPitch (c : Word) : Nat := if bitsOf c 20 12 = 0 then moRow c else 16 * bitsOf c 20 12

/-- A control word that breaks R285, or an odd pair.
Rests on notes/assumptions 19 (DEDUCED). -/
def controlBad (acc : Nat) (c : Word) (toSpad : Bool) : Bool :=
  bitsOf c 17 3 != 0 || bitsOf c 10 1 != 0 || bitsOf c 5 3 != 0 || decide (5 ≤ bitsOf c 12 3) || !outAllowed (moAk c) (moFmt c) toSpad ||
  (!toSpad && bitsOf c 20 12 != 0) || (moAk c == 2 && acc % 2 == 1)

/-- The bytes from the first to the last of a MOUT.s. -/
def moSpan (c : Word) : Nat := 63 * moPitch c + moRow c

/-- The first check of R286 that a read-out fails; `dst` is the tile or the address.
Rests on notes/assumptions 19 (DEDUCED). -/
def Team.moutFault (t : Team) (acc : Nat) (c : Word) (toSpad : Bool) (dst : Nat) : Option Cause :=
  let x := (t.tile dst).shape
  if decide (t.obj.accs ≤ acc) || (moAk c == 2 && decide (t.obj.accs ≤ acc + 1)) || (!toSpad && decide (t.obj.tiles ≤ dst)) then some 0x180
  else if controlBad acc c toSpad then some 0x184
  else if toSpad then
    if dst % 16 != 0 || (bitsOf c 20 12 != 0 && decide (moPitch c < moRow c)) || decide (t.spadSize < dst + moSpan c) then some 0x184
    else if t.poolTouched dst (moSpan c) then some 0x14E
    else none
  else if x.rows != 64 || x.rb != moRow c || x.fmt != moFmt c then some 0x184
  else none

def execMout (d : Reg) (c : BitVec 3) (x : BitVec 5) (s : State) : Host.Outcome State Fault Refusal :=
  match s.team.moutFault c.toNat (s.sr d) false x.toNat with
  | some e => s.scalarTrap0 e
  | none => s.mxPost (.mout d c x) (.mout false) c.toNat x.toNat 0 (s.sr d) 0 0 none

def execMoutS (d : Reg) (c : BitVec 3) (b : Reg) (s : State) : Host.Outcome State Fault Refusal :=
  match s.team.moutFault c.toNat (s.sr d) true (s.sr b).toNat with
  | some e => s.scalarTrap0 e
  | none => s.mxPost (.moutS d c b) (.mout true) c.toNat 0 0 (s.sr d) (s.sr b) 0 none

/-! ## Waiting (R287) -/

/-- The age of the next request when the waiting word at SPC first issued. -/
def State.mxMark (s : State) : Word := match s.grp.fence with | some (spc, m) => if spc = s.grp.spc then m else s.team.mxAge | none => s.team.mxAge

/-- A plain request held back by a pending predicate of one of its accumulators, armed before it was posted (R279, R282). -/
def Team.pendHolds (t : Team) (r : MxReq) (p : GrpIx → Bool) : Bool :=
  !r.spec && r.accs.any fun k => match (t.acc k).pend with | some (g, _) => p g && decide (1 ≤ (r.age - (t.acc k).pendAge).toNat ∧ (r.age - (t.acc k).pendAge).toNat < 2 ^ 31) | none => false

/-- MWAIT on the accumulators that p names. -/
def State.mwait (s : State) (p : Nat → Bool) : Host.Outcome State Fault Refusal :=
  let awaited := s.team.reqs.filter fun r => (r.accs.any p) && decide (1 ≤ (s.mxMark - r.age).toNat ∧ (s.mxMark - r.age).toNat < 2 ^ 31)
  if awaited.any fun r => s.team.pendHolds r fun g => g == s.gix then s.scalarTrap0 0x185
  else if awaited.isEmpty then .next ((s.modGrp fun g => { g with fence := none }).advance 4)
  else (s.modGrp fun g => { g with fence := some (g.spc, s.mxMark) }).wait

/-- Rests on notes/assumptions 47 (DESIGN CHOICE). -/
def execMwait (c : BitVec 3) (s : State) : Host.Outcome State Fault Refusal :=
  if s.team.obj.accs ≤ c.toNat then s.scalarTrap0 0x180 else s.mwait fun k => k == c.toNat

def execMwaitAll (s : State) : Host.Outcome State Fault Refusal := s.mwait fun _ => true

/-- A shape pair that breaks R159 of spec/08. -/
def shapeBad (lo hi : Word) : Bool :=
  bitsOf hi 2 30 != 0 || decide (2 ≤ bitsOf hi 0 2) || bitsOf lo 21 11 != 0 || bitsOf lo 12 4 != 0 || decide (0x10 < bitsOf lo 16 5) ||
  decide (128 ≤ bitsOf lo 0 8) || decide (16384 < (bitsOf lo 0 8 + 1) * (16 * (bitsOf lo 8 4 + 1)))

/-- A request or a copy command of the team that names a tile and has not completed. -/
def Team.tileInUse (t : Team) (k : Nat) : Bool :=
  (t.reqs.any fun r => r.readsTiles.contains k || r.writesTile.contains k) ||
  t.cmds.any fun c => c.live && (c.op == .cten || c.op.listed) && dDk c.w == 1 && c.tileNo == k

def execTshape (d : Reg) (x : BitVec 5) (s : State) : Host.Outcome State Fault Refusal :=
  let lo := s.sr d
  let hi := s.sr (d + 1)
  if s.team.obj.tiles ≤ x.toNat then s.scalarTrap0 0x180
  else if shapeBad lo hi then s.scalarTrap0 0x144
  else if s.team.tileInUse x.toNat then s.wait
  else
    let shape : TileShape := { rows := bitsOf lo 0 8 + 1, rb := 16 * (bitsOf lo 8 4 + 1), fmt := bitsOf lo 16 5, layout := bitsOf hi 0 2 }
    .next ((s.modTeam fun t => t.modTile x.toNat fun y => { y with shape := shape }).advance 4)

/-! ## The accumulation rule (R277, R278) -/

/-- ∞ and NaN tests of exact values. -/
def numInf (neg : Bool) : Num → Bool
  | .inf n => n == neg
  | _ => false

/-- floor(p ÷ 2^q) of a finite value. -/
def numFloor (q : Int) (x : Num) : Int :=
  match x with
  | .fin neg m e =>
    let v : Int := if neg then -(m : Int) else m
    if q ≤ e then v * 2 ^ (e - q).toNat else v / 2 ^ (q - e).toNat
  | _ => 0

/-- The rounded sum v of a chunk's products (R277). -/
def chunkSum (ps : List Num) : Nat :=
  if ps.any Num.isNan then fp32.nan
  else if ps.any (numInf false) && ps.any (numInf true) then fp32.nan
  else if ps.any (numInf false) then fp32.withSign false (fp32.maxFin + 1)
  else if ps.any (numInf true) then fp32.withSign true (fp32.maxFin + 1)
  else
    match ps.filter fun p => !numZero p with
    | [] => 0
    | p :: r =>
      let e := r.foldl (fun m x => if m < numLog2 x then numLog2 x else m) (numLog2 p)
      let sum := (ps.map (numFloor (e - 44))).sum
      (fp32.round .rne false (decide (sum < 0)) sum.natAbs (e - 44)).1

/-- An FP32 element after one chunk. -/
def accFp32 (c : Nat) (xs : List (Num × Num)) : Nat := (fp32.add .rne c (chunkSum (xs.map fun x => (numMul x.1 x.2).1))).1

/-- An s32 element after one chunk. -/
def accInt (c : Nat) (xs : List (Int × Int)) : Nat := wrap 32 (signed 32 c + (xs.map fun x => x.1 * x.2).sum)

/-- An FP64 element after one chunk. -/
def accFp64 (c : Nat) (xs : List (Nat × Nat)) : Nat := xs.foldl (fun c x => (fp64.fma .rne x.1 x.2 c).1) c

/-! ## Operands of a pass (R271, R272, R274) -/

/-- The code of element k of a logical row (R95: the lower 4-bit element first). -/
def Tile.element (x : Tile) (fmt row k : Nat) : Nat :=
  let b := fmtBits fmt
  let v := ofBytes (x.bytesAt row (k * b / 8) ((b + 7) / 8))
  if b = 4 then v / 16 ^ (k % 2) % 16 else v

/-- The record of a scaled element: its scale and its special. -/
def Team.blockRecord (t : Team) (base kLen len row k : Nat) : Nat × Nat :=
  let v := t.spadRead (base + 2 * (row * (kLen / len) + k / len)) 2
  (v % 256, v / 256)

/-- A row's 32 factors of a chunk, as exact values. -/
def Team.factors (t : Team) (r : MxReq) (scaled : Bool) (side : Bool) (row chunk : Nat) : List Num :=
  let x := t.tile (if side then r.tb else r.ta)
  let fmt := if side then fbB r.f0 else fbA r.f0
  let base := 32 * (if side then bitsOf r.f1 16 16 else bitsOf r.f1 0 16)
  (List.range 32).map fun i =>
    let k := 32 * chunk + i
    let c := x.element fmt row k
    if scaled then
      let sp := t.blockRecord base r.kLen (fbLen r.f0) row k
      blockValue fmt c sp.1 sp.2
    else fmtDecode fmt c

/-- The integer factors of a chunk, and the codes of FP64 factors. -/
def Team.intFactors (t : Team) (r : MxReq) (side : Bool) (row chunk : Nat) : List Int :=
  let fmt := if side then fbB r.f0 else fbA r.f0
  (List.range 32).map fun i =>
    let c := (t.tile (if side then r.tb else r.ta)).element fmt row (32 * chunk + i)
    if fmtSigned fmt then signed 8 c else c

def Team.wideFactors (t : Team) (r : MxReq) (side : Bool) (row chunk : Nat) : List Nat :=
  (List.range 32).map fun i => (t.tile (if side then r.tb else r.ta)).element 9 row (32 * chunk + i)

/-- True when a word that a pass reads is poisoned: the chunk of both tiles, and the records that cover it. -/
def Team.passPoisoned (t : Team) (r : MxReq) (scaled : Bool) (chunk : Nat) : Bool :=
  let side (tile fmt base : Nat) : Bool :=
    (List.range 64).any fun row =>
      (t.tile tile).poisonedAt row (4 * fmtBits fmt * chunk) (4 * fmtBits fmt) ||
      (scaled && poisoned t.spadPoison (base + 2 * (row * (r.kLen / fbLen r.f0) + 32 * chunk / fbLen r.f0)) (2 * (32 / fbLen r.f0)))
  side r.ta (fbA r.f0) (32 * bitsOf r.f1 0 16) || side r.tb (fbB r.f0) (32 * bitsOf r.f1 16 16)

/-! ## Accumulator words -/

/-- The words that a request reads and writes: the shadow while it is speculative. -/
def Acc.words (a : Acc) (spec : Bool) : Vector Word 4096 := if spec then a.shadow else a.prim

def Acc.setWords (a : Acc) (spec : Bool) (v : Vector Word 4096) : Acc := if spec then { a with shadow := v } else { a with prim := v }

/-- The shadow receives a copy of the primary before the first speculative request executes (R282).
Rests on notes/assumptions 48 (DEDUCED). -/
def Acc.fill (a : Acc) : Acc := 
  if a.filled then a else { a with shadow := a.prim, filled := true, spoison := a.poison, serr := a.err }

def Acc.marked (a : Acc) (spec : Bool) : Bool := if spec then a.spoison else a.poison

/-- Sets or clears the mark; an error that has been found, or that new words overwrite, waits to be read no longer.
Rests on notes/assumptions 46 (DEDUCED). -/
def Acc.mark (a : Acc) (spec v : Bool) : Acc := if spec then { a with spoison := v, serr := false } else { a with poison := v, err := false }

/-- An uncorrectable error that the next pass or MOUT reads (R288). -/
def Acc.bad (a : Acc) (spec : Bool) : Bool := if spec then a.serr else a.err

def accZero : Vector Word 4096 := Vector.replicate 4096 0

/-- An FP64 element of a pair: row m, column n (R275). -/
def wideElem (lo hi : Vector Word 4096) (m n : Nat) : Nat :=
  let v := if n < 32 then lo else hi
  let i := 64 * m + 2 * (n % 32)
  (v.toList.getD i 0).toNat + 2 ^ 32 * (v.toList.getD (i + 1) 0).toNat

/-- The words of a request's accumulators after a pass over the words before it. -/
def Team.passWords (t : Team) (r : MxReq) (scaled : Bool) (chunk : Nat) (lo hi : Vector Word 4096) : Vector Word 4096 × Vector Word 4096 :=
  if fbWide r.f0 then
    let as := (List.range 64).map fun m => t.wideFactors r false m chunk
    let bs := (List.range 64).map fun n => t.wideFactors r true n chunk
    let out (m n : Nat) : Nat := accFp64 (wideElem lo hi m n) ((as.getD m []).zip (bs.getD n []))
    let half (n0 : Nat) : Vector Word 4096 := Vector.ofFn fun i => BitVec.ofNat 32 (out (i.val / 64) (n0 + i.val % 64 / 2) >>> (32 * (i.val % 2)))
    (half 0, half 32)
  else if byteInt (fbA r.f0) then
    let as := (List.range 64).map fun m => t.intFactors r false m chunk
    let bs := (List.range 64).map fun n => t.intFactors r true n chunk
    (Vector.ofFn fun i => BitVec.ofNat 32 (accInt lo[i].toNat ((as.getD (i.val / 64) []).zip (bs.getD (i.val % 64) []))), hi)
  else
    let as := (List.range 64).map fun m => t.factors r scaled false m chunk
    let bs := (List.range 64).map fun n => t.factors r scaled true n chunk
    (Vector.ofFn fun i => BitVec.ofNat 32 (accFp32 lo[i].toNat ((as.getD (i.val / 64) []).zip (bs.getD (i.val % 64) []))), hi)

/-! ## Eligibility and the arbiter (R279, R280) -/

/-- A request that may execute its next pass or its step.
Rests on notes/assumptions 45 (DEDUCED). -/
def Team.eligible (t : Team) (r : MxReq) : Bool :=
  let before := t.reqs.takeWhile fun x => x.age != r.age
  !t.pendHolds r (fun _ => true) &&
  before.all fun x =>
    !(x.accs.any fun k => r.accs.contains k) && !(x.writesTile.any fun k => r.readsTiles.contains k || r.writesTile.contains k) &&
    !(x.readsTiles.any fun k => r.writesTile.contains k)

/-- A request that has stayed eligible for 8,192 core clocks without a grant (R280); `now` is its die's CCYC.
Rests on notes/assumptions 44 (DEDUCED). -/
def MxReq.starves (r : MxReq) (now : DWord) : Bool :=
  r.starved || (match r.since with | some a => decide (8192 ≤ (now - a).toNat) | none => false)

/-- The clock from which each request of a team has stayed eligible without a grant, once something has moved (R280). -/
def Team.stamp (t : Team) (now : DWord) : Team :=
  { t with reqs := t.reqs.map fun r =>
      if t.eligible r then { r with since := some (match r.since with | some a => a | none => now) } else { r with since := none, starved := false } }

/-- Request a goes before request b: starved, then by priority, then the older post; the requests that a restore posts again are in age order (R288).
Rests on notes/assumptions 44 (DEDUCED). -/
def MxReq.ahead (a b : MxReq) (now : DWord) : Bool :=
  if a.starves now != b.starves now then a.starves now
  else if a.prio ≠ b.prio then decide (b.prio < a.prio)
  else decide (a.post < b.post) || (a.post == b.post && a.age != b.age && decide ((b.age - a.age).toNat < 2 ^ 31))

/-- The arbiter grants request r of the team in hand: it is eligible, and no eligible request of the cluster goes before it.
Rests on notes/assumptions 44 (DEDUCED). -/
def State.granted (s : State) (r : MxReq) : Bool :=
  s.team.eligible r &&
  s.teams.toList.all fun t => !(t.live && clusterOf t.core == clusterOf s.team.core) || t.reqs.all fun x => !(x.ahead r s.die.ccyc && t.eligible x)

def Team.putReq (t : Team) (r : MxReq) : Team := { t with reqs := t.reqs.map fun x => if x.age == r.age then r else x }

def Team.dropReq (t : Team) (r : MxReq) : Team := { t with reqs := t.reqs.filter fun x => x.age != r.age }

/-- A request of a team and kind takes its turn, where the arbiter grants it. -/
def State.turnOf (s : State) (t : TeamIx) (age : Word) (f : State → MxReq → Option State) : Host.Outcome State Fault Refusal :=
  match s.teams[t].reqs.find? fun r => r.age == age with
  | none => s.wait
  | some r =>
    let s0 := s.at t r.gix
    if s0.team.live && s0.die.up && s0.die.relock.isNone && s0.granted r then
      match f s0 r with
      | none => s.wait
      | some x => .next { x.modTeam (fun t => t.stamp x.die.ccyc) with cur := s.cur, gix := s.gix }
    else s.wait

/-- An uncorrectable error ends a request: its accumulators are marked, the record goes on the hardware-error lane and the posting group traps
asynchronously (R288). The record names the request by its SPC and AGE (spec/17 R338). -/
def State.mxError (s : State) (r : MxReq) : State :=
  let x := { s.record 0x187 with spc := r.spc, cmdseq := r.age, async := true }
  let s1 := s.modTeam fun t => (r.accs.foldl (fun t k => t.modAcc k fun a => a.mark r.spec true) t).dropReq r
  (s1.sendFatal s.team.ctx { x with hw := true }).raiseAsync false x

/-- A granted pass is counted (spec/17 R349). -/
def State.countPass (s : State) : State := s.modCluster (clusterOf s.team.core) fun c => { c with passes := c.passes + 1 }

/-- One pass of a request (R277-R281, R288).
Rests on notes/assumptions 48 (DEDUCED). -/
def State.pass (s : State) (r : MxReq) (scaled : Bool) : State :=
  let prep (a : Acc) : Acc :=
    let b := if r.spec then a.fill else a
    if r.next = 0 ∧ fbZ r.f0 then (b.setWords r.spec accZero).mark r.spec false else b
  let s1 := s.modTeam fun t => r.accs.foldl (fun t k => t.modAcc k prep) t
  let t := s1.team
  if r.accs.any fun k => (t.acc k).marked r.spec then s1.modTeam fun t => t.dropReq r
  else if t.passPoisoned r scaled r.next || r.accs.any fun k => (t.acc k).bad r.spec then (s1.mxError r).countPass
  else
    let w := t.passWords r scaled r.next ((t.acc r.acc).words r.spec) ((t.acc (r.acc + 1)).words r.spec)
    let put (t : Team) : Team :=
      let t1 := t.modAcc r.acc fun a => a.setWords r.spec w.1
      if fbWide r.f0 then t1.modAcc (r.acc + 1) fun a => a.setWords r.spec w.2 else t1
    let r1 := { r with next := r.next + 1, starved := false, since := none }
    (s1.modTeam fun t => if r.kLen ≤ 32 * (r.next + 1) then (put t).dropReq r else (put t).putReq r1).countPass

def execMatrixPass (t : TeamIx) (age : Word) (s : State) : Host.Outcome State Fault Refusal :=
  s.turnOf t age fun s0 r => match r.kind with | .mma scaled => some (s0.pass r scaled) | _ => none

def execMzeroStep (t : TeamIx) (age : Word) (s : State) : Host.Outcome State Fault Refusal :=
  s.turnOf t age fun s0 r =>
    match r.kind with
    | .mzero => some (s0.modTeam fun t => (t.modAcc r.acc fun a => (a.setWords false accZero).mark false false).dropReq r)
    | _ => none

/-! ## Reading out (R286, R288) -/

/-- Element (m, n) as AK reads it, with its format. -/
def moElem (c : Word) (lo hi : Vector Word 4096) (m n : Nat) : Nat × Nat :=
  match moAk c with
  | 0 => (8, (lo.toList.getD (64 * m + n) 0).toNat)
  | 1 => (1, (lo.toList.getD (64 * m + n) 0).toNat)
  | _ => (9, wideElem lo hi m n)

/-- The bytes of output row i. -/
def moBytes (c : Word) (lo hi : Vector Word 4096) (i : Nat) : List Byte :=
  (List.range 64).flatMap fun j =>
    let x := if bitsOf c 16 1 = 1 then moElem c lo hi j i else moElem c lo hi i j
    toBytes (fmtBits (moFmt c) / 8) (convert x.1 (moFmt c) (rmodeOf (bitsOf c 12 3)) (bitsOf c 11 1 == 1) x.2).1

/-- Lands output rows; a poisoned accumulator lands all ones with the poison of every word set. -/
def Team.moLand (t : Team) (r : MxReq) (toSpad bad : Bool) (row : Nat → List Byte) : Team :=
  (List.range 64).foldl (fun t i =>
    let p : Place := if toSpad then .spad (r.f1.toNat + moPitch r.f0 * i) else .tile i 0
    t.land r.gix r.ta p (row i) bad) t

/-- Rests on notes/assumptions 46 (DEDUCED). -/
def execMoutStep (t : TeamIx) (age : Word) (s : State) : Host.Outcome State Fault Refusal :=
  s.turnOf t age fun s0 r =>
    match r.kind with
    | .mout toSpad =>
      let x := s0.team
      let bad := r.accs.any fun k => (x.acc k).poison
      let lo := (x.acc r.acc).prim
      let hi := (x.acc (r.acc + 1)).prim
      let clear (t : Team) : Team := if bitsOf r.f0 15 1 = 1 then r.accs.foldl (fun t k => t.modAcc k fun a => a.setWords false accZero) t else t
      if !bad && r.accs.any fun k => (x.acc k).bad false then some (s0.mxError r)
      else some (s0.modTeam fun t =>
        (clear (t.moLand r toSpad bad fun i => if bad then List.replicate (moRow r.f0) 0xFF else moBytes r.f0 lo hi i)).dropReq r)
    | _ => none

/-- A request that has stayed eligible for 8,192 clocks without a grant is marked until its next pass is granted (R280); it ranks above every priority
from that clock on, marked or not (MxReq.starves).
Rests on notes/assumptions 44 (DEDUCED). -/
def execArbiterStarvation (t : TeamIx) (age : Word) (s : State) : Host.Outcome State Fault Refusal :=
  let x := s.teams[t]
  match x.reqs.find? fun r => r.age == age with
  | none => s.wait
  | some r =>
    if x.live && x.eligible r && !r.starved && r.starves s.dies[dieOf x.core].ccyc then
      .next { s with teams := s.teams.set t (x.putReq { r with starved := true }) }
    else s.wait

end Sys2Proof.Machine
end

