-- ==== Sys2Proof/Machine/Image.lean ====
section
/-! DEFINITION. The image of a saved team: its size, its sections, the bytes whose layout the spec fixes, and what a restore reads back from them
(spec/16 R332-R334, spec/07 R135, R148, spec/09 R188, spec/14 R271, R288). Contents whose place no rule fixes are in bytes that the contents settle in a way
that is left open. -/

namespace Sys2Proof.Machine

/-- Bytes of an image, with none for a free one. -/
abbrev Img := List (Option Byte)

/-- Bytes that a rule fixes. -/
def imgOf (b : List Byte) : Img := b.map some

/-- n free bytes. -/
def imgFree (n : Nat) : Img := List.replicate n none

/-- A size rounded up to 256 bytes. -/
def round256 (n : Nat) : Nat := (n + 255) / 256 * 256

/-- A section as bytes: where no rule fixes a byte, the contents settle it.
Rests on notes/assumptions 67 (UNVERIFIED). -/
def imgFill (l : Img) (contents : List Nat) : List Byte := l.zipIdx.map fun x => x.1.getD (Config.imageByte contents x.2)

/-- The contents of a section as a restore finds them: as they were saved where the bytes that hold them are, and open where those have been changed.
Rests on notes/assumptions 67 (UNVERIFIED). -/
def readBack (l : Img) (contents : List Nat) (b : List Byte) : List Nat :=
  if l.zipIdx.all fun x => x.1.isSome || b.getD x.2 0 == Config.imageByte contents x.2 then contents
  else (List.range contents.length).map fun i => Config.imageWord b i

/-- A number of a section's contents. -/
def wordOf (l : List Nat) (i : Nat) : Word := BitVec.ofNat 32 (l.getD i 0)

/-- A section of n bytes, padded to a multiple of 256. -/
def imgSection (n : Nat) (l : Img) : Img := (l ++ imgFree (round256 n - l.length)).take (round256 n)

/-! ## Divergence records (spec/07 R135, R148) -/

/-- The 64 bytes of a split entry. -/
def Split.bytes (p : Split) : List Byte :=
  toBytes 4 p.lpc.toNat ++ [BitVec.ofNat 8 (1 + 2 * p.rank), joinByte p.join, BitVec.ofNat 8 p.cstack.length, 0] ++ toBytes 8 p.mask.toNat ++
  toBytes 2 p.hist.toNat ++ List.replicate 14 0 ++ cstackBytes p.cstack

/-- The return lane PCs of an entry of 64 bytes, of a call depth. -/
def cstackOf (b : List Byte) (depth : Nat) : List Word := (List.range (min 8 depth)).map fun i => BitVec.ofNat 32 (field b (32 + 4 * i) 4)

/-- A stack index, or none for 0xFF. -/
def joinOf (n : Nat) : Option Nat := if n = 0xFF then none else some n

/-- The split of a split entry; what no entry holds is kept from the split saved. -/
def Split.ofBytes (old : Option Split) (b : List Byte) : Option Split :=
  if field b 4 1 % 2 = 0 then none
  else
    some { lpc := BitVec.ofNat 32 (field b 0 4), mask := BitVec.ofNat 64 (field b 8 8), rank := field b 4 1 / 2 % 4, join := joinOf (field b 5 1),
           cstack := cstackOf b (field b 6 1), hist := BitVec.ofNat 10 (field b 0x10 2), atBar := old.bind fun p => p.atBar,
           dbgSkip := old.bind fun p => p.dbgSkip }

/-- The stack entry of 64 bytes. -/
def StackEntry.ofBytes (b : List Byte) : StackEntry :=
  match field b 0 1 with
  | 1 => .join (joinOf (field b 1 1)) (BitVec.ofNat 32 (field b 4 4)) (BitVec.ofNat 64 (field b 8 8)) (BitVec.ofNat 64 (field b 0x10 8))
           (BitVec.ofNat 10 (field b 0x18 2)) (cstackOf b (field b 2 1))
  | 2 => .path (field b 1 1) (field b 3 1 % 2 == 1) (BitVec.ofNat 32 (field b 4 4)) (BitVec.ofNat 64 (field b 8 8)) (BitVec.ofNat 10 (field b 0x10 2))
           (cstackOf b (field b 2 1))
  | _ => .free

/-- A group's divergence record, 1,344 bytes. -/
def Group.divergence (g : Group) : List Byte :=
  toBytes 8 g.retired.toNat ++ List.replicate 56 0 ++
  (g.splits.toList.flatMap fun p => match p with | some p => p.bytes | none => List.replicate 64 0) ++ g.stack.toList.flatMap StackEntry.bytes

/-- n bytes from an offset. -/
def cut (b : List Byte) (off n : Nat) : List Byte := (b.drop off).take n

/-- A group with the divergence record b. -/
def Group.setDivergence (g : Group) (b : List Byte) : Group :=
  { g with retired := BitVec.ofNat 64 (field b 0 8)
           splits := Vector.ofFn fun i => Split.ofBytes g.splits[i] (cut b (0x40 + 64 * i.val) 64)
           stack := Vector.ofFn fun i => StackEntry.ofBytes (cut b (0x140 + 64 * i.val) 64) }

/-! ## A group's section -/

/-- Where the divergence record lies in a group's section.
Rests on notes/assumptions 67 (UNVERIFIED). -/
def divergenceOff : Nat := 1024 + Config.divergenceAt % 193

/-- 32-bit words as bytes, and back. -/
def wordBytes (l : List Word) : List Byte := l.flatMap fun w => toBytes 4 w.toNat
def wordAt (b : List Byte) (i : Nat) : Word := BitVec.ofNat 32 (field b (4 * i) 4)

/-- The bytes of a group's section before padding. -/
def Group.sectionSize (g : Group) (vregs : Nat) : Nat := 2560 + 256 * vregs + 1088 * g.blocks.length

/-- s0-s255 first; the divergence record among the bytes that follow; after 2,560 bytes the vector registers, lane 0 first, and then the blocks, each
beginning with its snapshot.
Rests on notes/assumptions 67 (UNVERIFIED). -/
def Group.image (g : Group) (vregs : Nat) : Img :=
  imgSection (g.sectionSize vregs)
    (imgOf (wordBytes g.sregs.toList) ++ imgFree (divergenceOff - 1024) ++ imgOf g.divergence ++ imgFree (1216 - divergenceOff) ++
     (g.vregs.toList.take vregs).flatMap (fun v => imgOf (wordBytes v.toList)) ++
     g.blocks.flatMap fun b => imgOf (wordBytes b.snap.toList) ++ imgFree 64)

/-- What a group's section holds beside its registers and its divergence record (R332): q0-q6, SPC, LTICKET, FFLAGS, TRAPEN, the latched high halves, p0-p6,
handler mode, the registers of R327 and the matrix priority; then the group's lane and scalar word counts (spec/17 R349), the call stack, the
pending asynchronous traps, and of each block its pc, its enables and its unapplied results.
Rests on notes/assumptions 67 (UNVERIFIED). -/
def Group.words (g : Group) : List Nat :=
  [(List.range 7).foldl (fun n i => n + if g.qregs.toList.getD i false then 2 ^ i else 0) 0, g.spc.toNat, g.lticket.toNat, g.fflags.toNat, g.trapen.toNat,
   g.reftHi.toNat, g.ccycHi.toNat, g.ncycHi.toNat, g.pcntHi.toNat] ++ (g.preds.toList.take 7).map BitVec.toNat ++
  [if g.handler then 1 else 0, g.priv.epc.toNat, g.priv.elpc.toNat, g.priv.ecause.toNat, g.priv.eaddr.toNat, g.priv.ecmdseq.toNat, g.priv.eelem.toNat,
   g.priv.elane.toNat, g.priv.einfo.toNat, if g.priv.fwd then 1 else 0] ++ g.priv.hscr.toList.map BitVec.toNat ++
  [g.mpri.toNat, g.laneCnt.toNat, g.scalCnt.toNat, g.calls.length] ++ g.calls.map BitVec.toNat ++
  (g.pend.flatMap fun p => (if p.cmd then 1 else 0) :: (match p.split with | some k => k.val + 1 | none => 0) :: p.trap.bytes.map BitVec.toNat) ++
  g.blocks.flatMap fun b => [b.pc.toNat, b.en.toNat, b.ticket.toNat, b.spc.toNat, b.flags.toNat] ++ b.results.flatMap fun r => [r.1.toNat, r.2.toNat]

/-- A group with the contents l; pending traps and blocks are as they were saved. -/
def Group.setWords (g : Group) (l : List Nat) : Group :=
  { g with
    qregs := Vector.ofFn fun i => if i.val < 7 then (l.getD 0 0).testBit i.val else g.qregs[i]
    spc := wordOf l 1, lticket := wordOf l 2, fflags := wordOf l 3, trapen := wordOf l 4
    reftHi := wordOf l 5, ccycHi := wordOf l 6, ncycHi := wordOf l 7, pcntHi := wordOf l 8
    preds := Vector.ofFn fun i => if i.val < 7 then BitVec.ofNat 64 (l.getD (9 + i.val) 0) else g.preds[i]
    handler := l.getD 16 0 == 1
    priv := { g.priv with epc := wordOf l 17, elpc := wordOf l 18, ecause := wordOf l 19, eaddr := BitVec.ofNat 64 (l.getD 20 0), ecmdseq := wordOf l 21,
                          eelem := wordOf l 22, elane := wordOf l 23, einfo := BitVec.ofNat 64 (l.getD 24 0), fwd := l.getD 25 0 == 1,
                          hscr := Vector.ofFn fun i => wordOf l (26 + i.val) }
    mpri := BitVec.ofNat 2 (l.getD 30 0), laneCnt := BitVec.ofNat 64 (l.getD 31 0), scalCnt := BitVec.ofNat 64 (l.getD 32 0)
    calls := (List.range (min 16 (l.getD 33 0))).map fun i => wordOf l (34 + i) }

/-- A group as its section gives it back.
Rests on notes/assumptions 67 (UNVERIFIED). -/
def Group.ofImage (g : Group) (vregs : Nat) (b : List Byte) : Group :=
  let g1 : Group := { g.setWords (readBack (g.image vregs) g.words b) with
    sregs := Vector.ofFn fun i => wordAt b i.val
    vregs := Vector.ofFn fun r => if r.val < vregs then Vector.ofFn fun l => wordAt b (640 + 64 * r.val + l.val) else g.vregs[r]
    blocks := g.blocks.zipIdx.map fun x => { x.1 with snap := Vector.ofFn fun i => wordAt b (640 + 64 * vregs + 272 * x.2 + i.val) } }
  g1.setDivergence (cut b divergenceOff 1344)

/-! ## The tile store (spec/14 R271, R288) -/

/-- The word of an accumulator that a word of its tile-store image holds: chunks of 32 columns, each of all 64 rows (R271).
Rests on notes/assumptions 67 (UNVERIFIED). -/
def accWord (i : Nat) : Nat := 64 * (i % 2048 / 32) + 32 * (i / 2048) + i % 32

/-- The word of the image that holds word i of an accumulator. -/
def accPlace (i : Nat) : Nat := 2048 * (i % 64 / 32) + 32 * (i / 64) + i % 32

def accImage (v : Vector Word 4096) : List Byte := wordBytes ((List.range 4096).map fun i => v.toList.getD (accWord i) 0)

def accOf (b : List Byte) : Vector Word 4096 := Vector.ofFn fun i => wordAt b (accPlace i.val)

/-- The tiles by storage offset, then each accumulator and its shadow. -/
def Team.tileImage (t : Team) : Img :=
  imgSection (16384 * t.obj.tiles + 32768 * t.obj.accs)
    (imgOf ((t.tiles.toList.take t.obj.tiles).flatMap (fun x => Memory.readBytes x.bytes 0 16384) ++
            (t.accs.toList.take t.obj.accs).flatMap fun a => accImage a.prim ++ accImage a.shadow))

/-- The tiles and accumulators as their section gives them back. -/
def Team.setTiles (t : Team) (b : List Byte) : Team :=
  { t with
    tiles := Vector.ofFn fun k => if k.val < t.obj.tiles then { t.tiles[k] with bytes := Memory.writeBytes [] 0 (cut b (16384 * k.val) 16384) } else t.tiles[k]
    accs := Vector.ofFn fun k =>
      if k.val < t.obj.accs then
        { t.accs[k] with prim := accOf (cut b (16384 * t.obj.tiles + 32768 * k.val) 16384),
                         shadow := accOf (cut b (16384 * t.obj.tiles + 32768 * k.val + 16384) 16384) }
      else t.accs[k] }

/-! ## Matrix requests (spec/14 R288) -/

/-- The 32 bytes of a withdrawn request. -/
def MxReq.bytes (r : MxReq) : List Byte :=
  toBytes 4 r.f0.toNat ++ toBytes 4 r.f1.toNat ++ toBytes 4 r.word.toNat ++ toBytes 2 r.next ++
  [BitVec.ofNat 8 r.gix.val, BitVec.ofNat 8 ((if r.spec then 1 else 0) + 2 * r.prio)] ++ List.replicate 8 0 ++ toBytes 4 r.age.toNat ++ List.replicate 4 0

/-- A request as its record gives it back. -/
def MxReq.ofBytes (r : MxReq) (b : List Byte) : MxReq :=
  { r with f0 := BitVec.ofNat 32 (field b 0 4), f1 := BitVec.ofNat 32 (field b 4 4), word := BitVec.ofNat 32 (field b 8 4), next := field b 0xC 2,
           gix := Fin.ofNat 16 (field b 0xE 1), spec := field b 0xF 1 % 2 == 1, prio := field b 0xF 1 / 2 % 4, age := BitVec.ofNat 32 (field b 0x18 4) }

def Team.matrixSize (t : Team) : Nat := 32 * t.reqs.length + 8 * t.obj.accs

/-- The pending predicate, the fill and the poison marks of each accumulator. -/
def Team.matrixWords (t : Team) : List Nat :=
  (t.accs.toList.take t.obj.accs).flatMap fun a =>
    [match a.pend with | some (g, q) => 1 + 8 * g.val + q.toNat | none => 0, if a.filled then 1 else 0, if a.poison then 1 else 0, if a.spoison then 1 else 0, a.pendAge.toNat]

def Team.setMatrixWords (t : Team) (l : List Nat) : Team :=
  { t with accs := Vector.ofFn fun k =>
      if k.val < t.obj.accs then
        let p := l.getD (5 * k.val) 0
        { t.accs[k] with pend := if p = 0 then none else some (Fin.ofNat 16 ((p - 1) / 8), BitVec.ofNat 3 ((p - 1) % 8)), filled := l.getD (5 * k.val + 1) 0 == 1,
                         poison := l.getD (5 * k.val + 2) 0 == 1, spoison := l.getD (5 * k.val + 3) 0 == 1, pendAge := wordOf l (5 * k.val + 4) }
      else t.accs[k] }

/-- The requests in age order; where the pending predicates and poison marks lie in the bytes that follow is open. -/
def Team.matrixImage (t : Team) : Img := imgSection t.matrixSize (imgOf (t.reqs.flatMap MxReq.bytes))

/-! ## Tables (spec/09 R188) -/

/-- The 48 bytes of a table record. -/
def HashTab.bytes (h : HashTab) : List Byte :=
  (if h.claimed then wordBytes h.desc.toList else List.replicate 16 0) ++ wordBytes [h.live, h.tomb, h.spilled, h.lost] ++
  [if h.dstate then 1 else 0, 0, 0, 0] ++ wordBytes [h.dcur, h.dcnt, 0]

/-- A table as its record gives it back. -/
def HashTab.ofBytes (h : HashTab) (b : List Byte) : HashTab :=
  let d : Vector Word 4 := Vector.ofFn fun i => wordAt b i.val
  { h with claimed := !(d == Vector.replicate 4 0), desc := d, live := wordAt b 4, tomb := wordAt b 5, spilled := wordAt b 6, lost := wordAt b 7,
           dstate := field b 0x20 1 == 1, dcur := wordAt b 9, dcnt := wordAt b 10 }

/-- The count, allowance, reservations and handles of each queue. -/
def Team.queueWords (t : Team) : List Nat :=
  (t.hoists.toList.take t.obj.hoists).flatMap fun h => [h.items.length, h.allow, h.resv] ++ (List.range 64).map fun i => (h.items.getD i 0).toNat

def Team.setQueueWords (t : Team) (l : List Nat) : Team :=
  { t with hoists := Vector.ofFn fun k =>
      if k.val < t.obj.hoists then
        let b := 67 * k.val
        { t.hoists[k] with allow := l.getD (b + 1) 0, resv := l.getD (b + 2) 0, items := (List.range (min 64 (l.getD b 0))).map fun i => wordOf l (b + 3 + i) }
      else t.hoists[k] }

/-- The four table records; the queues' bytes that follow have no layout. -/
def Team.tableImage (t : Team) : Img := imgSection (192 + 272 * t.obj.hoists) (imgOf (t.tabs.toList.flatMap HashTab.bytes))

/-! ## The engine (R332, spec/10 R216, spec/11 R227) -/

/-- The groups that a team has. -/
def Team.gixs (t : Team) : List GrpIx := (List.finRange 16).filter fun g => t.groups[g].phase != .none

/-- What the engine's section holds: the filling bits and each table's P and C; of each group its BATCHSEQ and CMDSEQ, its open batch and its closed ones; of
each command its place, its descriptor, its stop element, its rows, its pack offset and its CRC so far.
Rests on notes/assumptions 67 (UNVERIFIED). -/
def Team.engineWords (t : Team) : List Nat :=
  let rec_ (r : CmdRec) : List Nat := [r.seq.toNat, r.sub, r.stat.code, r.stop.toNat, if r.crcOn then 1 else 0, r.crc.length] ++ r.crc.map BitVec.toNat
  t.filling.toNat :: (t.tabs.toList.flatMap fun h => [h.ringP.toNat, h.ringC.toNat]) ++
  (t.groups.toList.flatMap fun g => [g.batchSeq.toNat, g.cmdSeq.toNat]) ++
  (t.gixs.flatMap fun g => t.groups[g].openB.flatMap rec_ ++ t.groups[g].batches.flatMap fun b => b.seq.toNat :: b.cmds.flatMap rec_) ++
  (t.cmds.filter Cmd.live).flatMap fun c =>
    [c.gix.val, c.seq.toNat, c.sub, c.pos, c.rows, c.packOff, c.stat.code, c.tag.toNat, c.index, c.spc.toNat, c.crc.length] ++ c.crc.map BitVec.toNat ++
    c.w.toList.map BitVec.toNat

/-- A team with the engine's contents l; its commands are as they were saved. -/
def Team.setEngineWords (t : Team) (l : List Nat) : Team :=
  { t with
    filling := BitVec.ofNat 64 (l.getD 0 0)
    tabs := Vector.ofFn fun k => { t.tabs[k] with ringP := BitVec.ofNat 64 (l.getD (1 + 2 * k.val) 0), ringC := BitVec.ofNat 64 (l.getD (2 + 2 * k.val) 0) }
    groups := Vector.ofFn fun g => { t.groups[g] with batchSeq := BitVec.ofNat 16 (l.getD (9 + 2 * g.val) 0), cmdSeq := wordOf l (10 + 2 * g.val) } }

def Team.engineSize (t : Team) : Nat := 128 * (t.cmds.filter Cmd.live).length + 4096 * t.gixs.length

/-! ## The header -/

/-- The sizes of the sections after the header, each rounded up (R332, R333). -/
def Team.sectionSizes (t : Team) : List Nat :=
  (t.gixs.map fun g => round256 (t.groups[g].sectionSize t.obj.vregs)) ++
  [round256 t.spadSize, round256 (16384 * t.obj.tiles + 32768 * t.obj.accs), round256 t.matrixSize, round256 (192 + 272 * t.obj.hoists), round256 t.engineSize]

/-- The size of a team's image (R332, R333). -/
def Team.imageSize (t : Team) : Nat := 256 + t.sectionSizes.sum

/-- Where sections of some sizes begin, from an offset on. -/
def offsetsFrom (a : Nat) : List Nat → List Nat
  | [] => []
  | n :: r => a :: offsetsFrom (a + n) r

/-- A resource record as numbers (spec/02 R51). -/
def Obj.words (o : Obj) : List Nat :=
  [o.groups, o.vregs, o.tiles, o.accs, o.htabs, o.hoists, o.bars, o.spadG] ++ (List.range 16).map fun i => o.caps.getD i 0

/-- What the header holds beside its magic and version: the resource record, the section offsets, the launch identifier, the coordinates, the way count, the
race epoch, the tile shapes, the barriers' counts and generations, and the row counters.
Rests on notes/assumptions 67 (UNVERIFIED). -/
def Team.headerWords (t : Team) (ways : Nat) : List Nat :=
  t.obj.words ++ offsetsFrom 256 t.sectionSizes ++ [t.launchId.toNat, t.coord[0].toNat, t.coord[1].toNat, t.coord[2].toNat, ways, t.epoch.toNat] ++
  (t.tiles.toList.flatMap fun x => [x.shape.rows, x.shape.rb, x.shape.fmt, x.shape.layout]) ++ (t.bars.toList.flatMap fun b => [b.count, b.n, b.gen.toNat]) ++
  t.rowCnt.toList.map BitVec.toNat

/-- A team with the header's contents l. -/
def Team.setHeader (t : Team) (l : List Nat) : Team :=
  let k := 24 + t.sectionSizes.length
  { t with
    launchId := wordOf l k, coord := #v[wordOf l (k + 1), wordOf l (k + 2), wordOf l (k + 3)], epoch := BitVec.ofNat 10 (l.getD (k + 5) 0)
    tiles := Vector.ofFn fun i =>
      let b := k + 6 + 4 * i.val
      { t.tiles[i] with shape := { rows := l.getD b 0, rb := l.getD (b + 1) 0, fmt := l.getD (b + 2) 0, layout := l.getD (b + 3) 0 } }
    bars := Vector.ofFn fun i =>
      let b := k + 134 + 3 * i.val
      { count := l.getD b 0, n := l.getD (b + 1) 0, gen := BitVec.ofNat 16 (l.getD (b + 2) 0) }
    rowCnt := Vector.ofFn fun i => wordOf l (k + 182 + i.val) }

/-- The header's fixed bytes: its magic and its version. -/
def headerImg : Img := imgSection 256 (imgOf (toBytes 4 0x4D495355 ++ toBytes 2 1))

/-- The header's contents as a restore finds them in the bytes b of an image. -/
def Team.headerRead (t : Team) (ways : Nat) (b : List Byte) : List Nat := readBack headerImg (t.headerWords ways) (b.take 256)

/-- A header that a restore refuses (R334): another magic or version, another resource record, or section offsets that are not those of the record.
Rests on notes/assumptions 67 (UNVERIFIED). -/
def Team.headerBad (t : Team) (ways : Nat) (b : List Byte) : Bool :=
  field b 0 4 != 0x4D495355 || field b 4 2 != 1 ||
  (t.headerRead ways b).take (24 + t.sectionSizes.length) != t.obj.words ++ offsetsFrom 256 t.sectionSizes

/-! ## The image (R332) -/

/-- The sections of the image, each with the contents whose place is open: the header, the groups, the scratchpad, the tile store, the matrix requests, the
tables and queues, and the engine.
Rests on notes/assumptions 67 (UNVERIFIED). -/
def Team.sections (t : Team) (ways : Nat) : List (Img × List Nat) :=
  (headerImg, t.headerWords ways) :: (t.gixs.map fun g => (t.groups[g].image t.obj.vregs, t.groups[g].words)) ++
  [(imgSection t.spadSize (imgOf (Memory.readBytes t.spad 0 t.spadSize)), []), (t.tileImage, []), (t.matrixImage, t.matrixWords), (t.tableImage, t.queueWords),
   (imgSection t.engineSize [], t.engineWords)]

/-- The bytes of the image.
Rests on notes/assumptions 67 (UNVERIFIED). -/
def Team.imageBytes (t : Team) (ways : Nat) : List Byte := (t.sections ways).flatMap fun x => imgFill x.1 x.2

/-- The groups as their sections give them back; b begins with the first of them. -/
def Team.setGroups (t : Team) (b : List Byte) : List GrpIx → Team
  | [] => t
  | g :: r =>
    let n := round256 (t.groups[g].sectionSize t.obj.vregs)
    ({ t with groups := t.groups.set g (t.groups[g].ofImage t.obj.vregs (b.take n)) } : Team).setGroups (b.drop n) r

/-- The scratchpad as its section gives it back, with the pool entries in use. -/
def Team.setSpad (t : Team) (b : List Byte) : Team :=
  { t with spad := Memory.writeBytes [] 0 (b.take t.spadSize)
           pool := Vector.ofFn fun i => if t.pool[i] = .free then .free else StackEntry.ofBytes (cut b (t.poolAddr i.val) 64) }

/-- A team as its image gives it back: what the spec gives a place comes from the bytes, and so do the contents of each section; commands, pending traps and
blocks are as they were saved.
Rests on notes/assumptions 67 (UNVERIFIED). -/
def Team.ofImage (t : Team) (ways : Nat) (b : List Byte) : Team :=
  let n := t.gixs.length
  let at_ (i : Nat) : Nat := (offsetsFrom 256 t.sectionSizes).getD i 0
  let t1 := (((t.setHeader (t.headerRead ways b)).setGroups (b.drop 256) t.gixs).setSpad (b.drop (at_ n))).setTiles (b.drop (at_ (n + 1)))
  let t2 : Team := { t1 with
    reqs := t1.reqs.zipIdx.map fun x => x.1.ofBytes (cut b (at_ (n + 2) + 32 * x.2) 32)
    tabs := Vector.ofFn fun i => t1.tabs[i].ofBytes (cut b (at_ (n + 3) + 48 * i.val) 48) }
  ((t2.setMatrixWords (readBack t.matrixImage t.matrixWords (b.drop (at_ (n + 2))))).setQueueWords
    (readBack t.tableImage t.queueWords (b.drop (at_ (n + 3))))).setEngineWords (readBack (imgSection t.engineSize []) t.engineWords (b.drop (at_ (n + 4))))

end Sys2Proof.Machine
end

