-- ==== Sys2Proof/Machine/Packets.lean ====
section
/-! DEFINITION. Host queues and their packets: LAUNCH, GRAPH, FENCE, SIGNAL, TIMESTAMP, CANCEL and NOP, and the reset of a queue (spec/15 R291-R296,
R302, spec/17 R346). -/

namespace Sys2Proof.Machine

def State.setQueue (s : State) (q : QueueIx) (x : Queue) : State := { s with queues := s.queues.set q x }

def State.modQueue (s : State) (q : QueueIx) (f : Queue → Queue) : State := s.setQueue q (f s.queues[q])

/-- The valid context that owns a queue. -/
def State.queueCtx (s : State) (q : QueueIx) : Option CtxIx :=
  let c := s.queues[q].ctx.toNat
  if h : c < 256 then (if s.ctxs[c].valid then some ⟨c, h⟩ else none) else none

/-- The virtual address of the packet at the read index (R291). -/
def Queue.packetVa (q : Queue) : Nat := (q.ring.toNat + 64 * (q.ridx.toNat % 2 ^ q.log2n)) % 2 ^ 64

/-- The record of a packet (R292): its address, queue and index. -/
def State.queueRecord (s : State) (q : QueueIx) (c : CtxIx) (cause : Cause) (addr : Nat) : TrapRec :=
  { s.hubRecord c cause (BitVec.ofNat 64 addr) with elem := BitVec.ofNat 32 q.val, info := s.queues[q].ridx }

/-- A rejected packet (R292): the queue stops in error at the packet, and a record goes on the fatal lane. -/
def State.reject (s : State) (q : QueueIx) (c : CtxIx) (cause : Cause) : Host.Outcome State Fault Refusal :=
  let r := s.queueRecord q c cause s.queues[q].packetVa
  .next ((s.modQueue q fun x => { x with state := 2, packet := none, fence := none, waitTag := none, failed := false }).sendFatal c r)

/-- A read or a write of a packet whose translation failed: a replayable failure waits for the reply, any other rejects the packet (R291, R295).
Rests on notes/assumptions 51 (DEDUCED). -/
def State.packetUnread (s : State) (q : QueueIx) (c : CtxIx) (cause f : Cause) (va : Nat) : Host.Outcome State Fault Refusal :=
  if causeReplayable f then
    let tag := s.ctxs[c].newTag c
    .next ((s.sendReplay c (s.queueRecord q c f va) (some (.queue q))).modQueue q fun x => { x with waitTag := some tag })
  else s.reject q c cause

/-- A packet is parsed (R292): the read index moves on and is written to RIDXA.
Rests on notes/assumptions 52 (DESIGN CHOICE). -/
def State.parsed (s : State) (q : QueueIx) (c : CtxIx) : State :=
  let x := s.queues[q]
  let s1 := s.setQueue q { x with ridx := x.ridx + 1, packet := none, fence := none, failed := false }
  match s1.hubWrite c x.ridxa.toNat (toBytes 8 (x.ridx + 1).toNat) with
  | .ok y => y
  | .error _ => s1

/-- What a queue's packet event does: the packet in hand, read once, is handled where `mine` takes its bytes. `cause` is what a reply of fail rejects it
with.
Rests on notes/assumptions 51 (DEDUCED). -/
def State.packetStep (s : State) (q : QueueIx) (mine : List Byte → Bool) (cause : Cause)
    (f : State → CtxIx → List Byte → Host.Outcome State Fault Refusal) : Host.Outcome State Fault Refusal :=
  let x := s.queues[q]
  match s.queueCtx q with
  | none => s.wait
  | some c =>
    if x.state ≠ 1 ∨ x.waitTag.isSome ∨ !s.mgmt.ready0.getLsbD 0 then s.wait
    else
      match x.packet with
      | some b => if !mine b then s.wait else if x.failed then s.reject q c cause else f s c b
      | none =>
        if x.failed then s.reject q c 0x1C0
        else if x.widx.toNat ≤ x.ridx.toNat then s.wait
        else
          match s.fetchBytes c x.packetVa 64 with
          | .bad => s.wait
          | .unread e a => s.packetUnread q c 0x1C0 e a
          | .got b => if mine b then f (s.modQueue q fun y => { y with packet := some b }) c b else s.wait

/-- A packet of a type. -/
def packetType (n : Nat) (b : List Byte) : Bool := field b 0 1 == n

/-! ## LAUNCH (R293, R294) -/

/-- An accepted launch from a packet, with its argument block. -/
def State.acceptPacket (s : State) (q : QueueIx) (c : CtxIx) (b : List Byte) (l : Launch) (k : Nat) (args : List Byte) : State :=
  ((s.rearm k (bodyTarget b)).accept { l with queue := some q, after := if bodyFlag b 0 then s.queueWork q else [], args := args }).parsed q c

def execLaunchPacket (q : QueueIx) (s : State) : Host.Outcome State Fault Refusal :=
  s.packetStep q (packetType 1) 0x1C1 fun s c b =>
    match s.parseBody c b with
    | .bad => s.reject q c 0x1C1
    | .unread f a => s.packetUnread q c 0x1C1 f a
    | .got l =>
      let k := s.ctxs[c].base .counters + bodyCnt b
      if s.ctxs[c].count .counters ≤ bodyCnt b then s.reject q c 0x1C2
      else if s.running k then s.wait
      else
        match s.fetchBytes c (field b 0x20 8) 64 with
        | .bad => s.wait
        | .unread f a => s.packetUnread q c 0x1C1 f a
        | .got args => .next (s.acceptPacket q c b l k args)

/-! ## GRAPH (R302) -/

/-- The 128-byte records of a descriptor. -/
def nodeRecords (b : List Byte) (n : Nat) : List (List Byte) := (List.range n).map fun i => (b.drop (128 * i)).take 128

/-- Nodes are peeled off while some node left has no predecessor left; a graph with a cycle is not peeled off wholly. -/
def peel (succs : Nat → List Nat) : (fuel : Nat) → List Nat → Bool
  | 0, l => l.isEmpty
  | f + 1, l =>
    let heads := l.filter fun n => !(l.any fun m => (succs m).contains n)
    if heads.isEmpty then l.isEmpty else peel succs f (l.filter fun n => !heads.contains n)

/-- The checks of a graph's records beside their bodies. -/
def graphShapeOk (rs : List (List Byte)) : Bool :=
  let succs (i : Nat) : List Nat := nodeSuccs (rs.getD i [])
  let all := (List.range rs.length).flatMap succs
  rs.zipIdx.all (fun x =>
    decide (field x.1 0x42 1 ≤ 28) && zeroAt x.1 0x43 1 && zeroAt x.1 0x7C 4 && zeroAt x.1 (0x44 + 2 * field x.1 0x42 1) (56 - 2 * field x.1 0x42 1) &&
    (nodeSuccs x.1).all (fun n => decide (n < rs.length)) && field x.1 0x40 2 == (all.filter fun n => n == x.2).length) &&
  peel succs rs.length (List.range rs.length)

/-- A node's body: its check under R294 with ORD 0, and a counter that is none or in range. -/
def State.nodeBody (s : State) (c : CtxIx) (r : List Byte) : Got Unit :=
  let b := r.take 64
  if bodyFlag b 0 || (bodyCnt b != 0xFFFF && decide (s.ctxs[c].count .counters ≤ bodyCnt b)) then .bad
  else match s.parseBody c b with | .got _ => .got () | .bad => .bad | .unread f a => .unread f a

/-- The first node body that is not as it must be. -/
def State.nodeBodies (s : State) (c : CtxIx) : List (List Byte) → Got Unit
  | [] => .got ()
  | r :: rest => match s.nodeBody c r with | .got _ => s.nodeBodies c rest | x => x

/-- A graph is accepted: its counter is re-armed, and the nodes without predecessor are ready. -/
def State.acceptGraph (s : State) (q : QueueIx) (c : CtxIx) (b : List Byte) (k : Nat) (rs : List (List Byte)) : State :=
  let g : Graph :=
    { id := s.nextId, ctx := c, queue := q, after := if field b 1 1 % 2 = 1 then s.queueWork q else [], cnt := k, recs := rs,
      area := BitVec.ofNat 64 (field b 24 8), finished := false, dropped := [] }
  let heads := (List.range rs.length).filter fun i => field (rs.getD i []) 0x40 2 == 0
  let s1 := s.rearm k (BitVec.ofNat 32 rs.length)
  ({ s1 with graphs := s1.graphs ++ [g], nextId := s1.nextId + 1, readyNodes := s1.readyNodes ++ heads.map fun i => (g.id, i) } : State).parsed q c

def graphFieldsOk (b : List Byte) : Bool :=
  decide (field b 1 1 < 2) && zeroAt b 2 2 && zeroAt b 6 2 && field b 8 8 % 64 == 0 && decide (1 ≤ field b 16 4 ∧ field b 16 4 ≤ 65536) && zeroAt b 20 4 &&
  field b 24 8 % 4 == 0 && zeroAt b 32 32

def execGraphPacket (q : QueueIx) (s : State) : Host.Outcome State Fault Refusal :=
  s.packetStep q (packetType 2) 0x1C3 fun s c b =>
    let n := field b 16 4
    let k := s.ctxs[c].base .counters + field b 4 2
    if !graphFieldsOk b then s.reject q c 0x1C0
    else if s.ctxs[c].count .counters ≤ field b 4 2 then s.reject q c 0x1C2
    else
      match s.fetchBytes c (field b 8 8) (128 * n) with
      | .bad => s.wait
      | .unread f a => s.packetUnread q c 0x1C3 f a
      | .got d =>
        let rs := nodeRecords d n
        if !graphShapeOk rs then s.reject q c 0x1C3
        else
          match s.nodeBodies c rs with
          | .bad => s.reject q c 0x1C3
          | .unread f a => s.packetUnread q c 0x1C3 f a
          | .got _ =>
            if s.running k then s.wait
            else
              match s.hubWrite c (field b 24 8) (rs.flatMap fun r => toBytes 4 (field r 0x40 2)) with
              | .error (f, a) => s.packetUnread q c 0x1C3 f a
              | .ok s1 => .next (s1.acceptGraph q c b k rs)

/-! ## FENCE (R295, R296) -/

/-- The word that a condition looks at. -/
def State.condWord (s : State) (c : FenceCond) : DWord :=
  match c.space with
  | .device => s.homeWord c.pa
  | .host => BitVec.ofNat 64 (Memory.readLe s.hostMem c.pa 8)
  | .peer _ => BitVec.ofNat 64 (Memory.readLe s.peerMem c.pa 8)

/-- Looks at a condition.
Rests on notes/assumptions 55 (DESIGN CHOICE). -/
def State.tryCond (s : State) (c : FenceCond) : FenceCond := if c.cond.holds (s.condWord c) c.v then { c with seen := true } else c

def condOf (n : Nat) : Cond := match n with | 0 => .ge | 1 => .eq | _ => .ne

/-- The condition list: refused, or a translation that fails, or the conditions looked at as they are armed. -/
def State.armConds (s : State) (c : CtxIx) : List (List Byte) → Got (List FenceCond)
  | [] => .got []
  | e :: rest =>
    let va := field e 0 8
    if va % 8 ≠ 0 ∨ 3 ≤ field e 16 1 ∨ !zeroAt e 17 7 then .bad
    else
      match s.translate hubDie c va .read with
      | .error f => .unread f va
      | .ok t =>
        match s.armConds c rest with
        | .got l => .got (s.tryCond { space := t.space, pa := t.addr va, cond := condOf (field e 16 1), v := BitVec.ofNat 64 (field e 8 8), seen := false } :: l)
        | x => x

/-- An acquire of the hub at a scope, on every die (R296). -/
def State.acquireAll (s : State) (scope : Nat) : State :=
  let s1 := if 2 ≤ scope then (List.finRange 160).foldl (fun s c => (s.acquireUses c scope fun _ => true).invL1 c anyByte) s else s
  if 4 ≤ scope then (List.finRange 4).foldl (fun s d => s.invFar d anyByte) s1 else s1

/-- Every condition seen: the acquire, and the packet is parsed. -/
def State.fenceOver (s : State) (q : QueueIx) (c : CtxIx) (b : List Byte) (l : List FenceCond) : Host.Outcome State Fault Refusal :=
  if l.all fun x => x.seen then
    if (List.finRange 4).any fun d => s.homeBusy d.val then s.wait else .next ((s.acquireAll (field b 5 1)).parsed q c)
  else s.wait

/-- Rests on notes/assumptions 49 (DESIGN CHOICE). -/
def fenceFieldsOk (b : List Byte) : Bool :=
  zeroAt b 1 3 && decide (1 ≤ field b 4 1 ∧ field b 4 1 ≤ 12) && decide (field b 5 1 ≤ 5) && zeroAt b 6 2 && field b 8 8 % 8 == 0 && zeroAt b 16 48

def execFencePacket (q : QueueIx) (s : State) : Host.Outcome State Fault Refusal :=
  s.packetStep q (packetType 3) 0x1C4 fun s c b =>
    match s.queues[q].fence with
    | some l => s.fenceOver q c b l
    | none =>
      if !fenceFieldsOk b then s.reject q c 0x1C0
      else
        match s.fetchBytes c (field b 8 8) (24 * field b 4 1) with
        | .bad => s.wait
        | .unread f a => s.packetUnread q c 0x1C4 f a
        | .got d =>
          match s.armConds c ((List.range (field b 4 1)).map fun i => (d.drop (24 * i)).take 24) with
          | .bad => s.reject q c 0x1C4
          | .unread f a => s.packetUnread q c 0x1C4 f a
          | .got l => .next (s.modQueue q fun x => { x with fence := some l })

/-- The hub reads the host words of a FENCE that waits, and the peer words with them (R296).
Rests on notes/assumptions 55 (DESIGN CHOICE). -/
def execFenceHostPoll (q : QueueIx) (s : State) : Host.Outcome State Fault Refusal :=
  match s.queues[q].fence with
  | none => s.wait
  | some l => .next (s.modQueue q fun x => { x with fence := some (l.map fun c => if c.space == .device then c else s.tryCond c) })

/-! ## SIGNAL, TIMESTAMP, CANCEL, NOP -/

/-- An atomic add of 64 bits at home, or at a page's port. -/
def State.hubAdd (s : State) (c : CtxIx) (va v : Nat) : Except (Cause × Nat) State :=
  match s.translate hubDie c va .atomic with
  | .error f => .error (f, va)
  | .ok e => .ok (s.hubPut e (e.addr va) (toBytes 8 (ofBytes (s.hubGet e (e.addr va) 8) + v)))

/-- Rests on notes/assumptions 49 (DESIGN CHOICE). -/
def signalFieldsOk (b : List Byte) : Bool :=
  zeroAt b 1 3 && decide (field b 4 1 < 2) && decide (1 ≤ field b 5 1 ∧ field b 5 1 ≤ 5) && zeroAt b 6 2 && field b 8 8 % 8 == 0 && zeroAt b 24 40

/-- A SIGNAL packet: earlier work of the queue has completed, a release at SCOPE completes, and the word is written at home (R292).
Rests on notes/assumptions 42 (DEDUCED). -/
def execSignalPacket (q : QueueIx) (s : State) : Host.Outcome State Fault Refusal :=
  s.packetStep q (packetType 4) 0x1C0 fun s c b =>
    if !signalFieldsOk b then s.reject q c 0x1C0
    else if !(s.queueWork q).isEmpty || s.hubWaits (field b 5 1) then s.wait
    else
      let va := field b 8 8
      let s0 := s.hubRelease (field b 5 1)
      match if field b 4 1 = 1 then s0.hubAdd c va (field b 16 8) else s0.hubWrite c va (toBytes 8 (field b 16 8)) with
      | .error (f, a) => s.packetUnread q c 0x1C0 f a
      | .ok s1 => .next (s1.parsed q c)

def execTimestampPacket (q : QueueIx) (s : State) : Host.Outcome State Fault Refusal :=
  s.packetStep q (packetType 5) 0x1C0 fun s c b =>
    if !(zeroAt b 1 7 && field b 8 8 % 8 == 0 && zeroAt b 16 48) then s.reject q c 0x1C0
    else if !(s.queueWork q).isEmpty then s.wait
    else
      match s.hubWrite c (field b 8 8) (toBytes 8 s.reft.toNat) with
      | .error (f, a) => s.packetUnread q c 0x1C0 f a
      | .ok s1 => .next (s1.parsed q c)

def execCancelPacket (q : QueueIx) (s : State) : Host.Outcome State Fault Refusal :=
  s.packetStep q (packetType 6) 0x1C0 fun s c b =>
    if !(zeroAt b 1 3 && zeroAt b 6 58) then s.reject q c 0x1C0
    else if s.ctxs[c].count .counters ≤ field b 4 2 then s.reject q c 0x1C2
    else .next ((s.cancelWork (s.ctxs[c].base .counters + field b 4 2)).parsed q c)

/-- The types that R292 lists, but for NOP.
Rests on notes/assumptions 49 (DESIGN CHOICE). -/
def otherType (b : List Byte) : Bool := decide (1 ≤ field b 0 1 ∧ field b 0 1 ≤ 7)

/-- NOP, and the packets whose type R292 does not list, which are rejected.
Rests on notes/assumptions 49 (DESIGN CHOICE). -/
def execNopPacket (q : QueueIx) (s : State) : Host.Outcome State Fault Refusal :=
  s.packetStep q (fun b => !otherType b) 0x1C0 fun s c b =>
    if packetType 8 b && zeroAt b 1 63 then .next (s.parsed q c) else s.reject q c 0x1C0

end Sys2Proof.Machine
end

