-- ==== Sys2Proof/Machine/Streamer.lean ====
section
/-! DEFINITION. The Streamer's sessions and TRACE packets, the reset of a queue, the sample table, the record rings, replies, and the delivery of
asynchronous traps (spec/17 R339-R346, spec/16 R320-R324, spec/15 R313). -/

namespace Sys2Proof.Machine

/-! ## Sessions (spec/17 R341-R344) -/

/-- The header of a session (R342). -/
def Session.header (x : Session) (opened : Bool) : List Byte :=
  toBytes 4 0x53544E53 ++ toBytes 2 1 ++ toBytes 2 ((if opened then 1 else 0) + (if x.trunc then 2 else 0) + (if x.full then 4 else 0)) ++
  toBytes 8 x.written ++ toBytes 8 x.dropped.toNat ++ toBytes 8 x.start.toNat ++ [x.mask, BitVec.ofNat 8 x.log2] ++ List.replicate 30 0

/-- A failed Streamer write ends the session (spec/16 R322). -/
def State.sessionFailed (s : State) (c : CtxIx) : State := s.modCtx c fun x => { x with session := none, ringBad := x.ringBad ||| 4 }

/-- Writes a session's header. -/
def State.putHeader (s : State) (c : CtxIx) (x : Session) (opened : Bool) : State :=
  match s.ringWrite c x.buf.toNat (x.header opened) with
  | .ok y => y
  | .error _ => s.sessionFailed c

/-- One record goes to the buffer, or is dropped where it does not fit (R342); the header follows. -/
def State.putRecord (s : State) (c : CtxIx) (x : Session) (r : List Byte) : State :=
  if 0x40 + x.written + r.length ≤ 2 ^ x.log2 then
    match s.ringWrite c (x.buf.toNat + 0x40 + x.written) r with
    | .error _ => s.sessionFailed c
    | .ok s1 =>
      let y := { x with written := x.written + r.length }
      (s1.modCtx c fun z => { z with session := some y }).putHeader c y true
  else
    let y := { x with full := true, dropped := if x.dropped = BitVec.allOnes 64 then x.dropped else x.dropped + 1 }
    (s.modCtx c fun z => { z with session := some y }).putHeader c y true

/-- Writes up to n held records of a context. -/
def State.flushRecords (s : State) (c : CtxIx) : Nat → State
  | 0 => s
  | n + 1 =>
    match s.ctxs[c].session with
    | none => s
    | some x =>
      match x.held with
      | [] => s
      | r :: rest => (s.putRecord c { x with held := rest } r).flushRecords c n

/-- Every held record of a context is written. -/
def State.flushSession (s : State) (c : CtxIx) : State :=
  match s.ctxs[c].session with | none => s | some x => s.flushRecords c x.held.length

/-- Closes a session. -/
def State.closeSession (s : State) (c : CtxIx) : State :=
  let s1 := s.flushSession c
  match s1.ctxs[c].session with
  | none => s1
  | some x => (s1.putHeader c x false).modCtx c fun y => { y with session := none }

/-- A TRUNC record with its reason, after every record held before it; the truncated flag sets (R345, R346). -/
def State.truncate (s : State) (c : CtxIx) (reason : Nat) : State :=
  match s.ctxs[c].session with
  | none => s
  | some _ =>
    let s1 := ((s.flushSession c).emit c none 0xFE none 0xFF 8 (toBytes 4 reason ++ toBytes 4 0 ++ toBytes 8 s.reft.toNat)).flushSession c
    match s1.ctxs[c].session with
    | none => s1
    | some x => (s1.modCtx c fun y => { y with session := some { x with trunc := true } }).putHeader c { x with trunc := true } true

/-- The fields of a TRACE packet that R341 bounds.
Rests on notes/assumptions 49 (DESIGN CHOICE). -/
def traceFieldsOk (b : List Byte) : Bool :=
  zeroAt b 1 3 && decide (field b 4 1 ≤ 2) && decide (field b 5 1 < 64) && zeroAt b 6 2 && zeroAt b 17 47 &&
  (field b 4 1 != 0 || (field b 8 8 % 4096 == 0 && decide (16 ≤ field b 16 1 ∧ field b 16 1 ≤ 36)))

/-- Opens a session.
Rests on notes/assumptions 60 (DESIGN CHOICE). -/
def State.openSession (s : State) (c : CtxIx) (b : List Byte) : State :=
  let x : Session :=
    { mask := BitVec.ofNat 8 (field b 5 1), log2 := field b 16 1, buf := BitVec.ofNat 64 (field b 8 8), start := s.reft, trunc := false, full := false,
      written := 0, dropped := 0, last := [], held := [] }
  (s.modCtx c fun y => { y with session := some x }).putHeader c x true

/-- An open, and the packets whose OP the table does not list. A session that a failed write ended is opened anew once its status bit is clear
(spec/16 R322).
Rests on notes/assumptions 60 (DESIGN CHOICE). -/
def execTraceOpen (q : QueueIx) (s : State) : Host.Outcome State Fault Refusal :=
  s.packetStep q (fun b => packetType 7 b && field b 4 1 != 1 && field b 4 1 != 2) 0x1C0 fun s c b =>
    if !traceFieldsOk b then s.reject q c 0x1C0
    else if s.ctxs[c].ringBad.getLsbD 2 then s.wait
    else if (s.closeSession c).ctxs[c].ringBad.getLsbD 2 then (s.closeSession c).wait
    else .next (((s.closeSession c).openSession c b).parsed q c)

def execTraceClose (q : QueueIx) (s : State) : Host.Outcome State Fault Refusal :=
  s.packetStep q (fun b => packetType 7 b && field b 4 1 == 1) 0x1C0 fun s c b =>
    if traceFieldsOk b then .next ((s.closeSession c).parsed q c) else s.reject q c 0x1C0

def execTraceFlush (q : QueueIx) (s : State) : Host.Outcome State Fault Refusal :=
  s.packetStep q (fun b => packetType 7 b && field b 4 1 == 2) 0x1C0 fun s c b =>
    if traceFieldsOk b then .next ((s.flushSession c).parsed q c) else s.reject q c 0x1C0

/-- One held record of a context is written. -/
def execStreamerRecordWrite (c : CtxIx) (s : State) : Host.Outcome State Fault Refusal :=
  match s.ctxs[c].session with
  | none => s.wait
  | some x => if x.held.isEmpty then s.wait else .next (s.flushRecords c 1)

/-- A queue reset (R346): the queue stops and forgets the packet in hand, and the session of its context is flushed and truncated.
Rests on notes/assumptions 59 (DESIGN CHOICE). -/
def execQueueReset (q : QueueIx) (s : State) : Host.Outcome State Fault Refusal :=
  let s1 := s.modQueue q fun x => { x with state := 0, packet := none, fence := none, waitTag := none, failed := false }
  match s.queueCtx q with
  | none => .next s1
  | some c => .next ((s1.modCtx c fun x => { x with replies := x.replies.filter fun y => y.2 != .queue q }).truncate c 1)

/-! ## The sample table (spec/17 R339, R340) -/

/-- The entry of a key. -/
def sampleIndex (lane : Bool) (pc : Word) (reason : Nat) (lid : Word) : Nat :=
  let p := if lane then pc.toNat else pc.toNat / 4
  ((p % 4096) ^^^ (reason * 257) ^^^ (if lane then 2048 else 0) ^^^ (lid.toNat % 4096)) % 4096

/-- One sample goes to its entry.
Rests on notes/assumptions 62 (DEDUCED). -/
def State.addSample (s : State) (c : CoreIx) (x : Sample) : State :=
  let i := sampleIndex x.lane x.pc x.reason.toNat x.launch
  let put (s : State) (y : Sample) : State := s.modCore c fun z => { z with samples := (i, y) :: z.samples.filter fun e => e.1 != i }
  match s.cores[c].samples.lookup i with
  | none => put s x
  | some y =>
    if { y with count := 1 } = x ∧ y.count + 1 < 2 ^ 24 then put s { y with count := y.count + 1 } else put (s.sampleRecord c y) x

/-- An entry spills: its count is full, its launch has ended, or its core runs another context (R340). -/
def execSampleSpill (core : CoreIx) (i : Fin 4096) (s : State) : Host.Outcome State Fault Refusal :=
  match s.cores[core].samples.lookup i.val with
  | none => s.wait
  | some x =>
    if decide (2 ^ 24 - 1 ≤ x.count) || !(s.launches.any fun l => l.lid == x.launch) || s.cores[core].lastCtx != some x.ctx then
      .next ((s.sampleRecord core x).modCore core fun y => { y with samples := y.samples.filter fun e => e.1 != i.val })
    else s.wait

/-! ## Record rings (spec/16 R320, R322) -/

/-- Class F causes of spec/16 R318. -/
def causeHub (c : Cause) : Bool :=
  let n := c.toNat
  n == 0x120 || n == 0x15D || decide (0x1C0 ≤ n ∧ n ≤ 0x1C4) || n == 0x1C9 || n == 0x1CA || decide (0x1E0 ≤ n ∧ n ≤ 0x1E4) || n == 0x1F0 || n == 0x1FF

/-- A record that may use the reserved entries of the fatal lane.
Rests on notes/assumptions 61 (DEDUCED). -/
def TrapRec.reserved (r : TrapRec) : Bool := r.hw || causeHub r.cause

/-- Where a lane's ring lies, its entries and its vector (R329). -/
def Ctx.ringAt (c : Ctx) (rep : Bool) : Nat := if rep then c.field 0x20 8 else c.field 0x18 8
def Ctx.ringSize (c : Ctx) (rep : Bool) : Nat := 2 ^ (if rep then c.field 0x29 1 else c.field 0x28 1)
def Ctx.ringVec (c : Ctx) (rep : Bool) : Nat := if rep then c.field 0x2C 2 else c.field 0x2A 2
def Ctx.ring (c : Ctx) (rep : Bool) : RingSt := if rep then c.rring else c.fring
def Ctx.setRing (c : Ctx) (rep : Bool) (r : RingSt) : Ctx := if rep then { c with rring := r } else { c with fring := r }

/-- A write or a read of a ring failed (R322): the hub stops writing it, sets its status bit and raises its vector. -/
def State.ringFailed (s : State) (c : CtxIx) (rep : Bool) : State :=
  (s.modCtx c fun x => { x with ringBad := x.ringBad ||| (if rep then 2 else 1) }).raiseMsix c (s.ctxs[c].ringVec rep)

/-- Writes a record, then the produced word, then raises the vector.
Rests on notes/assumptions 92 (DESIGN CHOICE). -/
def State.ringPut (s : State) (c : CtxIx) (rep : Bool) (r : TrapRec) (after : RingSt) : State :=
  let x := s.ctxs[c]
  let i := (x.ring rep).produced
  let n := (x.ring rep).seq + 1
  match s.ringWrite c (x.ringAt rep + 0x40 + 64 * (i % x.ringSize rep)) { r with seq := n }.bytes with
  | .error _ => s.ringFailed c rep
  | .ok s1 =>
    match s1.ringWrite c (x.ringAt rep) (toBytes 8 (i + 1)) with
    | .error _ => s1.ringFailed c rep
    | .ok s2 => (s2.modCtx c fun y => y.setRing rep { after with produced := i + 1, seq := n }).raiseMsix c (x.ringVec rep)

/-- Counts records that a full fatal ring loses, saturating; the header's overflow word follows. -/
def State.ringLose (s : State) (c : CtxIx) (r : RingSt) (n : Nat) : State :=
  let r1 := { r with overflow := min (2 ^ 32 - 1) (r.overflow + n) }
  let s1 := s.modCtx c fun x => x.setRing false r1
  match s1.ringWrite c (s.ctxs[c].ringAt false + 0x10) (toBytes 4 r1.overflow) with
  | .ok y => y
  | .error _ => s1.ringFailed c false

/-- The header's overflow word follows the cleared count (R320). -/
def State.ringCleared (s : State) (c : CtxIx) : State :=
  if s.ctxs[c].ringBad.getLsbD 0 then s else s.ringLose c s.ctxs[c].fring 0

/-- The place of the next fatal record: the oldest; while the unreserved entries are used up, the oldest that may use the reserved ones.
Rests on notes/assumptions 61 (DEDUCED). -/
def nextFatal (room : Bool) (l : List TrapRec) : Option Nat := if room then (if l.isEmpty then none else some 0) else l.findIdx? TrapRec.reserved

/-- The waiting records with the first n of those that may use the reserved entries, and every other one. -/
def keepReserved : Nat → List TrapRec → List TrapRec
  | _, [] => []
  | n, z :: r =>
    if z.reserved then (match n with | 0 => keepReserved 0 r | m + 1 => z :: keepReserved m r)
    else z :: keepReserved n r

/-- What can be done for the fatal lane now.
Rests on notes/assumptions 61 (DEDUCED). -/
def State.fatalStep (s : State) (c : CtxIx) : Option State :=
  let x := s.ctxs[c]
  let r := x.fring
  let n := x.ringSize false
  if x.ringBad.getLsbD 0 then
    let kept := (r.waiting.filter TrapRec.reserved).length
    if 64 < kept then
      some (s.modCtx c fun y => { y with fring := { r with waiting := keepReserved 64 r.waiting, overflow := min (2 ^ 32 - 1) (r.overflow + (kept - 64)) } })
    else none
  else if r.waiting.isEmpty && r.overflow == 0 then none
  else
    match s.hubReadLe c (x.ringAt false + 8) 8 with
    | .error _ => some (s.ringFailed c false)
    | .ok consumed =>
      let used := (r.produced + 2 ^ 64 - consumed) % 2 ^ 64
      if s.hubPoisoned c (x.ringAt false + 8) 8 then some (s.ringFailed c false)
      else if decide (0 < r.overflow) && decide (used < n) then
        some ((s.ringPut c false { s.hubRecord c 0x1E4 0 with info := BitVec.ofNat 64 r.overflow } { r with overflow := 0 }).ringCleared c)
      else
        match nextFatal (decide (used + 64 < n)) r.waiting with
        | none => none
        | some k =>
          match r.waiting[k]? with
          | none => none
          | some z =>
            let r1 := { r with waiting := r.waiting.eraseIdx k }
            if used < n then some (s.ringPut c false z r1) else some (s.ringLose c r1 1)

/-- What can be done for the replayable lane now.
Rests on notes/assumptions 61 (DEDUCED). -/
def State.replayStep (s : State) (c : CtxIx) : Option State :=
  let x := s.ctxs[c]
  let r := x.rring
  if x.ringBad.getLsbD 1 then none
  else
    match r.waiting with
    | [] => none
    | z :: rest =>
      match s.hubReadLe c (x.ringAt true + 8) 8 with
      | .error _ => some (s.ringFailed c true)
      | .ok consumed =>
        if s.hubPoisoned c (x.ringAt true + 8) 8 then some (s.ringFailed c true)
        else if (r.produced + 2 ^ 64 - consumed) % 2 ^ 64 < x.ringSize true then some (s.ringPut c true z { r with waiting := rest })
        else none

/-- The hub writes a waiting record. The fatal lane overtakes the replayable one: while a fatal record waits, for space or for a ring that failed, no
replayable record is written (R320).
Rests on notes/assumptions 61 (DEDUCED), 92 (DESIGN CHOICE). -/
def execRecordWrite (c : CtxIx) (replayable : Bool) (s : State) : Host.Outcome State Fault Refusal :=
  if !s.ctxs[c].valid then s.wait
  else
    match (if replayable then (if (s.fatalStep c).isSome || !s.ctxs[c].fring.waiting.isEmpty then none else s.replayStep c) else s.fatalStep c) with
    | some y => .next y
    | none => s.wait

/-! ## Replies (spec/16 R321, spec/10 R213) -/

/-- A function may reach a record of this owner (spec/18 R356), once the HUB bit is set (R370). -/
def State.mayAccess (s : State) (f : Func) (owner : Option CtxIx) : Bool :=
  f.val == 0 || (match owner with | some c => s.ctxs[c].valid && s.ctxs[c].field 0x40 1 + 1 == f.val | none => false)

def State.hubUp (s : State) : Bool := s.mgmt.ready0.getLsbD 0

/-- A window write by a function to a record: refused before HUB, dropped and counted for a VF that does not own it. -/
def State.windowWrite (s : State) (f : Func) (owner : Option CtxIx) (k : State → Host.Outcome State Fault Refusal) : Host.Outcome State Fault Refusal :=
  if !s.hubUp then .next s else if s.mayAccess f owner then k s else .next s.filtered

/-- A suspended command is no longer suspended: it runs again, or it has failed.
Rests on notes/assumptions 96 (DEDUCED). -/
def Team.replyCmd (t : Team) (g : GrpIx) (seq : Word) (fail : Bool) : Team :=
  match t.findCmd g seq fun c => c.stat == .suspended with
  | none => t
  | some c =>
    let c1 := if fail then { c with stat := .faultCancelled, fault := none, rows := c.landed } else { c with stat := .running, fault := none }
    let t1 := ((t.putCmd c1).modGrp g fun x => x.modRec c fun r => { r with stat := c1.stat, stop := BitVec.ofNat 32 (c1.elemAt c1.pos), crc := c1.crc })
    let t2 := if fail then ((t1.countRows c).unpublish c1).settleBatches g else t1
    { t2 with waitSince := none }

/-- The effect of a reply on what waits for it.
Rests on notes/assumptions 96 (DEDUCED). -/
def State.replyTo (s : State) (w : ReplyFor) (fail : Bool) : State :=
  match w with
  | .cmd t g seq =>
    let s1 := { s with teams := s.teams.set t (s.teams[t].replyCmd g seq fail) }
    match s.teams[t].findCmd g seq fun c => c.stat == .suspended with
    | none => s
    | some c => s1.within t g fun y => y.cmdEvent { c with stat := if fail then .faultCancelled else .running } (if fail then 1 else 3)
  | .waita t g | .lnch t g =>
    s.within t g fun y => y.modGrp fun x => { x with armed := false, waitaRes := if fail then some false else x.waitaRes }
  | .queue q => s.modQueue q fun x => { x with waitTag := none, failed := fail }
  | .saved l i g seq =>
    let mine (x : Saved) : Bool := x.team.launch == l && x.team.index == i
    let s1 := (s.saved.filter mine).foldl (fun s x =>
      match x.team.findCmd g seq fun c => c.stat == .suspended with
      | none => s
      | some c => s.savedEvent x.team.ctx { c with stat := if fail then .faultCancelled else .running } (if fail then 1 else 3)) s
    { s1 with saved := s1.saved.map fun x => if mine x then { x with team := x.team.replyCmd g seq fail } else x }

/-- A reply through a context's window: a tag that is not waiting is ignored. -/
def State.reply (s : State) (f : Func) (c : CtxIx) (tag : Word) (fail : Bool) : Host.Outcome State Fault Refusal :=
  s.windowWrite f (some c) fun s =>
    match s.ctxs[c].replies.find? fun x => x.1 == tag with
    | none => .next s
    | some x => .next ((s.modCtx c fun y => { y with replies := y.replies.filter fun z => z.1 != tag }).replyTo x.2 fail)

/-- Rests on notes/assumptions 96 (DEDUCED). -/
def execReplyRetry (f : Func) (c : CtxIx) (tag : Word) (s : State) : Host.Outcome State Fault Refusal := s.reply f c tag false

/-- Rests on notes/assumptions 96 (DEDUCED). -/
def execReplyFail (f : Func) (c : CtxIx) (tag : Word) (s : State) : Host.Outcome State Fault Refusal := s.reply f c tag true

/-! ## Asynchronous traps and promotion -/

/-- The pending trap that the group in hand takes next is a queue-deadlock trap. -/
def State.nextIsDeadlock (s : State) : Bool :=
  match s.grp.pend[s.team.pickPend s.gix s.grp.pend]? with | some p => p.trap.cause == 0x154 | none => false

/-- A group of lower index of the team can take a queue-deadlock trap: it goes first (spec/08 R164). -/
def State.deadlockBefore (s : State) : Bool :=
  s.nextIsDeadlock && (List.finRange 16).any fun g => decide (g.val < s.gix.val) && (s.at s.cur g).grp.deliverable && (s.at s.cur g).nextIsDeadlock

/-- A pending trap, or a requested stop, reaches the group at an issue boundary (spec/16 R324, R326, spec/17 R351). -/
def execAsyncTrapDelivery (t : TeamIx) (g : GrpIx) (s : State) : Host.Outcome State Fault Refusal :=
  let s0 := s.at t g
  if s0.team.live && s0.die.up && s0.die.relock.isNone && s0.grp.deliverable && !s0.draining && s0.grp.lnch.isNone && (s0.grp.stopReq || !s0.deadlockBefore) then
    .next { s0.deliver with cur := s.cur, gix := s.gix }
  else s.wait

/-- A contender, the scalar stream of a group or one of its splits, that has been ready for 1,024 core clocks without issuing is promoted until it issues
(spec/15 R313). Since when it has been ready is timing; that it has issued nothing for so long is what the state shows.
Rests on notes/assumptions 63 (DEDUCED). -/
def execIssuePromotion (t : TeamIx) (c : GrpIx × Option SplitIx) (s : State) : Host.Outcome State Fault Refusal :=
  let x := s.teams[t]
  let g := c.1
  let k := c.2
  let y := x.groups[g]
  let last := y.lastIssue[(match k with | none => (0 : Fin 5) | some k => k.succ)]
  if x.live && y.phase == .running && (match k with | none => true | some k => y.splits[k].isSome) &&
      decide (1024 ≤ (s.dies[dieOf x.core].ccyc - last).toNat) && !(s.cores[x.core].promoted.contains (t, g, k)) then
    .next (s.modCore x.core fun y => { y with promoted := y.promoted ++ [(t, g, k)] })
  else s.wait

end Sys2Proof.Machine
end

