-- ==== Sys2Proof/Machine/Place.lean ====
section
/-! DEFINITION. Placement of teams, their retirement, and pre-emption: saves, restores, partition switches and cores that do not halt (spec/15 R297, R308,
spec/16 R331-R336, spec/10 R214). -/

namespace Sys2Proof.Machine

/-! ## What fits on a core (spec/01 R13) -/

/-- The bytes of scratchpad of a team. -/
def padBytes (o : Obj) (spadX : Nat) : Nat := 4096 * (o.spadG + spadX)

/-- The pools of a core beside slots and scratchpad have room for one more team. -/
def poolsFit (rs : List Team) (o : Obj) : Bool :=
  let total (f : Obj → Nat) : Nat := (rs.map fun t => f t.obj).sum + f o
  decide (total Obj.granules ≤ 256) && decide (total (fun x => x.tiles) ≤ 32) && decide (total (fun x => x.accs) ≤ 8) &&
  decide (total (fun x => x.htabs) ≤ 16) && decide (total (fun x => x.hoists) ≤ 256) && decide (total (fun x => x.bars) ≤ 256)

/-- Group slots in use. -/
def usedSlots (rs : List Team) : List Nat := rs.flatMap fun t => t.slots

/-- A scratchpad allocation is free. -/
def padFree (rs : List Team) (ways base n : Nat) : Bool :=
  base % 4096 == 0 && decide (base + n ≤ spadBytes ways) && rs.all fun t => !overlaps base n t.spadBase t.spadSize

/-- The team fits at these places. -/
def fitsAt (rs : List Team) (ways : Nat) (o : Obj) (spadX base : Nat) (slots : List Nat) : Bool :=
  slots.length == o.groups && decide slots.Nodup && (slots.all fun x => decide (x < 64) && !(usedSlots rs).contains x) && poolsFit rs o &&
  padFree rs ways base (padBytes o spadX)

/-- The team fits somewhere on the core. -/
def fitsOn (rs : List Team) (ways : Nat) (o : Obj) (spadX : Nat) : Bool :=
  decide ((usedSlots rs).length + o.groups ≤ 64) && poolsFit rs o &&
  ((0 :: rs.map fun t => t.spadBase + t.spadSize).any fun b => padFree rs ways b (padBytes o spadX))

/-- The ways that a placement works with: a team with race detection needs 3 (spec/08 R165).
Rests on notes/assumptions 94 (DEDUCED). -/
def State.waysFor (s : State) (c : CoreIx) (race : Bool) : Option Nat :=
  if race && decide (s.cores[c].ways < 3) then (if s.resizeRefused c 3 then none else some 3) else some s.cores[c].ways

/-- The partition of a context. -/
def State.partOf (s : State) (c : CtxIx) : Partition := match s.parts.toList[s.ctxs[c].field 0x40 1]? with | some p => p | none => Partition.zero

/-- A core that may run a context: its cluster is ready, its die is up and allowed, and the context's partition holds the cluster (R297, spec/16 R336).
Rests on notes/assumptions 58 (DEDUCED). -/
def State.coreAllows (s : State) (c : CoreIx) (x : CtxIx) (dies : BitVec 4) : Bool :=
  s.mgmt.ready1.getLsbD (clusterOf c).val && s.dies[dieOf c].up && s.dies[dieOf c].relock.isNone && dies.getLsbD (dieOf c).val && s.ctxs[x].valid &&
  (s.partOf x).clmask.getLsbD (clusterOf c).val

/-- The partition of a context runs it.
Rests on notes/assumptions 58 (DEDUCED). -/
def State.partRuns (s : State) (x : CtxIx) : Bool := (s.partOf x).st == 1 && (s.partOf x).ctx.toNat == x.val

/-- REFT on a core has reached a launch's START (R297). -/
def State.startReached (s : State) (c : CoreIx) (start : DWord) : Bool := start == 0 || decide ((s.reftAt (dieOf c) - start).toNat < 2 ^ 63)

/-- The next team of a launch could go to a core now.
Rests on notes/assumptions 57 (DEDUCED). -/
def State.couldPlace (s : State) (l : Launch) (c : CoreIx) : Bool :=
  !l.stopped && decide (l.next < l.total) && s.ordDone l.after && s.startReached c l.start && s.coreAllows c l.ctx l.dieMask && s.partRuns l.ctx &&
  (match s.waysFor c l.race with | none => false | some w => fitsOn (s.residents c) w l.obj l.spadX)

/-- Launch a is dispatched before launch b (R297).
Rests on notes/assumptions 57 (DEDUCED). -/
def Launch.before (a b : Launch) : Bool := decide (b.prio < a.prio) || (a.prio == b.prio && decide (a.id < b.id))

/-! ## A core takes a team -/

/-- A core begins to run a context: another one than before finds the Guidon table and the counters zero, and the samples of the old one spill (spec/07 R143,
spec/17 R340, R349). -/
def State.enterContext (s : State) (c : CoreIx) (x : CtxIx) : State :=
  if s.cores[c].lastCtx = some x then s
  else
    let s1 := s.spillSamples c fun y => y.ctx != x
    (s1.modCore c fun y =>
      { y with guidon := [], cnt := Vector.replicate 16 0, cntBase := s.dies[dieOf c].ccyc, lastCtx := some x }).modCluster (clusterOf c) fun y =>
      { y with passes := 0 }

/-- A group as it starts (spec/03 R56); its matrix priority is the launch's.
Rests on notes/assumptions 6 (DESIGN CHOICE). -/
def startGroup (l : Launch) : Group :=
  { Group.zero with
    phase := .running, spc := l.obj.entry, prevSpc := l.obj.entry, mpri := BitVec.ofNat 2 l.prio,
    sregs := Vector.ofFn fun i => if i.val < 16 then BitVec.ofNat 32 (field l.args (4 * i.val) 4) else 0 }

/-- The team of a launch that is placed next (R297, spec/08 R159, R161).
Rests on notes/assumptions 6 (DESIGN CHOICE). -/
def newTeam (l : Launch) (part : Nat) (core : CoreIx) (spad : Nat) (slots : List Nat) : Team :=
  let w := l.tdim[0].toNat
  let h := l.tdim[1].toNat
  { Team.zero with
    live := true, launch := l.id, launchId := l.lid, ctx := l.ctx, part := part,
    coord := #v[BitVec.ofNat 32 (l.next % w), BitVec.ofNat 32 (l.next / w % h), BitVec.ofNat 32 (l.next / (w * h))], dims := l.tdim, obj := l.obj,
    handler := l.handler, prio := l.prio, scope := l.scope, race := l.race, raceTrap := l.raceTrap, core := core, slots := slots, spadBase := spad,
    spadSize := padBytes l.obj l.spadX, index := l.next,
    groups := Vector.ofFn fun g => if g.val < l.obj.groups then startGroup l else Group.zero,
    hoists := Vector.ofFn fun q => { Hoist.zero with cap := l.obj.caps.getD q.val 0, allow := l.obj.caps.getD q.val 0 } }

/-- A team that a core takes: its streams count their wait for promotion from now (R313). -/
def Team.arrives (t : Team) (now : DWord) : Team := { t with groups := mapAll (fun g => { g with lastIssue := Vector.replicate 5 now }) t.groups }

/-- The invalidations before the first team of a launch on a core and on a die (R297). -/
def State.firstAcquire (s : State) (l : Launch) (c : CoreIx) : State :=
  let s1 := if l.coresInv.contains c then s else (s.acquireUses c l.scope fun _ => true).invL1 c anyByte
  if 4 ≤ l.scope ∧ !l.diesInv.contains (dieOf c) then s1.invFar (dieOf c) anyByte else s1

/-- What the invalidations write back waits for no relocking home.
Rests on notes/assumptions 35 (DEDUCED). -/
def State.acquireWaits (s : State) (c : CoreIx) : Bool := s.pushWaits (s.pushHomes c 4 anyByte fun _ => false)

/-- A core takes the next team of a launch (R297): no launch that comes before it could place its next team on any core now.
Rests on notes/assumptions 57 (DEDUCED). -/
def execTeamPlacement (i : Nat) (t : TeamIx) (core : CoreIx) (spad : Nat) (slots : List Nat) (s : State) : Host.Outcome State Fault Refusal :=
  match s.launches.find? fun l => l.id == i with
  | none => s.wait
  | some l =>
    match s.waysFor core l.race with
    | none => s.wait
    | some w =>
      if s.teams[t].live || !s.couldPlace l core || !fitsAt (s.residents core) w l.obj l.spadX spad slots || s.acquireWaits core ||
         (s.launches.any fun x => x.before l && (List.finRange 160).any fun c => s.couldPlace x c) then s.wait
      else
        let s1 := if w = s.cores[core].ways then s else s.giveUpWays core w
        let s2 := (s1.firstAcquire l core).enterContext core l.ctx
        .next { s2 with
          teams := s2.teams.set t { (newTeam l (s.ctxs[l.ctx].field 0x40 1) core spad slots).arrives s.dies[dieOf core].ccyc with placed := s.tick }
          launches := s2.launches.map fun x =>
            if x.id == i then { x with next := x.next + 1, coresInv := core :: x.coresInv.filter fun y => y != core,
                                       diesInv := if 4 ≤ x.scope then dieOf core :: x.diesInv.filter fun y => y != dieOf core else x.diesInv }
            else x }

/-! ## Retirement (R308) -/

/-- Every group of a team has executed GEXIT, its commands have ended and its matrix requests have completed. -/
def Team.finished (t : Team) : Bool :=
  t.live && (t.groups.toList.all fun g => g.phase == .none || g.phase == .exited) && !(t.cmds.any Cmd.live) && t.reqs.isEmpty

def execTeamRetire (t : TeamIx) (s : State) : Host.Outcome State Fault Refusal :=
  let x := s.teams[t]
  let c := x.core
  if !x.finished || !s.dies[dieOf c].up || s.pushWaits (s.pushHomes c x.scope anyByte anyEntry) then s.wait
  else
    let s1 := (s.sendRed c anyEntry []).pushScope c x.scope
    let s2 := s1.freeTeam t
    .next { s2 with launches := s2.launches.map fun l => if l.id == x.launch then { l with retired := l.retired + 1 } else l }

/-! ## Saves (spec/16 R331-R333) -/

/-- Whether an image fits in the shadow storage of a team's partition on its die (R336). -/
def State.shadowFits (s : State) (t : Team) : Bool :=
  let used := ((s.saved.filter fun x => x.shadow && x.team.part == t.part && dieOf x.team.core == dieOf t.core).map fun x => x.size).sum
  match s.parts.toList[t.part]? with
  | some p => decide (used + t.imageSize ≤ p.shadow * 2 ^ 20)
  | none => false

/-- The lowest free place of the save area that an image fits (R333). -/
def State.saveSlot (s : State) (t : Team) : Option Nat :=
  let base := s.ctxs[t.ctx].field 0x10 8
  let size := s.ctxs[t.ctx].field 0x60 8
  let taken := (s.saved.filter fun x => !x.shadow && x.team.ctx == t.ctx).map fun x => (x.addr, x.size)
  let ok (a : Nat) : Bool := decide (a + t.imageSize ≤ base + size) && taken.all fun y => !overlaps a t.imageSize y.1 y.2
  let starts := (base :: taken.map fun y => (y.1 + y.2 + 4095) / 4096 * 4096).filter ok
  starts.foldl (fun b a => match b with | none => some a | some x => some (min x a)) none

/-- A group that stops at once for a save: no chain is open, no LNCH whose body the hub has read is under way, and no HSTAT (R331, spec/15 R305, spec/09
R188).
Rests on notes/assumptions 97 (DEDUCED). -/
def Group.haltable (g : Group) : Bool := g.chain.isNone && g.lnch.isNone && (match g.uses with | some (_, b) => !b | none => true)

/-- Every group stops at once, and no HREL is in progress (spec/09 R188). -/
def Team.haltable (t : Team) : Bool := t.groups.toList.all Group.haltable && t.tabs.all fun h => h.rel.isNone

/-- Waiting words give back what they hold outside their groups (R331).
Rests on notes/assumptions 100 (DEDUCED). -/
def State.interruptAll (s : State) (t : TeamIx) : State :=
  (List.finRange 16).foldl (fun s g => s.within t g fun y => y.dropWaits.modTeam fun x => x.dropWaiters g) s

/-- Reply tags of a saved team's commands. -/
def ReplyFor.save (t : TeamIx) (l i : Nat) (w : ReplyFor) : ReplyFor :=
  match w with
  | .cmd x g q => if x = t then .saved l i g q else w
  | _ => w

/-- Reply tags of a restored team's commands. -/
def ReplyFor.restore (t : TeamIx) (l i : Nat) (w : ReplyFor) : ReplyFor :=
  match w with
  | .saved a b g q => if a = l ∧ b = i then .cmd t g q else w
  | _ => w

def State.mapReplies (s : State) (c : CtxIx) (f : ReplyFor → ReplyFor) : State :=
  s.modCtx c fun x => { x with replies := x.replies.map fun y => (y.1, f y.2) }

/-- The L1 ways of a core (spec/08 R150). -/
def State.waysAt (s : State) (c : CoreIx) : Nat := s.cores[c].ways

/-- The image goes to shadow storage, or to the save area; none where it does not fit or a write fails. The answer names the storage, the place and the
header. -/
def State.writeImage (s : State) (t : Team) : Option (State × Bool × Nat × List Byte) :=
  if s.shadowFits t then some (s, true, 0, [])
  else
    match s.saveSlot t with
    | none => none
    | some a =>
      let b := t.imageBytes (s.waysAt t.core)
      match s.hubWrite t.ctx a b with
      | .error _ => none
      | .ok s1 => some (s1, false, a, b.take 256)

/-- The record of a save or a restore that failed. -/
def State.imageRecord (s : State) (t : Team) (cause : Cause) : TrapRec := { s.hubRecord t.ctx cause 0 with launchid := t.launchId, spc := s.launchSpc t.launch }

/-- The team x leaves the entry t with its image where writeImage put it. -/
def State.keepImage (s : State) (x : Team) (t : TeamIx) (fault : Bool) (ways : Nat) (shadow : Bool) (a : Nat) (head : List Byte) : State :=
  let s2 := (s.mapReplies x.ctx (ReplyFor.save t x.launch x.index)).freeTeam t
  { s2 with saved := s2.saved ++ [{ team := x, fault := fault, shadow := shadow, addr := a, size := x.imageSize, head := head, ways := ways }] }

/-- Saves a team that has halted (R332). A save that fails raises cause 0x1E1 and ends the team.
Rests on notes/assumptions 65 (DEDUCED). -/
def State.saveTeam (s : State) (t : TeamIx) (fault : Bool) : State :=
  let s0 := (s.interruptAll t).pushScope s.teams[t].core 4
  let x : Team := { s0.teams[t] with waitSince := none }
  match s0.writeImage x with
  | none => (s0.discardTeam t).sendFatal x.ctx (s0.imageRecord x 0x1E1)
  | some (s1, shadow, a, head) => s1.keepImage x t fault (s.waysAt x.core) shadow a head

/-- A save's release waits for no relocking home.
Rests on notes/assumptions 35 (DEDUCED). -/
def State.saveWaits (s : State) (t : TeamIx) : Bool := s.pushWaits (s.pushHomes s.teams[t].core 4 anyByte anyEntry)

/-! ## Fault saves (spec/10 R214) -/

/-- The scalar stream of the group in hand waits on a suspended command. -/
def State.waitsSuspended (s : State) : Bool :=
  let sus (r : CmdRec) : Bool := r.stat == .suspended
  let own := s.team.cmds.any fun c => c.gix == s.gix && c.stat == .suspended
  match s.scalarInstr with
  | .cwait a => s.grp.batches.any fun b => seqLe 16 b.seq.toNat (s.sr a).toNat && b.cmds.any sus
  | .crows a b => !s.rowsReached (s.sr a).toNat (s.sr b) && s.team.cmds.any fun c => c.stat == .suspended && c.counts && dRctr c.w == (s.sr a).toNat
  | .fenceRel _ | .fenceAcqrel _ | .fenceSc _ | .prelAdd _ _ | .prelSet _ _ => own
  | _ => false

/-- Every group of the team in hand that goes on waits on a fault.
Rests on notes/assumptions 66 (DEDUCED). -/
def State.faultWaits (s : State) : Bool :=
  s.team.live && (s.team.cmds.any fun c => c.stat == .suspended) &&
  (List.finRange 16).all fun g =>
    let x := (s.at s.cur g).grp
    x.phase == .none || x.phase == .exited || (x.phase == .running && x.block.isNone && (s.at s.cur g).waitsSuspended)

/-- The threshold of a context (spec/16 R329), or none where it disables the save. -/
def Ctx.faultTicks (c : Ctx) : Option Nat := match c.field 0x3C 4 with | 0 => some 20000 | 0xFFFFFFFF => none | n => some n

/-- The condition of R214 begins to be timed, and at the threshold the team is saved; an image that does not fit leaves the team waiting (spec/16 R333).
Rests on notes/assumptions 66 (DEDUCED). -/
def execFaultSave (t : TeamIx) (s : State) : Host.Outcome State Fault Refusal :=
  let x := s.teams[t]
  if !(s.at t 0).faultWaits || !x.haltable then s.wait
  else
    match x.waitSince, s.ctxs[x.ctx].faultTicks with
    | none, _ => .next { s with teams := s.teams.set t { x with waitSince := some s.reft.toNat } }
    | some _, none => s.wait
    | some a, some n =>
      if (s.reft.toNat + 2 ^ 64 - a) % 2 ^ 64 < n || s.saveWaits t || (!s.shadowFits x && (s.saveSlot x).isNone) then s.wait
      else .next (s.saveTeam t true)

/-! ## Restores (spec/16 R334) -/

/-- A saved team may come back: its partition runs its context, or is restoring it, and a fault save has no suspended command left. -/
def State.restorable (s : State) (x : Saved) : Bool :=
  let p := s.partOf x.team.ctx
  p.ctx.toNat == x.team.ctx.val && (p.st == 1 || (p.st == 2 && p.swapped)) && (!x.fault || !(x.team.cmds.any fun c => c.stat == .suspended))

/-- The team as it comes back on another core: its race shadows are gone (they are no part of an image), its matrix requests are posted again.
Rests on notes/assumptions 44 (DEDUCED), 64 (DEDUCED). -/
def Team.moved (t : Team) (core : CoreIx) (spad : Nat) (slots : List Nat) (ccyc : DWord) (tick : Nat) : Team :=
  ({ t with core := core, spadBase := spad, slots := slots, shadow := [], past := [], placed := tick,
            reqs := t.reqs.map fun r => { r with starved := false, since := none, post := tick } } : Team).stamp ccyc

/-- A saved team as its image gives it back, or none where the image cannot be read or its header does not check (R333, R334). Shadow storage is the hub's
alone.
Rests on notes/assumptions 67 (UNVERIFIED). -/
def State.readImage (s : State) (x : Saved) : Option Team :=
  if x.shadow then some x.team
  else
    match s.hubRead x.team.ctx x.addr x.size with
    | .error _ => none
    | .ok b => if x.team.headerBad x.ways b then none else some (x.team.ofImage x.ways b)

/-- Rests on notes/assumptions 64 (DEDUCED), 65 (DEDUCED). -/
def execTeamRestore (i : Nat) (t : TeamIx) (core : CoreIx) (spad : Nat) (slots : List Nat) (s : State) : Host.Outcome State Fault Refusal :=
  match s.saved[i]? with
  | none => s.wait
  | some x =>
    if !s.restorable x then s.wait
    else
      match s.readImage x, s.waysFor core x.team.race with
      | none, _ =>
        let s1 := x.team.endCmds s
        .next ({ s1 with saved := s1.saved.eraseIdx i } |>.sendFatal x.team.ctx (s.imageRecord x.team 0x1E2))
      | some _, none => s.wait
      | some y, some w =>
        if 64 < s.mxEntries (clusterOf core) + y.reqs.length ∨ 96 < s.inFlight core + (y.cmds.filter Cmd.live).length then s.wait
        else if s.teams[t].live || !s.coreAllows core y.ctx 0xF || !fitsAt (s.residents core) w y.obj (y.spadSize / 4096 - y.obj.spadG) spad slots ||
                s.acquireWaits core then s.wait
        else
          let s1 := if w = s.cores[core].ways then s else s.giveUpWays core w
          let s2 := ((s1.acquireScope core 4).enterContext core y.ctx).mapReplies y.ctx (ReplyFor.restore t y.launch y.index)
          .next { s2 with saved := s2.saved.eraseIdx i, teams := s2.teams.set t ((y.moved core spad slots s.dies[dieOf core].ccyc s.tick).arrives s.dies[dieOf core].ccyc) }

/-! ## Partition switches (spec/16 R336, spec/18 R365) -/

/-- The resident teams of a partition. -/
def State.teamsOfPart (s : State) (p : Fin 16) : List TeamIx := (s.teamsOf fun _ => true).filter fun t => s.teams[t].part == p.val

def State.modPart (s : State) (p : Fin 16) (f : Partition → Partition) : State := { s with parts := s.parts.set p (f s.parts[p]) }

/-- A value of CTX that starts a switch: a valid context of the partition, or none. -/
def State.switchable (s : State) (p : Fin 16) (v : BitVec 16) : Bool :=
  v == 0xFFFF || (if h : v.toNat < 256 then s.ctxs[v.toNat].valid && s.ctxs[v.toNat].field 0x40 1 == p.val else false)

/-- A write of CTX starts a switch where the value is one that starts one. While another switch is under way the new one takes its place: before the
outgoing teams are saved they stay the outgoing ones, after it the teams that are back are. A scrub lets none start.
Rests on notes/assumptions 75 (DEDUCED). -/
def State.startSwitch (s : State) (p : Fin 16) (v : BitVec 16) : State :=
  let x := s.parts[p]
  if s.switchable p v && decide (x.st ≤ 2) && !(x.st == 2 && x.next == v) then
    s.modPart p fun y => { y with st := 2, next := v, swapped := false, since := if x.st = 2 ∧ !x.swapped then y.since else s.reft }
  else s

/-- A write of CTX starts a switch; the switch then saves the outgoing teams once they have halted, and ends when the incoming context's teams are back. -/
def execPartitionSwitch (p : Fin 16) (v : BitVec 16) (s : State) : Host.Outcome State Fault Refusal :=
  let x := s.parts[p]
  let ts := s.teamsOfPart p
  if x.st ≤ 1 ∨ (x.st = 2 ∧ x.next ≠ v) then .next (s.startSwitch p v)
  else if x.st = 2 ∧ x.next = v then
    if !x.swapped then
      if (ts.all fun t => s.teams[t].haltable) && !(ts.any fun t => s.saveWaits t) then
        .next ((ts.foldl (fun s t => s.saveTeam t false) s).modPart p fun y => { y with ctx := v, swapped := true })
      else s.wait
    else if s.saved.any fun y => s.restorable y && y.team.part == p.val && !y.fault then s.wait
    else .next (s.modPart p fun y => { y with st := if v = 0xFFFF then 0 else 1 })
  else .next s

/-- A core that has not halted 4 us after the request (R331): cause 0x1E0, its teams are lost, and their launches end with status 2.
Rests on notes/assumptions 65 (DEDUCED). -/
def execHaltTimeout (core : CoreIx) (s : State) : Host.Outcome State Fault Refusal :=
  let late (t : TeamIx) : Bool :=
    match s.parts.toList[s.teams[t].part]? with
    | some p => p.st == 2 && !p.swapped && decide (4000 < (s.reft - p.since).toNat)
    | none => false
  let ts := (s.teamsOf fun _ => true).filter fun t => s.teams[t].core == core && late t
  if ts.all fun t => s.teams[t].haltable then s.wait
  else
    let ids := ts.map fun t => s.teams[t].launch
    let cs := (ts.map fun t => s.teams[t].ctx).eraseDups
    let s1 := s.dropSaved fun x => ids.contains x.team.launch
    let s2 := (s1.teamsOf fun i => ids.contains i).foldl (fun s t => s.discardTeam t) s1
    let r (c : CtxIx) : TrapRec := { s.hubRecord c 0x1E0 0 with die := BitVec.ofNat 8 (dieOf core).val, cluster := BitVec.ofNat 8 (clusterOf core).val,
                                                                core := BitVec.ofNat 8 core.val }
    let s3 := cs.foldl (fun s c => (s.sendFatal c (r c)).truncate c 3) s2
    .next ((s.launches.filter fun l => ids.contains l.id).foldl (fun s l => s.endLaunch { l with status := max l.status 2 }) s3)

end Sys2Proof.Machine
end

