-- ==== Sys2Proof/Machine/Shake.lean ====
section
/-! DEFINITION. SHAKE256, the extendable-output function of FIPS 202 that the measurement registers use (spec/18 R362). -/

namespace Sys2Proof.Machine

/-- The 25 lanes of the permutation: lane (x, y) at x + 5y. -/
abbrev Keccak := Vector DWord 25

def Keccak.get (a : Keccak) (x y : Nat) : DWord := a.toList.getD (x % 5 + 5 * (y % 5)) 0

def Keccak.build (f : Nat → Nat → DWord) : Keccak := Vector.ofFn fun i => f (i.val % 5) (i.val / 5)

/-- Rotation offsets by lane. -/
def keccakRot : List Nat := [0, 1, 62, 28, 27, 36, 44, 6, 55, 20, 3, 10, 43, 25, 39, 41, 45, 15, 21, 8, 18, 2, 61, 56, 14]

/-- Round constants. -/
def keccakRc : List DWord :=
  [0x0000000000000001, 0x0000000000008082, 0x800000000000808A, 0x8000000080008000, 0x000000000000808B, 0x0000000080000001, 0x8000000080008081,
   0x8000000000008009, 0x000000000000008A, 0x0000000000000088, 0x0000000080008009, 0x000000008000000A] ++
  [0x000000008000808B, 0x800000000000008B, 0x8000000000008089, 0x8000000000008003, 0x8000000000008002, 0x8000000000000080, 0x000000000000800A,
   0x800000008000000A, 0x8000000080008081, 0x8000000000008080, 0x0000000080000001, 0x8000000080008008]

/-- The column parities and what they add to each lane. -/
def Keccak.theta (a : Keccak) : Keccak :=
  let c (x : Nat) : DWord := a.get x 0 ^^^ a.get x 1 ^^^ a.get x 2 ^^^ a.get x 3 ^^^ a.get x 4
  let d : List DWord := (List.range 5).map fun x => c (x + 4) ^^^ (c (x + 1)).rotateLeft 1
  Keccak.build fun x y => a.get x y ^^^ d.getD x 0

/-- Lane (x, y) comes, rotated, from lane (x + 3y, x). -/
def Keccak.rhoPi (a : Keccak) : Keccak :=
  Keccak.build fun x y => (a.get (x + 3 * y) x).rotateLeft (keccakRot.getD ((x + 3 * y) % 5 + 5 * (x % 5)) 0)

def Keccak.chiIota (a : Keccak) (rc : DWord) : Keccak :=
  Keccak.build fun x y => (a.get x y ^^^ (~~~(a.get (x + 1) y) &&& a.get (x + 2) y)) ^^^ (if x = 0 ∧ y = 0 then rc else 0)

def keccakF (a : Keccak) : Keccak := keccakRc.foldl (fun a rc => (a.theta.rhoPi).chiIota rc) a

/-- One block of 136 bytes goes in. -/
def Keccak.absorb (a : Keccak) (b : List Byte) : Keccak :=
  keccakF (Keccak.build fun x y => a.get x y ^^^ BitVec.ofNat 64 (ofBytes ((b.drop (8 * (x + 5 * y))).take 8)))

def shakeBlocks (a : Keccak) (b : List Byte) : (fuel : Nat) → Keccak
  | 0 => a
  | n + 1 => if b.length ≤ 136 then a.absorb b else shakeBlocks (a.absorb (b.take 136)) (b.drop 136) n

/-- A message padded to whole blocks. -/
def shakePad (m : List Byte) : List Byte :=
  let r := 136 - m.length % 136
  m ++ (if r = 1 then [0x9F] else [0x1F] ++ List.replicate (r - 2) 0 ++ [0x80])

/-- The first 256 bits of SHAKE256 of a message. -/
def shake256 (m : List Byte) : List Byte :=
  let a := shakeBlocks (Keccak.build fun _ _ => 0) (shakePad m) (m.length + 1)
  (List.range 4).flatMap fun i => toBytes 8 (a.get i 0).toNat

end Sys2Proof.Machine
end

