-- ==== Sys2Proof/Machine/Window.lean ====
section
/-! DEFINITION. The windows of the host: the writes that have rows of their own, the registers of the BARs, the partition records, and the mailbox of the
security engine (spec/18 R353-R371, spec/15 R291, R298, R299, spec/13 R266, spec/10 R196, R197, spec/16 R322, R325, R329, R330, spec/17 R351). -/

namespace Sys2Proof.Machine

/-- What a field of a record holds after a write of size bytes at off, where the write touches it.
Rests on notes/assumptions 73 (DESIGN CHOICE). -/
def overlay (old foff flen off size v : Nat) : Option Nat :=
  if overlaps foff flen off size then
    some (ofBytes ((List.range flen).map fun i =>
      if off ≤ foff + i ∧ foff + i < off + size then BitVec.ofNat 8 (v / 2 ^ (8 * (foff + i - off))) else BitVec.ofNat 8 (old / 2 ^ (8 * i))))
  else none

/-! ## Service (R367) -/

/-- The service word with SR as the OR of bits [9:1]. -/
def serviceWord (v : Word) : Word :=
  let b := v &&& 0x3FE
  if b = 0 then 0 else b ||| 1

/-- Sets a service bit; a rising bit raises PF vector 0. -/
def State.setService (s : State) (k : Nat) : State :=
  let s1 : State := { s with mgmt := { s.mgmt with service := serviceWord (s.mgmt.service ||| (1 : Word) <<< k) } }
  if s.mgmt.service.getLsbD k then s1 else { s1 with mgmt := s1.mgmt.interrupt (0, 0) }

/-- Writing 1 to bits [9:1] clears them. -/
def State.clearService (s : State) (v : Word) : State :=
  { s with mgmt := { s.mgmt with service := serviceWord (s.mgmt.service &&& ~~~v) } }

def execServiceClear (bits : Word) (s : State) : Host.Outcome State Fault Refusal := .next (s.clearService bits)

/-- The package power limit (R371).
Rests on notes/assumptions 5 (DESIGN CHOICE). -/
def State.setTdp (s : State) (w : Nat) : State :=
  if 900 ≤ w ∧ w ≤ 1600 ∧ w % 25 = 0 then { s with mgmt := { s.mgmt with tdp := BitVec.ofNat 32 w } } else s

def execTdpWrite (watts : Word) (s : State) : Host.Outcome State Fault Refusal := .next (s.setTdp watts.toNat)

/-! ## Queues (spec/15 R291, R292) -/

def execQueueDoorbell (f : Func) (q : QueueIx) (widx : DWord) (s : State) : Host.Outcome State Fault Refusal :=
  s.windowWrite f (s.queueCtx q) fun s => .next (s.modQueue q fun x => { x with widx := widx })

/-- A write of STATE: 0 stops a queue, 1 starts one that is stopped or in error, at the packet that the read index names; others are not accepted.
Rests on notes/assumptions 118 (DESIGN CHOICE). -/
def State.setQueueState (s : State) (q : QueueIx) (v : Nat) : State :=
  if v = 0 ∨ (v = 1 ∧ s.queues[q].state ≠ 1) then
    let s1 := s.modQueue q fun x => { x with state := v, packet := none, fence := none, waitTag := none, failed := false }
    match s.queueCtx q with
    | none => s1
    | some c => s1.modCtx c fun x => { x with replies := x.replies.filter fun y => y.2 != .queue q }
  else s

def execQueueStateWrite (f : Func) (q : QueueIx) (st : Byte) (s : State) : Host.Outcome State Fault Refusal :=
  s.windowWrite f (s.queueCtx q) fun s => .next (s.setQueueState q st.toNat)

/-- A write of a queue descriptor, field by field; a value outside a field's range is not accepted.
Rests on notes/assumptions 69 (DESIGN CHOICE). -/
def State.writeQueue (s : State) (q : QueueIx) (off size v : Nat) : State :=
  let x := s.queues[q]
  let s1 := match overlay x.ring.toNat 0 8 off size v with
    | some n => if n % 64 = 0 then s.modQueue q fun y => { y with ring := BitVec.ofNat 64 n } else s
    | none => s
  let s2 := match overlay x.log2n 8 1 off size v with
    | some n => if 4 ≤ n ∧ n ≤ 20 then s1.modQueue q fun y => { y with log2n := n } else s1
    | none => s1
  let s3 := match overlay x.state 9 1 off size v with
    | some n => s2.setQueueState q n
    | none => s2
  let s4 := match overlay x.ctx.toNat 0x0A 2 off size v with
    | some n => s3.modQueue q fun y => { y with ctx := BitVec.ofNat 16 n }
    | none => s3
  match overlay x.ridxa.toNat 0x10 8 off size v with
  | some n => if n % 8 = 0 then s4.modQueue q fun y => { y with ridxa := BitVec.ofNat 64 n } else s4
  | none => s4

/-! ## Counters (spec/15 R298, R299) -/

/-- A write of TARGET re-arms; a value outside 1 to 2^24 is ignored. -/
def State.writeTarget (s : State) (k v : Nat) : State := if 1 ≤ v ∧ v ≤ 2 ^ 24 then s.rearm k (BitVec.ofNat 32 v) else s

def execCounterTargetWrite (f : Func) (k : Fin 4096) (target : Word) (s : State) : Host.Outcome State Fault Refusal :=
  s.windowWrite f (s.owner .counters k.val) fun s => .next (s.writeTarget k.val target.toNat)

/-- The counters of the context that owns counter k. -/
def State.counterCount (s : State) (k : Nat) : Nat := match s.owner .counters k with | some c => (s.ctx c).count .counters | none => 0

/-- A counter with a field of its record replaced, or as it was where the field is not written or the value is ignored.
Rests on notes/assumptions 69 (DESIGN CHOICE). -/
def Counter.putField (x : Counter) (count foff n : Nat) : Counter :=
  match foff with
  | 0x08 => if n = 0xFFFF ∨ n < count then { x with parent := BitVec.ofNat 16 n } else x
  | 0x0A => if n ≤ 4 then { x with level := BitVec.ofNat 8 n } else x
  | 0x0B => { x with act := BitVec.ofNat 8 (n % 16) }
  | 0x0C => { x with msix := BitVec.ofNat 16 n }
  | 0x0E => { x with pen := BitVec.ofNat 16 n }
  | 0x10 => if n % 16 = 0 then { x with waddr := BitVec.ofNat 64 n } else x
  | 0x18 => { x with wval := BitVec.ofNat 64 n }
  | 0x21 => if 1 ≤ n ∧ n ≤ 5 then { x with scope := BitVec.ofNat 8 n } else x
  | _ => x

/-- The writable fields but TARGET: offset, bytes, value now. -/
def Counter.fields (x : Counter) : List (Nat × Nat × Nat) :=
  [(0x08, 2, x.parent.toNat), (0x0A, 1, x.level.toNat), (0x0B, 1, x.act.toNat), (0x0C, 2, x.msix.toNat), (0x0E, 2, x.pen.toNat), (0x10, 8, x.waddr.toNat),
   (0x18, 8, x.wval.toNat), (0x21, 1, x.scope.toNat)]

def State.writeCounter (s : State) (k off size v : Nat) : State :=
  let x := s.counter k
  let n := s.counterCount k
  let s1 := match overlay x.target.toNat 4 4 off size v with
    | some t => s.writeTarget k t
    | none => s
  let y := x.fields.foldl (fun y e => match overlay e.2.2 e.1 e.2.1 off size v with | some w => y.putField n e.1 w | none => y) (s1.counter k)
  s1.setCounter k y

/-! ## Combining slots (spec/13 R266) -/

/-- A slot record is written: the slot re-arms. -/
def State.putSlot (s : State) (k : Fin 256) (raw : Nat) : State :=
  let f (off n : Nat) : Nat := raw / 2 ^ (8 * off) % 2 ^ (8 * n)
  let penen := f 0x0D 1 / 2 % 2 == 1
  let pens := match s.owner .slots k.val with | some c => (s.ctx c).count .pennants | none => 0
  let ok := decide (f 0x0C 1 ≤ 6) && decide (1 ≤ f 8 4 ∧ f 8 4 ≤ 2 ^ 24) && f 0 8 % 8 == 0 && f 0x0D 1 / 4 == 0 && f 0x18 8 == 0 &&
    (!penen || decide (f 0x0E 2 < pens))
  s.setSlot k.val
    { resaddr := BitVec.ofNat 64 (f 0 8), expect := f 8 4, op := f 0x0C 1, armed := ok, penen := penen, pen := f 0x0E 2, count := 0, round := 0, contribs := [] }

def execSlotRecordWrite (f : Func) (k : Fin 256) (raw : BitVec 256) (s : State) : Host.Outcome State Fault Refusal :=
  s.windowWrite f (s.owner .slots k.val) fun s => .next (s.putSlot k raw.toNat)

/-- The record of a slot as it reads. -/
def Slot.raw (x : Slot) : Nat :=
  ofBytes (toBytes 8 x.resaddr.toNat ++ toBytes 4 x.expect ++ toBytes 1 x.op ++
           toBytes 1 ((if x.armed then 1 else 0) + (if x.penen then 2 else 0)) ++ toBytes 2 x.pen ++ toBytes 4 x.count ++ toBytes 4 x.round.toNat)

/-! ## Shape entries (spec/10 R196, R197) -/

/-- The checks of R197 on the 64 bytes of an entry. -/
def shapeOk (b : List Byte) : Bool :=
  let fmt := field b 0x08 1
  let rank := field b 0x09 1
  decide (fmt ≤ 0x11) && decide (1 ≤ rank ∧ rank ≤ 5) && decide (field b 0x0A 1 < 16) && decide (field b 0x0B 1 ≤ 1) && zeroAt b 0x0F 1 && zeroAt b 0x3C 4 &&
  ((List.range 5).all fun d => decide (rank ≤ d) || decide (1 ≤ field b (0x10 + 4 * d) 4)) &&
  field b 0 8 % (if fmtBits fmt = 4 then 1 else fmtBits fmt / 8) == 0 &&
  (fmtBits fmt != 4 || (List.range 4).all fun d => decide (rank ≤ d + 1) || field b (0x24 + 6 * d) 6 % 2 == 0)

/-- The entry at the shape index is written with STATUS as the checks give it.
Rests on notes/assumptions 69 (DESIGN CHOICE). -/
def State.commitShape (s : State) (c : CtxIx) : State :=
  let x := s.ctxs[c]
  let b := toBytes 64 x.shapeBuf.toNat
  let e := b.set 0x0E (if shapeOk b then 1 else 0)
  if x.valid then (s.homeBytes none (x.field 8 8 + 64 * x.shapeIx) (e.map fun y => (y, false))).watch else s

/-- A write into the entry's 64 bytes; one that reaches the last 8 commits. -/
def State.writeShape (s : State) (c : CtxIx) (off size v : Nat) : State :=
  match overlay s.ctxs[c].shapeBuf.toNat 0 64 off size v with
  | none => s
  | some n =>
    let s1 := s.modCtx c fun x => { x with shapeBuf := BitVec.ofNat 512 n }
    if overlaps 0x38 8 off size then s1.commitShape c else s1

def execShapeEntryCommit (f : Func) (c : CtxIx) (last : DWord) (s : State) : Host.Outcome State Fault Refusal :=
  s.windowWrite f (some c) fun s => .next (s.writeShape c 0x38 8 last.toNat)

/-! ## Context descriptors (spec/16 R329) -/

/-- A descriptor with its reserved bytes and bits zero: a nonzero value written to them is ignored (spec/00 R5, R329).
Rests on notes/assumptions 115 (DEDUCED). -/
def descriptorKept (raw : BitVec 1024) : BitVec 1024 :=
  let ones (off bits : Nat) : BitVec 1024 := BitVec.ofNat 1024 (2 ^ bits - 1) <<< (8 * off)
  raw &&& ~~~(ones 0x2E 16 ||| ones 0x41 8 <<< 1 ||| ones 0x42 48 ||| ones 0x5C 32 ||| ones 0x68 192)

/-- Every field of a descriptor is in range. -/
def descriptorInRange (raw : BitVec 1024) : Bool :=
  let f (off n : Nat) : Nat := bitsOf raw (8 * off) (8 * n)
  f 0x00 8 % 4096 == 0 && f 0x08 8 % 65536 == 0 && f 0x10 8 % 4096 == 0 && f 0x18 8 % 64 == 0 && f 0x20 8 % 64 == 0 &&
  decide (8 ≤ f 0x28 1 ∧ f 0x28 1 ≤ 16) && decide (6 ≤ f 0x29 1 ∧ f 0x29 1 ≤ 16) && f 0x2E 2 == 0 &&
  decide (f 0x30 2 + f 0x32 2 ≤ 4096) && decide (f 0x34 2 + f 0x36 2 ≤ 4096) && decide (f 0x38 2 + f 0x3A 2 ≤ 256) &&
  decide (f 0x40 1 < 16) && decide (f 0x41 1 < 2) && f 0x42 6 == 0 && f 0x48 8 % 64 == 0 && f 0x50 8 % 4096 == 0 &&
  decide (1 ≤ f 0x58 4 ∧ f 0x58 4 ≤ 65536) && f 0x5C 4 == 0 && f 0x60 8 % 4096 == 0 && f 0x68 24 == 0

/-- No range of a descriptor meets one of another valid context. -/
def State.rangesFree (s : State) (c : CtxIx) (raw : BitVec 1024) : Bool :=
  let x : Ctx := { s.ctxs[c] with raw := raw }
  (List.finRange 256).all fun d =>
    d == c || !s.ctxs[d].valid ||
    [HubRange.pennants, HubRange.counters, HubRange.slots].all fun r =>
      !overlaps (x.base r) (x.count r) (s.ctxs[d].base r) (s.ctxs[d].count r)

/-- Every counter and pennant of a context's ranges takes its fresh state (spec/15 R299, spec/12 R244).
Rests on notes/assumptions 70 (DESIGN CHOICE). -/
def State.freshRanges (s : State) (c : CtxIx) : State :=
  let x := s.ctxs[c]
  let s1 := (List.range (x.count .counters)).foldl (fun s i => s.setCounter (x.base .counters + i) Counter.fresh) s
  (List.range (x.count .pennants)).foldl (fun s i => s.setPennant (x.base .pennants + i) Pennant.fresh) s1

/-- A descriptor is written: VALID is the hub's. A context that becomes valid has empty rings; one that becomes invalid ends its session (spec/17 R346).
Rests on notes/assumptions 69 (DESIGN CHOICE), 70 (DESIGN CHOICE), 115 (DEDUCED). -/
def State.putDescriptor (s : State) (c : CtxIx) (written : BitVec 1024) : State :=
  let raw := descriptorKept written
  let ok := descriptorInRange raw && s.rangesFree c raw
  let bit : BitVec 1024 := 1 <<< 520
  let kept := (raw &&& ~~~bit) ||| (if ok then bit else 0)
  let was := s.ctxs[c].valid
  let s1 := if was && !ok then (s.truncate c 2).closeSession c else s
  let s2 := s1.modCtx c fun x =>
    { x with raw := kept, valid := ok, fring := if ok && !was then RingSt.zero else x.fring, rring := if ok && !was then RingSt.zero else x.rring }
  if ok then s2.freshRanges c else s2

def execContextDescriptorWrite (c : CtxIx) (raw : BitVec 1024) (s : State) : Host.Outcome State Fault Refusal := .next (s.putDescriptor c raw)

/-! ## Invalidation (spec/16 R330) -/

/-- Drops the translations of a context that meet p.
Rests on notes/assumptions 71 (DESIGN CHOICE). -/
def State.dropTranslations (s : State) (p : TlbE → Bool) : State :=
  { s with cores := mapAll (fun c => { c with utlb := c.utlb.filter fun e => !p e }) s.cores
           dies := mapAll (fun d => { d with tlb := d.tlb.filter fun e => !p e }) s.dies }

/-- Rests on notes/assumptions 71 (DESIGN CHOICE). -/
def execInvalidation (f : Func) (c : CtxIx) (va : DWord) (logsz : Byte) (s : State) : Host.Outcome State Fault Refusal :=
  s.windowWrite f (some c) fun s =>
    let n := logsz.toNat
    if n = 0xFF then .next ((s.dropTranslations fun e => e.ctx == c).modCtx c fun x => { x with invDone := true, invErr := false })
    else if 16 ≤ n ∧ n ≤ 63 ∧ va.toNat % 2 ^ n = 0 then
      .next ((s.dropTranslations fun e => e.ctx == c && overlaps e.va e.size va.toNat (2 ^ n)).modCtx c fun x => { x with invDone := true, invErr := false })
    else .next (s.modCtx c fun x => { x with invErr := true })

/-! ## Ring status, debug, stop and resume (spec/16 R322, R325, spec/17 R351) -/

def execRingStatusClear (f : Func) (c : CtxIx) (bits : Word) (s : State) : Host.Outcome State Fault Refusal :=
  s.windowWrite f (some c) fun s => .next (s.modCtx c fun x => { x with ringBad := x.ringBad &&& ~~~(bits.extractLsb' 0 3) })

/-- A group that a stop or a resume command names. -/
def named (t : Team) (c : CtxIx) (launch team : Word) (grp : Byte) (g : GrpIx) : Bool :=
  t.ctx == c && t.launchId == launch && (team == 0xFFFFFFFF || team.toNat == t.index) && (grp == 0xFF || grp.toNat == g.val)

/-- A change of every named group, in resident teams and in saved ones.
Rests on notes/assumptions 74 (DEDUCED). -/
def State.modNamed (s : State) (c : CtxIx) (launch team : Word) (grp : Byte) (f : Group → Group) : State :=
  let upd (t : Team) : Team :=
    { t with groups := Vector.ofFn fun g => if named t c launch team grp g then f t.groups[g] else t.groups[g]
             waitSince := if (List.finRange 16).any fun g => named t c launch team grp g then none else t.waitSince }
  let s1 := (s.teamsOf fun _ => true).foldl (fun s t => { s with teams := s.teams.set t (upd s.teams[t]) }) s
  { s1 with saved := s1.saved.map fun x => { x with team := upd x.team } }

def execStopRequest (f : Func) (c : CtxIx) (launch team : Word) (grp : Byte) (s : State) : Host.Outcome State Fault Refusal :=
  s.windowWrite f (some c) fun s =>
    .next (s.modNamed c launch team grp fun g => if g.phase == .running then { g with stopReq := true } else g)

/-- A stopped group resumes: as an ERET with FWD 0, with the DSTOP that stopped it passed once, and under single step where the debug register asks for it.
Rests on notes/assumptions 74 (DEDUCED). -/
def Group.restart (step : Bool) (g : Group) : Group :=
  if g.phase == .stopped && !g.priv.fwd then
    let debug := g.priv.ecause.extractLsb' 0 9 == (0x050 : Cause)
    let g1 := { g.resumeAt with stepping := step, dbgSkip := if debug && g.priv.split.isNone then some g.priv.epc else none }
    match g.priv.split with
    | some k => if debug then { g1 with splits := g1.splits.set k (g1.splits[k].map fun p => { p with dbgSkip := some p.lpc }) } else g1
    | none => g1
  else g

/-- A resume acts as an ERET with the privileged registers as the trap left them: after a double trap with ESTAT.FWD set it forwards the record of the trap
and stays stopped (spec/16 R325, R328). -/
def State.forwardNamed (s : State) (c : CtxIx) (launch team : Word) (grp : Byte) : State :=
  (s.teamsOf fun _ => true).foldl (fun s t => (List.finRange 16).foldl (fun s g =>
    if named s.teams[t] c launch team grp g && s.teams[t].groups[g].phase == .stopped && s.teams[t].groups[g].priv.fwd then s.within t g State.forwardTrap else s) s) s

def execResumeCommand (f : Func) (c : CtxIx) (launch team : Word) (grp : Byte) (s : State) : Host.Outcome State Fault Refusal :=
  s.windowWrite f (some c) fun s => .next ((s.modNamed c launch team grp (Group.restart s.ctxs[c].stepOn)).forwardNamed c launch team grp)

/-! ## Partition records (R364, R365) -/

/-- SEAL shuts the management processor out; its accesses are single steps, so SEALACK follows at once.
Rests on notes/assumptions 75 (DEDUCED). -/
def State.sealPart (s : State) (p : Fin 16) : State := s.modPart p fun x => { x with sealed := true, sealack := true }

def execPartitionSeal (p : Fin 16) (s : State) : Host.Outcome State Fault Refusal := .next (s.sealPart p)

/-- Zeroes device memory in a range.
Rests on notes/assumptions 75 (DEDUCED). -/
def State.zeroRange (s : State) (r : Nat × Nat) : State :=
  { s with mem := Memory.clear s.mem r.1 r.2, memPoison := s.memPoison.filter fun a => !decide (r.1 ≤ a ∧ a < r.1 + r.2)
           lines := s.lines.filter fun x => !decide (r.1 ≤ 256 * x.1 ∧ 256 * x.1 < r.1 + r.2) }

/-- A scrub begins, accepted only while no context is current and no switch is under way: STATE reads 3 and SCRUB 1 while it runs.
Rests on notes/assumptions 75 (DEDUCED). -/
def State.startScrub (s : State) (p : Fin 16) : State :=
  if s.parts[p].ctx = 0xFFFF ∧ s.parts[p].st ≤ 1 then s.modPart p fun x => { x with scrub := true, st := 3 } else s

/-- A scrub at work: the ranges are zeroed, then SEAL and SEALACK clear, then SCRUB.
Rests on notes/assumptions 75 (DEDUCED). -/
def State.scrubPart (s : State) (p : Fin 16) : State :=
  ((s.parts[p].ranges.foldl (fun s r => s.zeroRange r) s).watch).modPart p fun x => { x with sealed := false, sealack := false, scrub := false, st := 0 }

/-- The write of SCRUB where no scrub runs, else the scrub's own step. -/
def execPartitionScrub (p : Fin 16) (s : State) : Host.Outcome State Fault Refusal :=
  if s.parts[p].scrub then .next (s.scrubPart p) else .next (s.startScrub p)

/-- A write of one of the 16 words of RANGES. -/
def Partition.putRange (x : Partition) (i : Nat) (n : Nat) : Partition :=
  if x.sealed ∨ n % 65536 ≠ 0 then x
  else
    match x.ranges[i / 2]? with
    | none => x
    | some r => { x with ranges := x.ranges.set (i / 2) (if i % 2 = 0 then (n, r.2) else (r.1, n)) }

/-- Another record's mask shares a cluster. -/
def State.maskTaken (s : State) (p : Fin 16) (m : BitVec 64) : Bool := (List.finRange 16).any fun q => q != p && s.parts[q].clmask &&& m != 0

def State.writePart (s : State) (p : Fin 16) (off size v : Nat) : State :=
  let x := s.parts[p]
  let idle := x.ctx == 0xFFFF
  let s1 := match overlay x.clmask.toNat 0 8 off size v with
    | some n =>
      let m := BitVec.ofNat 64 (n % 2 ^ 40)
      if idle && !s.maskTaken p m then s.modPart p fun y => { y with clmask := m } else s
    | none => s
  let s2 := match overlay x.ctx.toNat 8 2 off size v with
    | some n => s1.startSwitch p (BitVec.ofNat 16 n)
    | none => s1
  let s3 := match overlay x.shadow 0x0C 1 off size v with
    | some n => if idle && decide (n ≤ 32) then s2.modPart p fun y => { y with shadow := n } else s2
    | none => s2
  let s4 := (List.range 16).foldl (fun (s : State) i =>
    let r := s.parts[p].ranges.getD (i / 2) (0, 0)
    match overlay (if i % 2 = 0 then r.1 else r.2) (0x20 + 8 * i) 8 off size v with
    | some n => s.modPart p fun y => y.putRange i n
    | none => s) s3
  match overlay 0 0x0B 1 off size v with
  | some n =>
    let s5 := if n % 2 = 1 then s4.sealPart p else s4
    if n / 4 % 2 = 1 then s5.startScrub p else s5
  | none => s4

/-! ## The security engine's mailbox (R362) -/

/-- An extend: M := SHAKE256(M || SHAKE256(component)). -/
def extendWith (m : BitVec 256) (component : List Byte) : BitVec 256 := BitVec.ofNat 256 (ofBytes (shake256 (toBytes 32 m.toNat ++ shake256 component)))

/-- The host extends registers 4-7 only. -/
def execMeasurementExtend (m : Fin 8) (component : List Byte) (s : State) : Host.Outcome State Fault Refusal :=
  if m.val < 4 then .next s
  else .next { s with mgmt := { s.mgmt with meas := s.mgmt.meas.set m (extendWith s.mgmt.meas[m] component) } }

/-- Partitions whose SEAL is set. -/
def State.sealMask (s : State) : BitVec 16 := BitVec.ofNat 16 ((List.finRange 16).foldl (fun n p => if s.parts[p].sealed then n + 2 ^ p.val else n) 0)

/-- The bytes that a quote signs. -/
def State.quoted (s : State) (nonce : BitVec 256) : List Byte :=
  toBytes 32 nonce.toNat ++ (s.mgmt.meas.toList.flatMap fun x => toBytes 32 x.toNat) ++ toBytes 8 s.mgmt.ready0.toNat ++ toBytes 8 s.mgmt.ready1.toNat ++
  toBytes 2 s.sealMask.toNat

/-- Rests on notes/assumptions 77 (DESIGN CHOICE). -/
def execQuoteRequest (nonce : BitVec 256) (s : State) : Host.Outcome State Fault Refusal :=
  let m := s.mgmt
  if !m.booted then s.wait
  else if !m.aliasOk || decide (1024 ≤ m.quotes) then .next { s with mgmt := { m with answer := .exhausted } }
  else
    .next { s with mgmt := { m with
      quotes := m.quotes + 1
      answer := .quote nonce m.meas m.ready0 m.ready1 s.sealMask (Config.quoteSignature m.aliasSeed m.quotes (s.quoted nonce)) } }

/-! ## Registers without a row of their own (R355) -/

/-- The 16 bytes of a step record (spec/15 R312). -/
def StepRec.bytes (r : StepRec) : List Byte := toBytes 8 r.t0.toNat ++ [r.oldf, r.newf] ++ toBytes 2 r.lock.toNat ++ toBytes 4 r.seq.toNat

/-- The management window. Step logs, the readiness map, the filtered-access count and the substitution map are not written by software.
Rests on notes/assumptions 72 (DESIGN CHOICE), 115 (DEDUCED). -/
def State.writeMgmt (s : State) (off size v : Nat) : State :=
  if 0x1000 ≤ off ∧ off < 0x9000 then
    let c : CtxIx := ⟨(off - 0x1000) / 128 % 256, Nat.mod_lt _ (by decide)⟩
    match overlay s.ctxs[c].raw.toNat 0 128 ((off - 0x1000) % 128) size v with
    | some n => s.putDescriptor c (BitVec.ofNat 1024 n)
    | none => s
  else if 0x20000 ≤ off ∧ off < 0x21000 then s.writePart ⟨(off - 0x20000) / 256 % 16, Nat.mod_lt _ (by decide)⟩ ((off - 0x20000) % 256) size v
  else if 0x30100 ≤ off ∧ off < 0x30200 then
    let i := (off - 0x30100) / 16
    let w := s.mgmt.mpGrants.getD i (0, 0)
    let o := (off - 0x30100) % 16
    { s with mgmt := { s.mgmt with
      mpGrants := s.mgmt.mpGrants.set i ((overlay w.1 0 8 o size v).getD w.1, (overlay w.2 8 8 o size v).getD w.2) } }
  else if 0x40000 ≤ off ∧ off < 0x40200 then
    { s with mgmt := { s.mgmt with
      routes := Vector.ofFn fun k => match overlay s.mgmt.routes[k].toNat (2 * k.val) 2 (off - 0x40000) size v with
        | some n => BitVec.ofNat 16 (n % 4096)
        | none => s.mgmt.routes[k] } }
  else
    let s1 := match overlay 0 0x10 4 off size v with
      | some n => s.clearService (BitVec.ofNat 32 n)
      | none => s
    match overlay s.mgmt.tdp.toNat 0x100 4 off size v with
    | some n => s1.setTdp n
    | none => s1

/-- A context window: the debug register, the shape index and entry, and the ring status.
Rests on notes/assumptions 73 (DESIGN CHOICE). -/
def State.writeCtxWindow (s : State) (c : CtxIx) (off size v : Nat) : State :=
  let x := s.ctxs[c]
  let s1 := match overlay ((if x.dsen then 1 else 0) + (if x.stepOn then 2 else 0)) 0x30 4 off size v with
    | some n => s.modCtx c fun y => { y with dsen := n % 2 == 1, stepOn := n / 2 % 2 == 1 }
    | none => s
  let s2 := match overlay x.shapeIx 0x80 4 off size v with
    | some n => if n < 65536 then s1.modCtx c fun y => { y with shapeIx := n } else s1
    | none => s1
  let s3 := match overlay 0 0x100 4 off size v with
    | some n => s2.modCtx c fun y => { y with ringBad := y.ringBad &&& ~~~(BitVec.ofNat 3 n) }
    | none => s2
  if 0xC0 ≤ off then s3.writeShape c (off - 0xC0) size v else s3

/-- A write of 1 to 8 bytes through BAR0.
Rests on notes/assumptions 73 (DESIGN CHOICE). -/
def execRegisterWrite (f : Func) (off : Nat) (size : Nat) (value : DWord) (s : State) : Host.Outcome State Fault Refusal :=
  let v := value.toNat % 2 ^ (8 * size)
  if size = 0 ∨ 8 < size then .next s
  else if off < 0x100000 then (if f.val = 0 then .next (s.writeMgmt off size v) else .next s.filtered)
  else if off < 0x102000 then
    let q : QueueIx := ⟨(off - 0x100000) / 32 % 256, Nat.mod_lt _ (by decide)⟩
    s.windowWrite f (s.queueCtx q) fun s => .next (s.writeQueue q ((off - 0x100000) % 32) size v)
  else if 0x200000 ≤ off ∧ off < 0x240000 then
    let k := (off - 0x200000) / 64
    s.windowWrite f (s.owner .counters k) fun s => .next (s.writeCounter k ((off - 0x200000) % 64) size v)
  else if 0x300000 ≤ off ∧ off < 0x302000 then
    let k : Fin 256 := ⟨(off - 0x300000) / 32 % 256, Nat.mod_lt _ (by decide)⟩
    s.windowWrite f (s.owner .slots k.val) fun s => .next (s.putSlot k ((overlay s.slots[k].raw 0 32 ((off - 0x300000) % 32) size v).getD 0))
  else if 0x400000 ≤ off ∧ off < 0x500000 then
    let c : CtxIx := ⟨(off - 0x400000) / 4096 % 256, Nat.mod_lt _ (by decide)⟩
    if (off - 0x400000) % 4096 = 0 ∧ size = 8 ∧ v / 2 ^ 32 ≤ 1 then s.reply f c (BitVec.ofNat 32 v) (v / 2 ^ 32 == 1)
    else s.windowWrite f (some c) fun s => .next (s.writeCtxWindow c ((off - 0x400000) % 4096) size v)
  else if f.val = 0 then .next s
  else .next s.filtered

/-- An AtomicOp of the host aimed at a BAR completes with Unsupported Request, and nothing else happens (R353). -/
def execBarAtomicop (f : Func) (off : Nat) (s : State) : Host.Outcome State Fault Refusal :=
  .next { s with mgmt := { s.mgmt with unsupported := s.mgmt.unsupported ++ [(f.val, off)] } }

end Sys2Proof.Machine
end

