-- ==== Sys2Proof/Machine/Outside.lean ====
section
/-! DEFINITION. What happens to the device from outside the cores: reset and boot, readiness, lost dies and links, peers, time, clocks and power, integrity
and service, and the management processor (spec/18 R358-R371, spec/15 R304, R309, R312, spec/01 R8-R11). -/

namespace Sys2Proof.Machine

/-- The valid contexts. -/
def State.validCtxs (s : State) : List CtxIx := (List.finRange 256).filter fun c => s.ctxs[c].valid

/-- A record of the hub on the fatal lane of every context of a list.
Rests on notes/assumptions 83 (DESIGN CHOICE). -/
def State.recordAll (s : State) (cs : List CtxIx) (r : CtxIx → TrapRec) : State := cs.foldl (fun s c => s.sendFatal c (r c)) s

def State.modMgmt (s : State) (f : Mgmt → Mgmt) : State := { s with mgmt := f s.mgmt }

/-! ## Reset, boot, readiness (R360, R361, R369, R370, spec/03 R56) -/

/-- Device reset. Memory, the schedule, what fuses and the on-package counter hold, spared rows, and the service log of retired cores stay; a seal stays
with its ranges, since only a scrub clears it (R364).
Rests on notes/assumptions 76 (DEDUCED). -/
def execDeviceReset (s : State) : Host.Outcome State Fault Refusal :=
  .next { State.reset with
    cur := s.cur, gix := s.gix, spl := s.spl, sched := s.sched, tick := s.tick
    mem := s.mem, memPoison := s.memPoison, lines := s.lines, hostMem := s.hostMem, peerMem := s.peerMem
    cores := mapAll (fun c => { CoreSt.zero with retiredC := c.retiredC || c.retiring }) s.cores
    dies := mapAll (fun d => { DieSt.zero with skew := d.skew }) s.dies
    parts := mapAll (fun p => if p.sealed then { Partition.zero with sealed := true, sealack := p.sealack, ranges := p.ranges } else Partition.zero) s.parts
    mgmt := { Mgmt.zero with fuses := s.mgmt.fuses, idIndex := s.mgmt.idIndex, bootCount := s.mgmt.bootCount, spared := s.mgmt.spared, deadSpares := s.mgmt.deadSpares } }

/-- The checks of the boot ROM on an image slot.
Rests on notes/assumptions 78 (UNVERIFIED). -/
def imageOk (i : Image) : Bool := Config.imageVerifies i.bytes i.signature && decide (Config.fuseRollback ≤ i.version)

/-- A substitution in a die's word of the map (spec/01 R10). -/
def putSpare (w : DWord) (second : Bool) (phys logical : Nat) : DWord :=
  let lo := if second then 16 else 0
  (w &&& ~~~((0x3F3F : DWord) <<< lo)) ||| (BitVec.ofNat 64 (phys + 256 * logical)) <<< lo

/-- The core that a logical number of a die names (spec/01 R14). -/
def coreOf (d : DieIx) (l : Fin 40) : CoreIx := ⟨d.val * 40 + l.val, by omega⟩

/-- The physical number of the spare that stands in a core's place, by the substitution map (R10). -/
def State.spareOf (s : State) (c : CoreIx) : Option Nat :=
  let w := s.mgmt.subst[dieOf c].toNat
  [w % 2 ^ 16, w / 2 ^ 16 % 2 ^ 16].findSome? fun h => if h / 256 % 64 = c.val % 40 ∧ h % 64 ≠ 0x3F then some (h % 64) else none

/-- A core that works: it has not been retired, or a spare that has not been retired stands in its place (R10). -/
def State.coreWhole (s : State) (c : CoreIx) : Bool :=
  !s.cores[c].retiredC || match s.spareOf c with | some p => !s.mgmt.deadSpares.contains (dieOf c, p) | none => false

/-- A spare takes the place of a core at bring-up (R10): of a retired one that has none yet, by one of the die's two spares that is unused and not itself
retired; any other pair is passed over. -/
def State.useSpare (s : State) (x : DieIx × Bool × Fin 42 × Fin 40) : State :=
  let (d, second, phys, l) := x
  let w := s.mgmt.subst[d].toNat
  let half (b : Bool) : Nat := (if b then w / 2 ^ 16 else w) % 64
  if (phys == s.mgmt.fuses.spares[d].1 || phys == s.mgmt.fuses.spares[d].2) && s.cores[coreOf d l].retiredC && (s.spareOf (coreOf d l)).isNone && half second == 0x3F && half (!second) != phys.val &&
     !s.mgmt.deadSpares.contains (d, phys.val) then
    s.modMgmt fun m => { m with subst := m.subst.set d (putSpare m.subst[d] second phys.val l.val) }
  else s

/-- An accepted image: the measurements after firmware, the boot count, and the alias key with its certificate while identity indices are left: the identity
key's signature, under the index that was advanced first, of the alias public key, the measurements and the boot count (R361).
Rests on notes/assumptions 77 (DESIGN CHOICE), 78 (UNVERIFIED). -/
def State.bootWith (s : State) (i : Image) (seed : List Byte) (spares : List (DieIx × Bool × Fin 42 × Fin 40)) : State :=
  spares.foldl (fun s x => s.useSpare x) (s.modMgmt fun m =>
    let left := decide (m.idIndex < 2 ^ 20)
    let meas := Vector.ofFn fun k => if k.val < 4 then Config.bootMeasure i.bytes k.val else m.meas[k]
    { m with booted := true, bootCount := m.bootCount + 1, idIndex := if left then m.idIndex + 1 else m.idIndex, aliasOk := left, aliasSeed := seed, quotes := 0
             aliasCert := if left then Config.identitySignature m.idIndex (Config.aliasPublic seed) meas.toList (m.bootCount + 1) else []
             meas := meas })

def execFirmwareBoot (a b : Image) (seed : List Byte) (spares : List (DieIx × Bool × Fin 42 × Fin 40)) (s : State) : Host.Outcome State Fault Refusal :=
  if s.mgmt.booted || s.mgmt.bootErr != 0 then s.wait
  else if imageOk a then .next (s.bootWith a seed spares)
  else if imageOk b then .next (s.bootWith b seed spares)
  else .next (s.modMgmt fun m => { m with bootErr := BitVec.ofNat 32 (1 + Config.bootErrCode % (2 ^ 32 - 1)) })

/-- The place of a bit in READY0, or in READY1. -/
def readyPlace (b : ReadyBit) : Nat ⊕ Nat :=
  match b with
  | .hub => .inl 0
  | .die d => .inl (1 + d.val)
  | .stack k => .inl (8 + k.val)
  | .port p => .inl (16 + p.val)
  | .cluster c => .inr c.val

/-- What a bit waits for (R370); a port that the fuses shut out never trains (R363). -/
def State.mayBeReady (s : State) (b : ReadyBit) : Bool :=
  let die (d : Nat) : Bool := s.mgmt.ready0.getLsbD (1 + d)
  match b with
  | .hub => s.mgmt.booted
  | .die d => s.hubUp && s.dies[d].up
  | .stack k => die (k.val / 2)
  | .port p => s.mgmt.fuses.ports.getLsbD p.val
  | .cluster c => die (c.val / 10) && (List.finRange 160).all fun k => clusterOf k != c || s.coreWhole k

def State.readyBit (s : State) (b : ReadyBit) : Bool := match (readyPlace b) with | .inl k => s.mgmt.ready0.getLsbD k | .inr k => s.mgmt.ready1.getLsbD k

def State.setReady (s : State) (b : ReadyBit) : State :=
  s.modMgmt fun m => match (readyPlace b) with
    | .inl k => { m with ready0 := m.ready0 ||| (1 : DWord) <<< k }
    | .inr k => { m with ready1 := m.ready1 ||| (1 : DWord) <<< k }

def State.clearReady (s : State) (b : ReadyBit) : State :=
  s.modMgmt fun m => match (readyPlace b) with
    | .inl k => { m with ready0 := m.ready0 &&& ~~~((1 : DWord) <<< k) }
    | .inr k => { m with ready1 := m.ready1 &&& ~~~((1 : DWord) <<< k) }

def execReadinessBitSet (b : ReadyBit) (s : State) : Host.Outcome State Fault Refusal :=
  if s.mayBeReady b && !s.readyBit b then .next (s.setReady b) else s.wait

/-! ## A lost die (spec/15 R304) -/

/-- The resident teams of a die. -/
def State.teamsOnDie (s : State) (d : DieIx) : List TeamIx := (s.teamsOf fun _ => true).filter fun t => dieOf s.teams[t].core == d

/-- Dies of a mask that survive. -/
def State.survivors (s : State) (mask : BitVec 4) (lost : DieIx) : Bool := (List.finRange 4).any fun d => d != lost && mask.getLsbD d.val && s.dies[d].up

/-- A launch that had teams on the die, resident or saved in its shadow storage, or that may still dispatch there.
Rests on notes/assumptions 81 (DEDUCED). -/
def State.hitByLoss (s : State) (d : DieIx) (l : Launch) : Bool :=
  ((s.teamsOnDie d).any fun t => s.teams[t].launch == l.id) || (s.saved.any fun x => x.shadow && dieOf x.team.core == d && x.team.launch == l.id) ||
  (!l.stopped && decide (l.next < l.total) && l.dieMask.getLsbD d.val)

/-- The lines that a die homes are lost: what stands at their addresses afterwards is free (R368).
Rests on notes/assumptions 81 (DEDUCED). -/
def State.loseLines (s : State) (d : DieIx) : State :=
  let gone := (s.lines.filter fun x => x.2.home == d.val).map fun x => x.1
  { s with
    mem := gone.foldl (fun m l => Memory.writeBytes m (256 * l) ((List.range 256).map fun i => Config.lostByte s.tick (256 * l + i))) s.mem
    memPoison := s.memPoison.filter fun a => !gone.contains (a / 256)
    lines := s.lines.filter fun x => x.2.home != d.val }

/-- What the die's caches, units, links and stacks held is gone.
Rests on notes/assumptions 81 (DEDUCED), 95 (DEDUCED). -/
def State.dropDie (s : State) (d : DieIx) : State :=
  { s.loseLines d with
    cores := Vector.ofFn fun c => if dieOf c = d then { s.cores[c] with l1 := [], comb := [], utlb := [], samples := [] } else s.cores[c]
    clusters := Vector.ofFn fun k => if k.val / 10 = d.val then { s.clusters[k] with atom := [] } else s.clusters[k]
    homeRed := s.homeRed.filter fun e => dieOf e.src != d && e.home != d.val
    outgoing := s.outgoing.filter fun o => dieOf o.src != d && !(o.far && o.byte.home == d.val)
    dies := s.dies.set d { s.dies[d] with up := false, relock := none, far := [], tlb := [] } }

/-- The acqrel fences on other dies whose push had bytes or entries on their way to the die. -/
def State.lostPushes (s : State) (d : DieIx) : List Leaving :=
  (((s.outgoing.filter fun o => dieOf o.src != d && o.far && o.byte.home == d.val).flatMap fun o => o.by_) ++
    (s.homeRed.filter fun e => dieOf e.src != d && e.home == d.val).flatMap fun e => e.out).eraseDups

/-- The trap of an acqrel fence whose push lost its home (spec/12 R250). -/
def State.losePush (s : State) (l : Leaving) : State := s.within l.team l.grp fun s => s.raiseAsync false { s.record 0x084 with spc := l.spc }

/-- The readiness bits of a die, its stacks and its clusters.
Rests on notes/assumptions 81 (DEDUCED). -/
def dieBits (d : DieIx) : List ReadyBit :=
  [.die d, .stack ⟨2 * d.val, by omega⟩, .stack ⟨2 * d.val + 1, by omega⟩] ++ ((List.finRange 40).filter fun c => c.val / 10 == d.val).map .cluster

/-- Rests on notes/assumptions 81 (DEDUCED). -/
def execDieLost (d : DieIx) (s : State) : Host.Outcome State Fault Refusal :=
  if !s.dies[d].up then s.wait
  else
    let ls := s.launches.filter (s.hitByLoss d)
    let ids := ls.map fun l => l.id
    let s1 := (s.teamsOnDie d).foldl (fun s t => s.discardTeam t) s
    let s2 := (dieBits d).foldl (fun s b => s.clearReady b) ((s.lostPushes d).foldl State.losePush (s1.dropDie d))
    let s3 : State :=
      { s2.dropSaved fun x => x.shadow && dieOf x.team.core == d with
        launches := s2.launches.map fun l =>
          if ids.contains l.id then { l with status := max l.status 3, stopped := l.stopped || !s.survivors l.dieMask d } else l }
    let r (l : Launch) : TrapRec := { s.hubRecord l.ctx 0x1C9 0 with die := BitVec.ofNat 8 d.val, spc := l.spc, launchid := l.lid }
    .next ((ls.foldl (fun s l => s.sendFatal l.ctx (r l)) s3).setService 5)

/-! ## Links (spec/01 R8, R358, R367) -/

/-- Rests on notes/assumptions 116 (DESIGN CHOICE). -/
def execDieLinkPortFailed (a b : DieIx) (s : State) : Host.Outcome State Fault Refusal :=
  if a = b ∨ s.mgmt.linksDown.contains (a, b) ∨ s.mgmt.linksDown.contains (b, a) then s.wait
  else .next ((s.modMgmt fun m => { m with linksDown := (a, b) :: m.linksDown }).setService 4)

/-- A retry delays traffic and never reorders it (R8): it changes nothing that a step sees.
Rests on notes/assumptions 82 (DEDUCED). -/
def execLinkFlitRetry (s : State) : Host.Outcome State Fault Refusal := .next s

/-- Rests on notes/assumptions 82 (DEDUCED). -/
def execBisuoshLaneLoss (p : Fin 12) (s : State) : Host.Outcome State Fault Refusal :=
  if !s.readyBit (.port p) || s.mgmt.portsDeg.getLsbD p.val then s.wait
  else .next ((s.modMgmt fun m => { m with portsDeg := m.portsDeg ||| (1 : BitVec 12) <<< p.val }).setService 3)

/-- A failed port leaves the readiness map and every route mask; the bit that clears sets LANEDEG.
Rests on notes/assumptions 82 (DEDUCED). -/
def execBisuoshPortFailed (p : Fin 12) (s : State) : Host.Outcome State Fault Refusal :=
  if !s.readyBit (.port p) then s.wait
  else
    .next (((s.clearReady (.port p)).modMgmt fun m =>
      { m with routes := mapAll (fun r => r &&& ~~~((1 : BitVec 16) <<< p.val)) m.routes }).setService 3)

def execPcieLinkDegraded (s : State) : Host.Outcome State Fault Refusal :=
  if s.mgmt.pcieDeg then s.wait else .next ((s.modMgmt fun m => { m with pcieDeg := true }).setService 3)

/-! ## Inbound peer requests (R359) -/

/-- Bytes that a request touches. -/
def peerBytes (r : PeerReq) : Nat :=
  match r with
  | .read n => n
  | .write b => b.length
  | .reduce _ fmt _ => redBits fmt / 8
  | .atomic _ ty _ _ => atomWidth ty.toNat

/-- The inbound grant table lets a source reach a range.
Rests on notes/assumptions 86 (DEDUCED). -/
def State.peerGranted (s : State) (src addr n : Nat) : Bool :=
  s.mgmt.grants.toList.any fun x => match x with
    | some g => g.1 == src && decide (g.2.1 ≤ addr ∧ addr + n ≤ g.2.1 + g.2.2)
    | none => false

/-- A request reaches a line whose home die is lost (spec/10 R213).
Rests on notes/assumptions 86 (DEDUCED). -/
def State.peerLost (s : State) (addr n : Nat) : Bool :=
  (List.range n).any fun i => match s.lines.lookup ((addr + i) / 256) with | some g => !s.homeUp g.home | none => false

/-- The request at its home slice, and its answer.
Rests on notes/assumptions 86 (DEDUCED). -/
def State.servePeer (s : State) (addr : Nat) (r : PeerReq) : State × List Byte :=
  match r with
  | .read n => (s, Memory.readBytes s.mem addr n)
  | .write b => ((s.homeBytes none addr (b.map fun x => (x, false))).watch, [])
  | .reduce op fmt v =>
    let n := redBits fmt / 8
    let x := v.toNat % 2 ^ (8 * n)
    let y := if op = 0 then x else applyRed op fmt (Memory.readLe s.mem addr n) x
    let bad := op != 0 && s.homePoisoned addr n
    ((s.homeBytes none addr ((toBytes n y).map fun b => (b, bad))).watch, [])
  | .atomic op ty b c =>
    let n := atomWidth ty.toNat
    let old := Memory.readLe s.mem addr n
    if s.homePoisoned addr n then (s, List.replicate n 0xFF)
    else (s.homeLe none addr n (atomNew op ty.toNat old (b.toNat % 2 ^ (8 * n)) (c.toNat % 2 ^ (8 * n))), toBytes n old)

/-- Rests on notes/assumptions 86 (DEDUCED). -/
def execPeerInboundRequest (src : Nat) (addr : Nat) (r : PeerReq) (s : State) : Host.Outcome State Fault Refusal :=
  if !s.hubUp || s.mgmt.ready0.extractLsb' 16 12 == 0 then s.wait
  else if s.peerGranted src addr (peerBytes r) && !s.peerLost addr (peerBytes r) then
    let x := s.servePeer addr r
    .next (x.1.modMgmt fun m => { m with peerOut := m.peerOut ++ [(src, some x.2)] })
  else .next (s.modMgmt fun m => { m with peerOut := m.peerOut ++ [(src, none)] })

/-! ## Time, clocks and power (spec/15 R309, R312, spec/01 R11, R371) -/

/-- The emitters of the Streamer: the cores, the dies and the hub, each with its die (spec/17 R343). -/
def emitters : List (Nat × Option DieIx) :=
  ((List.finRange 160).map fun (c : CoreIx) => (c.val, some (dieOf c))) ++ ((List.finRange 4).map fun d => (0xF0 + d.val, some d)) ++ [(0xFE, none)]

/-- The TS record that every emitter on a die that is up writes after a forward jump (spec/17 R344).
Rests on notes/assumptions 79 (DEDUCED). -/
def State.jumpStamp (s : State) (c : CtxIx) : State :=
  let up := emitters.filter fun e => match e.2 with | some d => s.dies[d].up | none => true
  let at' (e : Nat × Option DieIx) : DWord := match e.2 with | some d => s.reftAt d | none => s.reft
  let epoch (e : Nat × Option DieIx) : Nat := match e.2 with | some d => s.dies[d].stepSeq.toNat % 256 | none => 0
  s.modCtx c fun x => match x.session with
    | none => x
    | some y => { x with session := some { y with held := y.held ++ up.map fun e => streamTs (at' e) e.1 (epoch e), last := up.map fun e => (e.1, at' e) } }

/-- The rate at which the servo takes an offset away: forward where REFT is behind its source, backward where it is ahead, by 1 to 499 millionths.
Rests on notes/assumptions 79 (DEDUCED). -/
def slewRate (tick gap : Nat) : Int :=
  if gap = 0 then 0 else if gap < 2 ^ 63 then 1 + Config.slewRate tick % 499 else -(1 + Config.slewRate tick % 499 : Nat)

/-- A message of the selected source: more than 1 ms behind it, with steps enabled, REFT jumps forward; else it slews.
Rests on notes/assumptions 79 (DEDUCED). -/
def execPtpMessage (time : DWord) (s : State) : Host.Outcome State Fault Refusal :=
  let gap := (time - s.reft).toNat
  if s.mgmt.timeSrc.isSome && s.mgmt.timeSteps && decide (1000000 < gap ∧ gap < 2 ^ 63) then
    .next (s.validCtxs.foldl (fun s c => s.jumpStamp c) { s with reft := time, slew := 0 })
  else if s.mgmt.timeSrc.isSome then .next { s with slew := slewRate s.tick gap }
  else .next s

/-- The dies that can still be stepped down are named to be.
Rests on notes/assumptions 80 (DEDUCED). -/
def execPowerLimitReached (s : State) : Host.Outcome State Fault Refusal :=
  let ds := (List.finRange 4).filter fun d => s.dies[d].up && decide (6 < s.dies[d].freq)
  .next (s.modMgmt fun m => { m with stepDown := ds.foldl (fun x d => x ||| (1 : BitVec 4) <<< d.val) m.stepDown })

/-- A frequency step: 0.6 GHz to 1.8 GHz, a relock of at most 2,600 ticks; a die that the power manager steps down goes down.
Rests on notes/assumptions 80 (DEDUCED). -/
def execFrequencyStep (d : DieIx) (n : Nat) (lock : BitVec 16) (s : State) : Host.Outcome State Fault Refusal :=
  let x := s.dies[d]
  if !x.up || x.relock.isSome || decide (n < 6 ∨ 18 < n) || n == x.freq || lock == 0 || decide (2600 < lock.toNat) ||
     (s.mgmt.stepDown.getLsbD d.val && decide (x.freq < n)) then s.wait
  else
    let r : StepRec := { t0 := s.reftAt d, oldf := BitVec.ofNat 8 x.freq, newf := BitVec.ofNat 8 n, lock := lock, seq := x.stepSeq + 1 }
    let s1 := s.modDie d fun y =>
      { y with relock := some lock.toNat, newFreq := n, stepSeq := r.seq, steps := (y.steps ++ [r]).drop (y.steps.length + 1 - 64) }
    let s2 := s1.modMgmt fun m => { m with stepDown := m.stepDown &&& ~~~((1 : BitVec 4) <<< d.val) }
    .next (s2.validCtxs.foldl (fun s c => s.emit c (some 5) (0xF0 + d.val) (some d) 0xFF 2 r.bytes) s2)

/-- The relock is over: the die runs at its new frequency. -/
def execRelockEnd (d : DieIx) (s : State) : Host.Outcome State Fault Refusal :=
  if s.dies[d].relock = some 0 then .next (s.modDie d fun x => { x with relock := none, freq := x.newFreq }) else s.wait

/-- Writes what a context's fatal lane can take.
Rests on notes/assumptions 84 (DEDUCED). -/
def State.flushFatal (s : State) (c : CtxIx) : Nat → State
  | 0 => s
  | n + 1 => match s.fatalStep c with | some y => y.flushFatal c n | none => s

/-- A trip: the service bit, a record on every fatal lane that can be reached, and every clock stops.
Rests on notes/assumptions 84 (DEDUCED). -/
def State.trip (s : State) (bit : Nat) : State :=
  let s1 := (s.setService bit).recordAll s.validCtxs fun c => s.hubRecord c 0x1F0 0
  { s.validCtxs.foldl (fun s c => s.flushFatal c (s.ctxs[c].fring.waiting.length + 1)) s1 with halted := true }

def execThermalTrip (s : State) : Host.Outcome State Fault Refusal := .next (s.trip 7)

/-- Power exceeds the limit although no die can be stepped down any further.
Rests on notes/assumptions 80 (DEDUCED). -/
def execPowerTrip (s : State) : Host.Outcome State Fault Refusal :=
  if (List.finRange 4).any fun d => s.dies[d].up && decide (6 < s.dies[d].freq) then s.wait else .next (s.trip 8)

/-! ## Integrity and service (R366-R368) -/

/-- The contexts of the partitions that use a unit: a cluster's, or every context for the hub and the L2.
Rests on notes/assumptions 83 (DESIGN CHOICE). -/
def State.usersOf (s : State) (u : Option (Fin 40)) : List CtxIx :=
  match u with
  | none => s.validCtxs
  | some k => s.validCtxs.filter fun c => (s.partOf c).clmask.getLsbD k.val

/-- The place of a unit among the counts of corrected errors: a cluster's, or that of the hub and the L2s.
Rests on notes/assumptions 83 (DESIGN CHOICE). -/
def ceUnit (u : Option (Fin 40)) : Fin 41 := match u with | some k => k.castSucc | none => 40

/-- The count of a unit has passed its threshold; it then starts again.
Rests on notes/assumptions 83 (DESIGN CHOICE). -/
def execCorrectedErrorThreshold (u : Option (Fin 40)) (s : State) : Host.Outcome State Fault Refusal :=
  let r (c : CtxIx) : TrapRec :=
    match u with
    | none => s.hubRecord c 0x120 0
    | some k => { s.hubRecord c 0x120 0 with die := BitVec.ofNat 8 (k.val / 10), cluster := BitVec.ofNat 8 k.val }
  if s.mgmt.corrected[ceUnit u] ≤ s.mgmt.ceLimit[ceUnit u] then s.wait
  else .next (((s.recordAll (s.usersOf u) r).modMgmt fun m => { m with corrected := m.corrected.set (ceUnit u) 0 }).setService 6)

/-- The row's data is what it was: accesses during the copy are serialised at home. -/
def execHbmRowSpare (k : Fin 8) (row : Nat) (s : State) : Host.Outcome State Fault Refusal :=
  .next ((s.modMgmt fun m => { m with spared := m.spared ++ [(k, row)] }).setService 2)

/-- A core whose teams are gone is retired; a spare that stands in its place is retired in its turn. -/
def State.retireCore (s : State) (core : CoreIx) : State :=
  (match s.cores[core].retiredC, s.spareOf core with
   | true, some p => s.modMgmt fun m => { m with deadSpares := (dieOf core, p) :: m.deadSpares }
   | _, _ => s.modCore core fun c => { c with retiredC := true }).modCore core fun c => { c with retiring := false }

/-- The cluster's bit clears, so no team is placed there; the teams on the core run to completion or are pre-empted, and the core is then retired. -/
def execCoreRetirement (core : CoreIx) (s : State) : Host.Outcome State Fault Refusal :=
  if !s.coreWhole core then s.wait
  else if s.cores[core].retiring then (if (s.residents core).isEmpty then .next (s.retireCore core) else s.wait)
  else
    let s1 := ((s.clearReady (.cluster (clusterOf core))).setService 1).modCore core fun c => { c with retiring := true }
    .next (if (s.residents core).isEmpty then s1.retireCore core else s1)

/-- Rests on notes/assumptions 83 (DESIGN CHOICE). -/
def execHubInternalError (s : State) : Host.Outcome State Fault Refusal :=
  .next ((s.recordAll s.validCtxs fun c => s.hubRecord c 0x1FF 0).setService 9)

/-! ## The management processor (R363, R364) -/

/-- A byte of device memory that a seal shuts the management processor out of. -/
def State.sealedByte (s : State) (a : Nat) : Bool :=
  s.parts.toList.any fun p => p.sealack && p.ranges.any fun r => decide (r.1 ≤ a ∧ a < r.1 + r.2)

/-- Counts a refused access. -/
def Mgmt.refuse (m : Mgmt) (bad : Bool) : Mgmt := if bad then { m with mpDropped := m.mpDropped + 1 } else m

/-- Rests on notes/assumptions 72 (DESIGN CHOICE), 85 (DESIGN CHOICE). -/
def execManagementProcessorAccess (a : MpAccess) (s : State) : Host.Outcome State Fault Refusal :=
  if !s.mgmt.booted then s.wait
  else
    match a with
    | .readDevice addr n =>
      let data := (List.range n).map fun i => if s.sealedByte (addr + i) then 0 else Memory.read s.mem (addr + i)
      .next (s.modMgmt fun m => { m.refuse ((List.range n).any fun i => s.sealedByte (addr + i)) with mpData := data })
    | .writeDevice addr b =>
      let s1 := b.zipIdx.foldl (fun (x : State) y => if s.sealedByte (addr + y.2) then x else x.homePut none (addr + y.2) y.1 false) s
      .next (s1.watch.modMgmt fun m => m.refuse ((List.range b.length).any fun i => s.sealedByte (addr + i)))
    | .writeHost addr b =>
      if s.mgmt.mpGrants.any fun w => decide (w.1 ≤ addr ∧ addr + b.length ≤ w.1 + w.2) then .next { s with hostMem := Memory.writeBytes s.hostMem addr b }
      else .next (s.modMgmt fun m => m.refuse true)

end Sys2Proof.Machine
end

