-- ==== Sys2Proof/Machine/LaneAtomic.lean ====
section
/-! DEFINITION. The lane atomics and the lane FENCE (spec/13 R255-R262, spec/12 R241). -/

namespace Sys2Proof.Machine

/-! ## ATS (R256) -/

/-- A source of an atomic as a number of n bytes. -/
def State.atomSource (s : State) (w : LaneWord) (n : Nat) (f : BitVec 10) (l : Fin 64) : Nat :=
  if n = 16 then (s.grp.srcQuad s.gix f l).toNat else if n = 8 then (s.srcW .unsigned w f l).toNat else (s.srcN w f l).toNat

/-- The lanes of an ATS in ascending order: each finds what the lower lanes left. -/
def State.atsLanes (s : State) (w : LaneWord) (n : Nat) (t : Team) : List (Fin 64) → Team × List (Fin 64 × Nat)
  | [] => (t, [])
  | l :: r =>
    let a := s.laneAddr w l
    let old := t.spadRead a n
    let new := atomNew w.sub.toNat w.type.toNat old (s.atomSource w n w.srcB l) (s.atomSource w n w.srcC l)
    let x := s.atsLanes w n (t.spadWrite a (toBytes n new)) r
    (x.1, (l, old) :: x.2)

def execAts (w : LaneWord) (s : State) : Host.Outcome State Fault Refusal :=
  s.laneWord w fun s1 e =>
    let n := atomWidth w.type.toNat
    let xs := (maskLanes e).map fun l => (l, s1.laneAddr w l)
    match s1.team.laneSpadFault n xs with
    | some (c, l, a) => s1.laneTrap c (some l) (BitVec.ofNat 64 a)
    | none =>
      match firstLane xs fun a => poisoned s1.team.spadPoison a n with
      | some (l, a) => s1.laneTrap 0x101 (some l) (BitVec.ofNat 64 a)
      | none =>
        let r := s1.atsLanes w n s1.team (maskLanes e)
        let old (l : Fin 64) : Nat := (r.2.lookup l).getD 0
        let s2 := (s1.countWaves n (xs.map fun x => x.2)).storeWords true (waves n (xs.map fun x => x.2) - 1)
          (xs.map fun x => (x.2, Memory.readBytes r.1.spad x.2 n))
        (s2.modGrp fun g =>
          if n = 8 then g.result64 w e fun l => BitVec.ofNat 64 (old l) else g.result32 w e fun l => BitVec.ofNat 32 (old l)).laneDone 0x1E0 w []

/-! ## Lane memory atomics (R257-R262) -/

def atomShape (w : LaneWord) : Nat := (w.imm.extractLsb' 0 16).toNat
def atomBase (w : LaneWord) : Nat := (w.imm.extractLsb' 19 13).toNat * 256

/-- The operands of a lane: A is a pair for the two-word atomics, whose B and C hold two values for ADCAS. -/
def State.atomLane (s : State) (o : CmdOp) (w : LaneWord) (l : Fin 64) : AtomLane :=
  let n := atomWidth w.type.toNat
  let two := o == .adcas || o == .axmv
  let a := if two then (s.srcW .unsigned w w.srcA l).toNat else (s.srcN w w.srcA l).toNat
  let k := if o == .adcas then 2 * n else n
  { lane := l.val, xa := BitVec.ofNat 32 a, xb := BitVec.ofNat 32 (a / 2 ^ 32), b := BitVec.ofNat 128 (s.atomSource w k w.srcB l),
    c := BitVec.ofNat 128 (s.atomSource w k w.srcC l) }

/-- The command that a lane memory atomic posts. -/
def State.newAtom (s : State) (o : CmdOp) (w : LaneWord) (e : Mask) (x : Shape) : Cmd :=
  { gix := s.gix, seq := s.grp.cmdSeq + 1, sub := 0, split := some s.spl, op := o, w := Vector.replicate 8 0, shape := x, spc := s.blockSpc,
    lpc := some s.lpc, local0 := atomBase w, limit := s.team.spadSize, tile := Tile.zero.shape, aop := w.sub.toNat, aty := w.type, scope := atomScope w.imm,
    lanes := (maskLanes e).map fun l => s.atomLane o w l, writes := [], pos := 0, rows := 0, packOff := 0, stat := .running, fault := none, tag := 0,
    crc := [], pois := false, paged := false, index := 0, indexRow := none, ahead := [], half := none, crcHalf := false,
    posted := s.tick, beside := s.besideNow }

/-- The first check of R258 that the word fails, after its fields. -/
def State.atomFault (s : State) (o : CmdOp) (w : LaneWord) (c : Cmd) : Option Cause :=
  let n := atomWidth w.type.toNat
  let x := c.shape
  let area := 64 * c.resultBytes
  if (o == .adcas || o == .axmv) && atomScope w.imm != 4 then some 0x0C5
  else if x.ctx ≠ s.team.ctx.val then some 0x089
  else if !x.valid then some 0x08A
  else if !x.rights.getLsbD c.laneRight.bit then some 0x08B
  else if fmtBits x.fmt ≠ (if n = 16 then 64 else 8 * n) then some 0x088
  else if s.team.spadSize < atomBase w + area then some 0x088
  else if area ≠ 0 ∧ s.team.poolTouched (atomBase w) area then some 0x14E
  else none

/-- A lane memory atomic: its checks, its wait for a command slot, and its post (R257, R258).
Rests on notes/assumptions 91 (DEDUCED), 98 (DESIGN CHOICE). -/
def State.postAtom (s : State) (opc : Nat) (o : CmdOp) (w : LaneWord) : Host.Outcome State Fault Refusal :=
  s.laneWord w fun s1 e =>
    if e = 0 then s1.laneDone opc w []
    else
      let c := s1.newAtom o w e (s1.shapeEntry s1.team.ctx (atomShape w))
      match s1.atomFault o w c with
      | some f => s1.laneTrap f none 0
      | none => if s1.inFlight s1.team.core < 96 then (s1.joinBatch c false).laneDone opc w [] else s1.laneWait

def execAtm (w : LaneWord) (s : State) : Host.Outcome State Fault Refusal := s.postAtom 0x1E1 .atm w

def execAdcas (w : LaneWord) (s : State) : Host.Outcome State Fault Refusal := s.postAtom 0x1E2 .adcas w

def execAxmv (w : LaneWord) (s : State) : Host.Outcome State Fault Refusal := s.postAtom 0x1E3 .axmv w

def execAred (w : LaneWord) (s : State) : Host.Outcome State Fault Refusal := s.postAtom 0x1E4 .ared w

/-! ## The lane FENCE (spec/12 R241) -/

/-- A lane memory command of the split in hand that has not been performed at its unit.
Rests on notes/assumptions 33 (DEDUCED). -/
def State.splitPending (s : State) : Bool :=
  s.team.cmds.any fun c => c.live && c.gix == s.gix && c.split == some s.spl && decide (c.pos < c.total)

/-- The fence orders the split's scratchpad, hash and ATS accesses; at scope cluster or wider the release part waits for the split's lane memory commands.
Rests on notes/assumptions 33 (DEDUCED), 110 (DEDUCED). -/
def execLaneFence (w : LaneWord) (s : State) : Host.Outcome State Fault Refusal :=
  s.laneWord w fun s1 _ =>
    let order := (w.sub.extractLsb' 0 2).toNat
    let scope := (w.imm.extractLsb' 0 3).toNat
    if order ≠ 0 ∧ 2 ≤ scope ∧ s1.splitPending then s1.laneWait
    else (s1.modTeam fun t => if scope = 0 then t else t.fencePast (s1.gix, true) (order != 1) (order != 0)).laneDone 0x1E8 w []

end Sys2Proof.Machine
end

