-- ==== Sys2Proof/Machine/Split.lean ====
section
/-! DEFINITION. Splits, joins, path entries and retirement (spec/07 R130-R134), and where a claimed hash table lies (spec/09 R170, R171). -/

namespace Sys2Proof.Machine

/-! ## Hash table regions -/

def HashTab.base (h : HashTab) : Nat := h.desc[0].toNat
/-- LOGB. -/
def HashTab.logb (h : HashTab) : Nat := bitsOf h.desc[1] 12 4
/-- FMT: bit 0 says 64-bit values, bit 1 64-bit keys. -/
def HashTab.fmt (h : HashTab) : Nat := bitsOf h.desc[1] 0 2
/-- Bytes of a slot: 8 for K32V32, else 16. -/
def HashTab.slotBytes (h : HashTab) : Nat := if h.fmt = 0 then 8 else 16
/-- Bytes of the region. -/
def HashTab.size (h : HashTab) : Nat := 2 ^ h.logb * (8 * h.slotBytes)

/-- True when [a, a+n) overlaps a claimed table's region, or the region of a HCLAIM in progress. -/
def Team.inTable (t : Team) (a n : Nat) : Bool :=
  (t.tabs.any fun h => h.claimed && overlaps a n h.base h.size) ||
  t.groups.any fun g => match g.claim with | some c => overlaps a n c.base c.size | none => false

/-! ## The reconvergence stack (R134) -/

/-- Entry j of the stack of the group in hand: 0-15 on-chip, 16-47 the team's pool. -/
def State.stackEntry (s : State) (j : Nat) : StackEntry :=
  if h : j < 16 then s.grp.stack[j] else if h : j - 16 < 32 then s.team.pool[j - 16] else .free

/-- Writes an entry, which then holds no error any more (R149). -/
def State.setStack (s : State) (j : Nat) (e : StackEntry) : State :=
  if h : j < 16 then s.modGrp fun g => { g with stack := g.stack.set j e, errs := mendErrs (fun x => x == .stack j) g.errs }
  else if h : j - 16 < 32 then s.modTeam fun t => { t.setPool ⟨j - 16, h⟩ e with poolGrp := t.poolGrp.set (j - 16) s.gix } else s

/-- True where pool entry i may be taken. -/
def Team.poolFree (t : Team) (i : Fin 32) : Bool :=
  t.pool[i] == .free && decide (2048 ≤ t.spadSize) && !t.inTable (t.poolAddr i.val) 64

/-- The index that a new entry takes: the lowest free on-chip one, else the lowest free pool one. -/
def State.freeEntry (s : State) : Option Nat :=
  match (List.finRange 16).find? fun i => s.grp.stack[i] == .free with
  | some i => some i.val
  | none => ((List.finRange 32).find? fun i => s.team.poolFree i).map fun i => i.val + 16

/-- True where index j names an entry of the group in hand: on-chip, or taken by it from the pool. -/
def State.owns (s : State) (j : Nat) : Bool := decide (j < 16) || (if h : j - 16 < 32 then s.team.poolGrp[j - 16] == s.gix else false)

/-- The indices of the stack, from the highest down. -/
def stackDown : List Nat := (List.range 48).reverse

/-! ## Splits and ranks (R130, R131) -/

/-- Writes a split entry, which then holds no error any more (R149). -/
def Group.setSplit (g : Group) (k : SplitIx) (p : Option Split) : Group :=
  { g with splits := g.splits.set k p, errs := mendErrs (fun x => x == .split k) g.errs }

/-- Changes every live split. -/
def Group.modSplits (g : Group) (f : Split → Split) : Group := { g with splits := mapAll (fun p => p.map f) g.splits }

def Group.liveCount (g : Group) : Nat := ((List.finRange 4).filter fun k => g.splits[k].isSome).length

def Group.freeSplits (g : Group) : List SplitIx := (List.finRange 4).filter fun k => g.splits[k].isNone

/-- Ends a split: every live split of higher rank drops by one. -/
def Group.endSplit (g : Group) (k : SplitIx) : Group :=
  match g.splits[k] with
  | none => g
  | some p => (g.setSplit k none).modSplits fun q => if p.rank < q.rank then { q with rank := q.rank - 1 } else q

/-- A split that ranks last. -/
def Group.addLast (g : Group) (k : SplitIx) (p : Split) : Group := g.setSplit k (some { p with rank := g.liveCount })

/-- An error in entry j of the stack of the group in hand; a pool entry's lies in its scratchpad words (R134, R149). -/
def State.entryErr (s : State) (j : Nat) : Bool :=
  if j < 16 then s.grp.errs.contains (.stack j) else poisoned s.team.spadPoison (s.team.poolAddr (j - 16)) 64

/-- An error in a split entry, or in the entry of its innermost join, which every word of the split reads (R133, R149). -/
def State.splitErr (s : State) (k : SplitIx) (p : Split) : Bool :=
  s.grp.errs.contains (.split k) || (match p.join with | some j => s.entryErr j | none => false)

/-! ## Joins, merges and loads (R132, R133) -/

/-- Frees join j and makes the merged split in a free split entry; a join that no lane reaches any more is freed alone. -/
def State.checkMerge (s : State) (j : Nat) : State :=
  match s.stackEntry j with
  | .join outer pc expected arrived hist cs =>
    if arrived ≠ expected then s
    else if expected = 0 then s.setStack j .free
    else
      match s.grp.freeSplits with
      | [] => s
      | k :: _ => (s.setStack j .free).modGrp fun g =>
          g.addLast k { lpc := pc, mask := arrived, rank := 0, join := outer, cstack := cs, hist := hist, atBar := none, dbgSkip := none }
  | _ => s

/-- Adds lanes to the arrived mask of join j. -/
def State.arriveAt (s : State) (j : Nat) (m : Mask) : State :=
  match s.stackEntry j with
  | .join outer pc expected arrived hist cs => s.setStack j (.join outer pc expected (arrived ||| m) hist cs)
  | _ => s

/-- Split k of the group in hand arrives at its innermost join and ends.
Rests on notes/assumptions 107 (DEDUCED). -/
def State.arrive (s : State) (k : SplitIx) : State :=
  match s.grp.splits[k] with
  | some p =>
    match p.join with
    | some j => ((s.arriveAt j p.mask).modGrp fun g => g.endSplit k).checkMerge j
    | none => s
  | none => s

/-- The join chain from a join outward, at most n joins of it. -/
def State.joinChain (s : State) : Nat → Option Nat → List Nat
  | 0, _ => []
  | _, none => []
  | n + 1, some j => j :: s.joinChain n (match s.stackEntry j with | .join outer _ _ _ _ _ => outer | _ => none)

/-- Retires lanes of split k: they leave the split's mask and the expected mask of every join on its chain (R133). -/
def State.retire (s : State) (k : SplitIx) (m : Mask) : State :=
  match s.grp.splits[k] with
  | none => s
  | some p =>
    let chain := s.joinChain 48 p.join
    let s1 := s.modGrp fun g =>
      let g1 := { g with retired := g.retired ||| (p.mask &&& m) }
      if p.mask &&& ~~~m = 0 then g1.endSplit k else g1.setSplit k (some { p with mask := p.mask &&& ~~~m })
    chain.foldl (fun s j =>
      match s.stackEntry j with
      | .join outer pc expected arrived hist cs => (s.setStack j (.join outer pc (expected &&& ~~~(p.mask &&& m)) arrived hist cs)).checkMerge j
      | _ => s) s1

/-- The block ends when every lane has retired (R141). -/
def Group.finishBlock (g : Group) : Group := if g.retired = BitVec.allOnes 64 then g.modBlock fun b => { b with done := true } else g

/-- A path of a divergence: its first lane PC, its lanes, its history, and whether it is deferred (R138). -/
structure Path where
  pc    : Word
  mask  : Mask
  hist  : BitVec 10
  later : Bool

/-- Pushes a path entry, merging it into one of the same pc and join (R132). -/
def State.pushPath (s : State) (j : Nat) (cs : List Word) (p : Path) : Option State :=
  let same := (List.range 48).find? fun i => s.owns i && match s.stackEntry i with | .path j' _ pc _ _ _ => j' == j && pc == p.pc | _ => false
  match same with
  | some i =>
    match s.stackEntry i with
    | .path _ d pc mask hist cs' => some (s.setStack i (.path j (d || p.later) pc (mask ||| p.mask) hist cs'))
    | _ => some s
  | none => (s.freeEntry).map fun i => s.setStack i (.path j p.later p.pc p.mask p.hist cs)

/-- Pushes path entries from the last created to the first created. -/
def State.pushPaths (s : State) (j : Nat) (cs : List Word) : List Path → Option State
  | [] => some s
  | p :: r => match s.pushPaths j cs r with | some s1 => s1.pushPath j cs p | none => none

/-- The first paths become splits in split entry k and the free ones, ranked from the rank of the split that diverged (R131, R132). -/
def Group.splitPaths (g : Group) (k : SplitIx) (p : Split) (j : Nat) (paths : List Path) : Group :=
  let n := paths.length
  let g1 := g.modSplits fun q => if p.rank < q.rank then { q with rank := q.rank + n - 1 } else q
  let slots := k :: g.freeSplits
  (List.range n).foldl (fun g i =>
    match slots[i]?, paths[i]? with
    | some e, some x => g.setSplit e (some { p with lpc := x.pc, mask := x.mask, rank := p.rank + i, join := some j, hist := x.hist, dbgSkip := none })
    | _, _ => g) (g1.setSplit k none)

/-- The join of a divergence at rpc: the split's own where its pc is rpc, else a new entry (R132). -/
def State.joinFor (s : State) (p : Split) (rpc : Word) : Option (Nat × State) :=
  let own := match p.join with
    | some j => (match s.stackEntry j with | .join _ pc _ _ _ _ => if pc = rpc then some j else none | _ => none)
    | none => none
  match own with
  | some j => some (j, s)
  | none => s.freeEntry.map fun j => (j, s.setStack j (.join p.join rpc p.mask 0 p.hist p.cstack))

/-- Divide of R132: paths at rpc arrive at once, the first of the others become splits as far as entries are free, and the rest, with every deferred
path, become path entries. Answers nothing where no entry is free. -/
def State.divide (s : State) (k : SplitIx) (p : Split) (paths : List Path) (rpc : Word) : Option State :=
  match s.joinFor p rpc with
  | none => none
  | some (j, s1) =>
    let s2 := (paths.filter fun x => x.pc == rpc).foldl (fun s x => s.arriveAt j x.mask) s1
    let rest := paths.filter fun x => x.pc != rpc
    let now := rest.filter fun x => !x.later
    let slots := 1 + s.grp.freeSplits.length
    match s2.pushPaths j p.cstack (now.drop slots ++ rest.filter fun x => x.later) with
    | none => none
    | some s3 =>
      some ((if now.isEmpty then s3.modGrp fun g => g.endSplit k else s3.modGrp fun g => g.splitPaths k p j (now.take slots)).checkMerge j)

/-! ## Loading of path entries (R133) -/

/-- True where the path entry i may be loaded. -/
def State.loadable (s : State) (i : Nat) : Bool :=
  match s.stackEntry i with
  | .path j deferred _ _ _ _ =>
    !(deferred && (List.finRange 4).any fun k => match s.grp.splits[k] with | some p => (s.joinChain 48 p.join).contains j | none => false)
  | _ => false

/-- Loads the loadable path entry of the highest index into a free split entry, where there are both. -/
def State.loadPath (s : State) : Option State :=
  match s.grp.freeSplits, stackDown.find? fun i => s.owns i && s.loadable i with
  | k :: _, some i =>
    match s.stackEntry i with
    | .path j _ pc mask hist cs =>
      some ((s.setStack i .free).modGrp fun g =>
        g.addLast k { lpc := pc, mask := mask, rank := 0, join := some j, cstack := cs, hist := hist, atBar := none, dbgSkip := none })
    | _ => none
  | _, _ => none

end Sys2Proof.Machine
end

