-- ==== Sys2Proof/Machine/LaneReads.lean ====
section
/-! DEFINITION. The predicates, registers, latches and tables that a lane word reads, and the uncorrectable error that it meets there (spec/16 R318 causes
0x100 and 0x103). -/

namespace Sys2Proof.Machine

/-- The lane predicates that a lane word reads: its guard, and the ones its fields name. -/
def lanePreds (opc : Nat) (w : LaneWord) : List Nat :=
  let f (lo : Nat) : Nat := (w.imm.extractLsb' lo 3).toNat
  (w.guard.extractLsb' 0 3).toNat ::
  (match opc with
   | 0x016 => [(w.sub.extractLsb' 0 3).toNat]
   | 0x019 => [f 8, f 12, f 16]
   | 0x112 => [f 0]
   | _ => [])

/-- The lanes of a source that hold an error: a vector register or a latch in its lanes, a scalar register of the block's snapshot in every lane. -/
def Group.badLanes (g : Group) (n : Nat) (f : BitVec 10) : Mask :=
  let rs := regRun (f.extractLsb' 0 8) n
  match srcKind f with
  | 0 => maskOf fun l => rs.any fun r => g.errs.contains (.vreg r l)
  | 1 => maskOf fun l => g.errs.contains (.latch (f.extractLsb' 0 2) l)
  | 2 => if (match g.block with | some b => rs.any fun r => b.snapErr.contains r | none => false) then BitVec.allOnes 64 else 0
  | _ => 0

/-- The widths in words of SRCA, SRCB and SRCC of a lane word; a hash word's are those of its table's format (spec/09 R176). -/
def State.sourceWidths (s : State) (opc : Nat) (w : LaneWord) : Nat × Nat × Nat :=
  if isHashOpc opc then
    match s.team.tabs.toList[(w.imm.extractLsb' 12 2).toNat]? with
    | some h => if h.claimed then (if 2 ≤ h.fmt then 2 else 1, if h.fmt % 2 = 1 then 2 else 1, 1) else (1, 1, 1)
    | none => (1, 1, 1)
  else (laneWidths opc w).2

/-- The lowest lane in which split p's word, whose sources have the widths n, reads an error: in its guard in any of the split's lanes, in another predicate or a source in the executing
lanes (spec/04 R93, spec/06 R129, spec/07 R149). -/
def Group.laneErr (g : Group) (n : Nat × Nat × Nat) (p : Split) (opc : Nat) (w : LaneWord) : Option (Fin 64) :=
  let (a, b, c) := n
  let e := p.mask &&& (if w.guard.extractLsb' 0 3 = 7 then g.guardMask w.guard else BitVec.allOnes 64)
  let pm := maskOf fun l => (lanePreds opc w).any fun k => g.errs.contains (.pred k l)
  let src := match laneForm opc w.sub with
    | none => 0
    | some f => (if f.useA then g.badLanes a w.srcA else 0) ||| (if f.useB then g.badLanes b w.srcB else 0) ||| (if f.useC then g.badLanes c w.srcC else 0)
  let gm := maskOf fun l => g.errs.contains (.pred (w.guard.extractLsb' 0 3).toNat l)
  let bad := (p.mask &&& gm) ||| (e &&& g.guardMask w.guard &&& (pm ||| src))
  (maskLanes bad).head?

/-- The word that the split in hand issues reads predicates, which have then arrived: they are pending no more in the split's lanes (spec/07 R145).
Rests on notes/assumptions 87 (DEDUCED). -/
def State.readPreds (s : State) (i : Option Instr) : State :=
  match i.bind laneParts, s.grp.splits[s.spl] with
  | some (opc, w), some p =>
    if s.grp.late.all fun m => m == 0 then s
    else s.modGrp fun g => { g with late := Vector.ofFn fun k => if (lanePreds opc w).contains k.val then g.late[k] &&& ~~~p.mask else g.late[k] }
  | _, _ => s

/-- The lowest lane in which a word of the split in hand reads an error: a word that opens a chain finds its latches whole, since they read zero there
(spec/02 R31).
Rests on notes/assumptions 26 (DEDUCED). -/
def State.sourceErr (s : State) (p : Split) (opc : Nat) (w : LaneWord) : Option (Fin 64) :=
  let g := if s.grp.chain.isNone then { s.grp with errs := mendErrs ErrAt.isLatch s.grp.errs } else s.grp
  g.laneErr (s.sourceWidths opc w) p opc w

/-- The cause and lane that an uncorrectable error raises in the lane word that split k would issue, if it reads one; a hash word looks at its operands
once its table's format has settled which they are.
Rests on notes/assumptions 26 (DEDUCED). -/
def State.laneErrOf (s : State) (k : SplitIx) (i : Instr) : Option (Cause × Option (Fin 64)) :=
  if s.grp.errs.isEmpty && s.team.errs.isEmpty && s.team.spadPoison.isEmpty && (match s.grp.block with | some b => b.snapErr.isEmpty | none => true) then none
  else
    match s.grp.splits[k], laneParts i with
    | some p, some (opc, w) =>
      if s.splitErr k p then some (0x100, none)
      else
        match if isHashOpc opc then none else s.sourceErr p opc w with
        | some l => some (0x100, some l)
        | none =>
          let q : Nat := (w.imm.extractLsb' 0 4).toNat
          let e := p.mask &&& s.grp.guardMask w.guard
          if e = 0 then none
          else if (decide (0x188 ≤ opc ∧ opc ≤ 0x18B) && s.team.errs.contains (.queue q)) || (opc == 0x190 && s.team.errs.contains (.barrier q)) then
            some (0x103, some (lowLane e))
          else none
    | _, _ => none

end Sys2Proof.Machine
end

