-- ==== Sys2Proof/Machine/Hash.lean ====
section
/-! DEFINITION. The scratchpad hash tables: lookups and steps of keys, spilling, the four lane words, and the claim, release, counters and drain of a
table (spec/09 R169-R188). -/

namespace Sys2Proof.Machine

/-! ## Tables -/

/-- A claimed table, one whose HREL waits for earlier words among them. -/
def Team.claimed (t : Team) (k : Nat) : Option HashTab :=
  if h : k < 4 then (if k < t.obj.htabs ∧ t.tabs[k].claimed then some t.tabs[k] else none) else none

/-- A usable table: from the completion of its HCLAIM to the issue of its HREL (R169, R173). -/
def Team.table (t : Team) (k : Nat) : Option HashTab := (t.claimed k).filter fun h => h.rel.isNone

/-- The chains of a group whose hash word is between its steps. -/
def Group.hashChains (g : Group) : List Chain := (g.chain.toList ++ g.parked).filter fun c => c.hash.isSome

/-- The tables that the group's hash words between their steps name. -/
def Group.hashTables (g : Group) : List Nat := g.hashChains.filterMap fun c => c.hash.map fun q => (q.word.imm.extractLsb' 12 2).toNat

/-- A lane hash word that names table k is between its steps. -/
def Team.hashBusy (t : Team) (k : Nat) : Bool := t.groups.any fun g => g.hashTables.contains k

/-- A HSTAT or an HDRAIN on table k has issued and waits (R173). -/
def Team.tableUsed (t : Team) (k : Nat) : Bool := t.groups.any fun g => match g.uses with | some (j, _) => j == k | none => false

/-- A HCLAIM of table k is in progress (R172). -/
def Team.claiming (t : Team) (k : Nat) : Bool := t.groups.any fun g => match g.claim with | some c => c.tbl == k | none => false

def Team.modTable (t : Team) (k : Nat) (f : HashTab → HashTab) : Team := if h : k < 4 then { t with tabs := t.tabs.set k (f t.tabs[k]) } else t

/-- 64-bit values, and 64-bit keys (R170). -/
def HashTab.wideVal (h : HashTab) : Bool := h.fmt % 2 == 1
def HashTab.wideKey (h : HashTab) : Bool := decide (2 ≤ h.fmt)
def HashTab.vt (h : HashTab) : Nat := bitsOf h.desc[1] 4 3
/-- P buckets. -/
def HashTab.span (h : HashTab) : Nat := 2 ^ bitsOf h.desc[1] 8 2
def HashTab.spills (h : HashTab) : Bool := h.desc[2].getLsbD 31

def HashTab.keyBytes (h : HashTab) : Nat := if h.wideKey then 8 else 4
def HashTab.valBytes (h : HashTab) : Nat := if h.wideVal then 8 else 4
def HashTab.valAt (h : HashTab) : Nat := if h.fmt = 0 then 4 else 8

/-- The sentinels of an empty and of a deleted slot (R171). -/
def HashTab.empty (h : HashTab) : Nat := 2 ^ (8 * h.keyBytes) - 1
def HashTab.tombstone (h : HashTab) : Nat := 2 ^ (8 * h.keyBytes) - 2

/-- The bytes of a slot, padding zero (R171). -/
def HashTab.slot (h : HashTab) (k v : Nat) : List Byte :=
  toBytes h.keyBytes k ++ List.replicate (h.valAt - h.keyBytes) 0 ++ toBytes h.valBytes v ++ List.replicate (h.slotBytes - h.valAt - h.valBytes) 0

def HashTab.slotAt (h : HashTab) (bucket i : Nat) : Nat := h.base + bucket * (8 * h.slotBytes) + i * h.slotBytes

/-! ## The hash function and lookups (R174, R175) -/

def rotl32 (v n : Nat) : Nat := (v * 2 ^ n + v / 2 ^ (32 - n)) % 2 ^ 32

/-- H(k) of a 32-bit key. -/
def hash32 (k : Nat) : Nat := rotl32 (k * 0x2C1B3C6D % 2 ^ 32) 13 ^^^ (k * 0x297A2D39 % 2 ^ 32)

/-- A 64-bit key folded to 32 bits. -/
def foldKey (k : Nat) : Nat := (k % 2 ^ 32) ^^^ rotl32 (k / 2 ^ 32 * 0x2C1B3C6D % 2 ^ 32) 7

/-- The home bucket of a key. -/
def HashTab.home (h : HashTab) (k : Nat) : Nat := hash32 (if h.wideKey then foldKey k else k) / 2 ^ (32 - h.logb)

/-- The buckets of a key's probe order. -/
def HashTab.probes (h : HashTab) (k : Nat) : List Nat := (List.range h.span).map fun j => (h.home k + j) % 2 ^ h.logb

def Team.keyAt (t : Team) (h : HashTab) (a : Nat) : Nat := t.spadRead a h.keyBytes
def Team.valAt (t : Team) (h : HashTab) (a : Nat) : Nat := t.spadRead (a + h.valAt) h.valBytes

/-- What a lookup finds: the slot of the key, the first empty or deleted slot, and the first slot with a poisoned word it read. -/
structure Lookup where
  found : Option Nat
  room  : Option Nat
  bad   : Option Nat

/-- The slots of one bucket, in order.
Rests on notes/assumptions 13 (DEDUCED). -/
def Team.scanBucket (t : Team) (h : HashTab) (key : Nat) (b : Nat) (x : Lookup) : Lookup :=
  (List.range 8).foldl (fun x i =>
    let a := h.slotAt b i
    let k := t.keyAt h a
    { found := if x.found.isNone && k == key then some a else x.found,
      room := if x.room.isNone && (k == h.empty || k == h.tombstone) then some a else x.room,
      bad := if x.bad.isNone && poisoned t.spadPoison a h.slotBytes then some a else x.bad }) x

/-- A lookup over the buckets left: it ends after the first bucket that holds an empty slot.
Rests on notes/assumptions 13 (DEDUCED). -/
def Team.lookupIn (t : Team) (h : HashTab) (key : Nat) : List Nat → Lookup → Lookup
  | [], x => x
  | b :: r, x =>
    let y := t.scanBucket h key b x
    if (List.range 8).any fun i => t.keyAt h (h.slotAt b i) == h.empty then y else t.lookupIn h key r y

def Team.lookup (t : Team) (h : HashTab) (key : Nat) : Lookup := t.lookupIn h key (h.probes key) { found := none, room := none, bad := none }

/-- The slots that the lookup of a key reads (R175, R189). -/
def Team.slotsRead (t : Team) (h : HashTab) (key : Nat) : List Nat → List Nat
  | [] => []
  | b :: r =>
    let xs := (List.range 8).map fun i => h.slotAt b i
    xs ++ (if xs.any fun a => t.keyAt h a == h.empty then [] else t.slotsRead h key r)

/-! ## Combining values (R180) -/

/-- The reduction format of a value type. -/
def HashTab.redFmt (h : HashTab) : Nat :=
  match h.vt with
  | 0 => 0 | 1 => 1 | 2 => 8 | 3 => 2 | 4 => 3 | 5 => 9
  | _ => fmtPair

/-- The reduction operation of HACC's SUB: add, min, max, or. -/
def hashOp (sub : Nat) : Nat := match sub with | 0 => 1 | 1 => 2 | 2 => 3 | _ => 5

def HashTab.apply (h : HashTab) (sub x y : Nat) : Nat := applyRed (hashOp sub) h.redFmt x y

/-- The identity of an operation on the table's value type. -/
def HashTab.identity (h : HashTab) (sub : Nat) : Nat :=
  let n := 8 * h.valBytes
  match h.vt, sub with
  | 2, 0 => 0x80000000 | 2, 1 => 0x7F800000 | 2, _ => 0xFF800000
  | 5, 0 => 2 ^ 63 | 5, 1 => 0x7FF0000000000000 | 5, _ => 0xFFF0000000000000
  | 6, 0 => 0x80008000 | 6, 1 => 0x7F807F80 | 6, _ => 0xFF80FF80
  | 1, 1 => 2 ^ (n - 1) - 1 | 4, 1 => 2 ^ (n - 1) - 1
  | 1, 2 => 2 ^ (n - 1) | 4, 2 => 2 ^ (n - 1)
  | _, 1 => 2 ^ n - 1
  | _, _ => 0

/-- A floating-point value type. -/
def HashTab.isFloat (h : HashTab) : Bool := h.vt == 2 || h.vt == 5 || h.vt == 6

/-! ## Reading the spill ring's header (R183) -/

/-- An engine read of 8 bytes of a ring's header: none while its address may yet translate. Whether it uses a cached translation and a held copy, and
whether it keeps the line, is open, as it is for a copy element (spec/12 R234); so is what it finds in poisoned bytes.
Rests on notes/assumptions 31 (UNVERIFIED). -/
def State.readHeader (s : State) (e : Shape) (off : Nat) : State × Option DWord :=
  let va := (e.base.toNat + off) % 2 ^ 64
  let c := s.team.core
  match s.translateAt c s.team.ctx va .read (Config.headerChoice s.tick 0) with
  | (s1, .error f) => (s1, if causeReplayable f then none else some (Config.failedHeaderRead va))
  | (s1, .ok x) =>
    let pa := x.addr va
    let s1 := if x.space == .device then s1.landRange c (pa - pa % 64) 64 else s1
    let s2 := if Config.headerChoice s.tick 1 then s1 else s1.evictRange c (pa - pa % 64) 64
    let s3 := if Config.headerChoice s.tick 2 && x.cacheable then s2.allocate c x 0 (pa - pa % 64) 64 else s2
    let bs := s2.readPage c x pa 8
    (s3, some (if x.poison || bs.any fun b => b.2 then Config.failedHeaderRead va else BitVec.ofNat 64 (ofBytes (bs.map fun b => b.1))))

/-- Records of a ring (R182). -/
def ringRecords (e : Shape) : Nat := (e.ext.headD 1 - 64) / 24

/-! ## The steps of a lane word (R178, R179, R183) -/

/-- A run of steps: the state, the record writes made so far, the results by lane as (lane, code, value), the slots read, the first poisoned slot, and
whether a header read has to wait. -/
structure HashRun where
  s      : State
  writes : List (DWord × List Byte)
  res    : List (Fin 64 × Nat × Nat)
  reads  : List Nat
  bad    : Option (Fin 64 × Nat)
  stall  : Bool

/-- Spill appends a record (R183): code 4 SPILLED or 6 LOST. -/
def HashRun.spill (r : HashRun) (tbl : Nat) (h : HashTab) (op k v : Nat) : HashRun × Nat :=
  let n := ringRecords h.ring
  let refresh := n ≤ (h.ringP - h.ringC).toNat
  let q := if refresh then r.s.readHeader h.ring 8 else (r.s, some h.ringC)
  let r : HashRun := { r with s := q.1 }
  match q.2 with
  | none => ({ r with stall := true }, 6)
  | some c =>
    if n ≤ (h.ringP - c).toNat then
      let lost := min (bitsOf h.lost 0 31 + 1) (2 ^ 31 - 1)
      ({ r with s := r.s.modTeam fun t => t.modTable tbl fun x => { x with ringC := c, lost := BitVec.ofNat 32 (2 ^ 31 + lost) } }, 6)
    else
      let a := h.ring.base + BitVec.ofNat 64 (0x40 + 24 * (h.ringP.toNat % n))
      let body := toBytes 8 k ++ toBytes 8 v ++ [BitVec.ofNat 8 op, BitVec.ofNat 8 h.vt, BitVec.ofNat 8 tbl, BitVec.ofNat 8 h.fmt] ++ toBytes 4 h.ringP.toNat
      ({ r with
           s := r.s.modTeam fun t => t.modTable tbl fun x =>
             { x with ringC := c, ringP := x.ringP + 1, spilled := if x.spilled = 0xFFFFFFFF then x.spilled else x.spilled + 1 }
           writes := r.writes ++ [(a, body)] }, 4)

/-- What each lane of a step receives: the first lane, then the others. -/
def HashRun.give (r : HashRun) (ls : List (Fin 64)) (first rest : Nat × Nat) : HashRun :=
  { r with res := r.res ++ (match ls with | [] => [] | l :: m => (l, first) :: m.map fun x => (x, rest)) }

/-- One key's step (R178, R179): `v` is the combined operand. A poisoned slot that its lookup reads is noted. -/
def HashRun.step (r : HashRun) (kind : HashWord) (tbl : Nat) (key v : Nat) (ls : List (Fin 64)) : HashRun :=
  match r.s.team.claimed tbl with
  | none => r
  | some h =>
    let t := r.s.team
    let x := t.lookup h key
    let l0 := ls.headD 0
    let absent : Nat × Nat := (if h.spilled != 0 then 3 else 2, 0)
    let r : HashRun := { r with bad := if r.bad.isSome then r.bad else x.bad.map (fun a => (l0, a)), reads := r.reads ++ t.slotsRead h key (h.probes key) }
    let put (a k v : Nat) (f : HashTab → HashTab) : HashRun := { r with s := (r.s.storeWords true 0 [(a, h.slot k v)]).modTeam fun t => t.modTable tbl f }
    let enter (a : Nat) (v : Nat) : HashRun :=
      put a key v fun y => { y with live := y.live + 1, tomb := if t.keyAt h a = h.tombstone then y.tomb - 1 else y.tomb }
    match kind, x.found with
      | .prb, some a => r.give ls (1, t.valAt h a) (1, t.valAt h a)
      | .prb, none => r.give ls absent absent
      | .del, some a =>
        let s1 := (r.s.storeWords true 0 [(a, toBytes h.keyBytes h.tombstone)]).modTeam fun t =>
          t.modTable tbl fun y => { y with live := y.live - 1, tomb := y.tomb + 1 }
        ({ r with s := s1 } : HashRun).give ls (1, t.valAt h a) (2, 0)
      | .del, none => r.give ls absent absent
      | .ins, some a => r.give ls (1, t.valAt h a) (1, t.valAt h a)
      | .acc sub, some a => (put a key (h.apply sub (t.valAt h a) v) id).give ls (1, t.valAt h a) (1, t.valAt h a)
      | .ins, none =>
        match x.room with
        | some a => (enter a v).give ls (0, v) (1, v)
        | none => if h.spills then (let y := r.spill tbl h 0 key v; y.1.give ls (y.2, 0) (y.2, 0)) else r.give ls (5, 0) (5, 0)
      | .acc sub, none =>
        match x.room with
        | some a => (enter a (h.apply sub (h.identity sub) v)).give ls (0, h.identity sub) (0, h.identity sub)
        | none => if h.spills then (let y := r.spill tbl h (sub + 1) key v; y.1.give ls (y.2, 0) (y.2, 0)) else r.give ls (5, 0) (5, 0)

/-! ## The lane words (R176, R177) -/

def hashTbl (w : LaneWord) : Nat := (w.imm.extractLsb' 12 2).toNat
def hashPred (w : LaneWord) : Nat := (w.imm.extractLsb' 8 3).toNat
def hashStatus (w : LaneWord) : BitVec 8 := w.imm.extractLsb' 0 8

/-- A key or value of a lane. -/
def State.hashSource (s : State) (w : LaneWord) (wide : Bool) (f : BitVec 10) (l : Fin 64) : Nat :=
  if wide then (s.srcW .unsigned w f l).toNat else (s.srcN w f l).toNat

/-- The distinct keys of the lanes, in ascending order of their lowest lanes. -/
def keyGroups (ks : List (Fin 64 × Nat)) : List (Nat × List (Fin 64)) :=
  (ks.map fun x => x.2).eraseDups.map fun k => (k, (ks.filter fun x => x.2 == k).map fun x => x.1)

/-- The combined operand of a key's lanes (R179). -/
def State.combined (s : State) (w : LaneWord) (h : HashTab) (kind : HashWord) (ls : List (Fin 64)) : Nat :=
  let v (l : Fin 64) : Nat := s.hashSource w h.wideVal w.srcB l
  match kind, ls with
  | .acc sub, l :: r => r.foldl (fun x l => h.apply sub x (v l)) (v l)
  | .ins, l :: _ => v l
  | _, _ => 0

/-- A pair that a word needs at an odd index: cause 0x006, once the table's format is known (R176). -/
def hashOdd (w : LaneWord) (h : HashTab) (kind : HashWord) : Bool :=
  let takes : Bool := match kind with | .ins => true | .acc _ => true | _ => false
  (h.wideKey && srcOdd w.srcA) || (h.wideVal && takes && srcOdd w.srcB) || (h.wideVal && !w.nowb && w.dst.toNat % 2 == 1)

/-- The spill writes of a word that issued at CMDSEQ q join the open batch of the group, the new produced count last (R183, spec/17 R338).
Rests on notes/assumptions 34 (DEDUCED), 91 (DEDUCED). -/
def State.postSpill (s : State) (q : Word) (h : HashTab) (p : DWord) (ws : List (DWord × List Byte)) : State :=
  if ws.isEmpty then s
  else
    let all := ws ++ [(h.ring.base, toBytes 8 p.toNat)]
    let c : Cmd :=
      { gix := s.gix, seq := q, sub := s.tick + 1, split := some s.spl, op := .spill, w := Vector.replicate 8 0, shape := h.ring, spc := s.blockSpc,
        lpc := some s.lpc, local0 := 0, limit := 0, tile := Tile.zero.shape, aop := 0, aty := 0, scope := 0, lanes := [], writes := all, pos := 0, rows := 0,
        packOff := 0, stat := .running, fault := none, tag := 0, crc := [], pois := false, paged := false, index := 0, indexRow := none, ahead := [], half := none, crcHalf := false,
        posted := s.tick, beside := s.besideNow }
    ((s.modTeam fun t => { t with cmds := t.cmds ++ [c] }).modGrp fun g => { g with openB := g.openB ++ [c.start false] }).cmdEvent c 0

/-- The registers that a hash word writes (R176): the value in DST, a pair where the table holds 64-bit values, and the status in vS. -/
def hashWrites (w : LaneWord) (h : HashTab) : List Reg := (if w.nowb then [] else regRun w.dst (if h.wideVal then 2 else 1)) ++ [hashStatus w]

/-- A split's word has ended: the hash word of another split that is between its steps comes back in hand, and what this word wrote is part of what the
others' checkpoints hold (R181). -/
def Group.unpark (g : Group) : Group :=
  match g.chain, g.parked with
  | none, c :: r =>
    let now (c : Chain) : Chain := { c with savedV := g.vregs, savedP := g.preds, savedE := g.errs }
    { g with chain := some (now c), parked := r.map now }
  | _, _ => g

/-- The last of a word's steps is done: its waves are counted, its spill writes are posted and its results arrive, the status after the value (R177, R183,
R189).
Rests on notes/assumptions 34 (DEDUCED), 114 (DESIGN CHOICE). -/
def State.hashFinish (s : State) (opc : Nat) (h : HashTab) (q : HashProg) : Host.Outcome State Fault Refusal :=
  let w := q.word
  let e := q.lanes
  let code (l : Fin 64) : Nat := match q.res.lookup l with | some x => x.1 | none => 0
  let val (l : Fin 64) : Nat := match q.res.lookup l with | some x => x.2 | none => 0
  let s2 := ((s.countWaves h.slotBytes q.reads).postSpill q.seq h h.ringP q.writes).modGrp fun g =>
    let g1 := if h.wideVal then g.result64 w e fun l => BitVec.ofNat 64 (val l) else g.result32 w e fun l => BitVec.ofNat 32 (val l)
    let g2 := g1.setVec (hashStatus w) e fun l => BitVec.ofNat 32 (code l)
    (g2.setPred (hashPred w) e (maskOf fun l => decide (code l ≤ 1))).setPred (hashPred w + 1) e (maskOf fun l => decide (3 ≤ code l))
  let extra : Option (Cause × Fin 64 × DWord) :=
    match (maskLanes e).find? fun l => code l == 6 with
    | some l => if s2.grp.enables.getLsbD 5 then some (0x148, l, 0) else none
    | none => none
  .next ((s2.stepLpc.laneEnd w (laneReads opc w) [] extra).modGrp Group.unpark)

/-- Puts a hash word between its steps. -/
def State.setHash (s : State) (q : HashProg) : State := s.modGrp fun g => { g with chain := g.chain.map fun c => { c with hash := some q } }

/-- A trap of a hash word is taken once no hash word of another split of the group is between its steps (R188), and otherwise waits in the state s.
Rests on notes/assumptions 38 (DEDUCED). -/
def State.hashTrap (s1 s : State) (c : Cause) (lane : Option (Fin 64)) (addr : DWord) : Host.Outcome State Fault Refusal :=
  if s1.grp.parked.isEmpty then s1.laneTrap c lane addr else s.wait

/-- One step of a hash word (R181), and its end after the last: other words may come between two steps. A header read that has to wait holds the step, and
a slot that has been poisoned since the word's checks traps before it is stepped.
Rests on notes/assumptions 38 (DEDUCED). -/
def State.hashTurn (s : State) (opc : Nat) (q : HashProg) : Host.Outcome State Fault Refusal :=
  let tbl := hashTbl q.word
  let done (s : State) (q : HashProg) : Host.Outcome State Fault Refusal := s.hashFinish opc ((s.team.claimed tbl).getD HashTab.zero) q
  match q.left with
  | [] => done s q
  | (key, v, ls) :: rest =>
    let r := ({ s := s, writes := q.writes, res := q.res, reads := q.reads, bad := none, stall := false } : HashRun).step q.kind tbl key v ls
    match r.bad with
    | some (l, a) =>
      let h := (s.team.claimed tbl).getD HashTab.zero
      (s.postSpill q.seq h h.ringP q.writes).hashTrap s 0x101 (some l) (BitVec.ofNat 64 a)
    | none =>
    if r.stall then r.s.wait
    else
      let q1 : HashProg := { q with left := rest, res := r.res, writes := r.writes, reads := r.reads }
      if rest.isEmpty then done r.s q1 else .next (r.s.setHash q1)

/-- The keys of a word that are stepped, each with its combined operand, and the codes of the lanes whose key is a sentinel (R178). -/
def State.hashPlan (s : State) (w : LaneWord) (h : HashTab) (kind : HashWord) (e : Mask) : HashProg :=
  let ks := (maskLanes e).map fun l => (l, s.hashSource w h.wideKey w.srcA l)
  let sentinel (k : Nat) : Bool := k == h.empty || k == h.tombstone
  { kind := kind, word := w, lanes := e, seq := s.grp.cmdSeq, left := (keyGroups (ks.filter fun x => !sentinel x.2)).map fun k => (k.1, s.combined w h kind k.2, k.2),
    res := (ks.filter fun x => sentinel x.2).map fun x => (x.1, 7, 0), writes := [], reads := [] }

/-- The first poisoned slot that the word's steps would read, one after the other, with its lane (R190).
Rests on notes/assumptions 38 (DEDUCED). -/
def State.hashPoison (s : State) (tbl : Nat) (q : HashProg) : Option (Fin 64 × Nat) :=
  if s.team.spadPoison.isEmpty then none
  else
    (q.left.foldl (fun r k => r.step q.kind tbl k.1 k.2.1 k.2.2) ({ s := s, writes := [], res := [], reads := [], bad := none, stall := false } : HashRun)).bad

/-- The n-th key left of a word comes first (R181). -/
def HashProg.rotate (q : HashProg) (n : Nat) : HashProg :=
  match q.left[n]? with
  | some x => { q with left := x :: q.left.eraseIdx n }
  | none => q

/-- Another split's hash word between its steps, alone in its chain, makes room for split k's: none where its trap on LOST would have to wait (R183, R188).
Rests on notes/assumptions 38 (DEDUCED). -/
def Group.park (g : Group) (k : SplitIx) : Group :=
  match g.chain with
  | some c => if c.split != k && c.hash.isSome && c.pos == 0 && !g.enables.getLsbD 5 then { g with chain := none, parked := c :: g.parked } else g
  | none => g

/-- The hash word of split k that is between its steps comes in hand. -/
def Group.bring (g : Group) (k : SplitIx) : Group :=
  match g.parked.find? fun c => c.split == k with
  | some c => { g with chain := some c, parked := g.chain.toList ++ g.parked.filter fun x => x.split != k }
  | none => g.park k

/-- A lane hash word: its checks, which ask for no executing lane, and its first step; or the next step of the word that is between its steps. The key
stepped is the n-th left.
Rests on notes/assumptions 26 (DEDUCED), 38 (DEDUCED). -/
def State.hashWordAt (s : State) (n : Nat) (opc : Nat) (kind : HashWord) (w : LaneWord) : Host.Outcome State Fault Refusal :=
  let s0 := s.modGrp fun g => g.bring s.spl
  match s0.grp.chain.bind fun c => if c.split == s0.spl then c.hash else none with
  | some q => s0.hashTurn opc (q.rotate n)
  | none =>
    s0.laneWord w fun s1 e =>
      let tbl := hashTbl w
      match s1.team.table tbl with
      | none => s1.hashTrap s 0x146 none 0
      | some h =>
        if h.dstate then s1.hashTrap s 0x14A none 0
        else if hashOdd w h kind then s1.hashTrap s 0x006 none 0
        else if s1.grp.chainBroken opc w (hashWrites w h) then s1.hashTrap s 0x007 none 0
        else
          match s1.grp.splits[s1.spl].bind fun p => s1.sourceErr p opc w with
          | some l => s1.hashTrap s 0x100 (some l) 0
          | none =>
            if h.isFloat && kind == .acc 3 then s1.hashTrap s 0x149 none 0
            else
              let q := (s1.hashPlan w h kind e).rotate n
              match s1.hashPoison tbl q with
              | some (l, a) => s1.hashTrap s 0x101 (some l) (BitVec.ofNat 64 a)
              | none => (s1.setHash q).hashTurn opc q

/-- A lane hash word whose keys are stepped in ascending order of their lowest lanes (R178).
Rests on notes/assumptions 38 (DEDUCED). -/
def State.hashWord (s : State) (opc : Nat) (kind : HashWord) (w : LaneWord) : Host.Outcome State Fault Refusal := s.hashWordAt 0 opc kind w

def execHins (w : LaneWord) (s : State) : Host.Outcome State Fault Refusal := s.hashWord 0x1C0 .ins w

def execHprb (w : LaneWord) (s : State) : Host.Outcome State Fault Refusal := s.hashWord 0x1C1 .prb w

def execHdel (w : LaneWord) (s : State) : Host.Outcome State Fault Refusal := s.hashWord 0x1C2 .del w

def execHacc (w : LaneWord) (s : State) : Host.Outcome State Fault Refusal := s.hashWord 0x1C3 (.acc (w.sub.extractLsb' 0 2).toNat) w

/-! ## Claiming and releasing (R172, R173) -/

/-- A descriptor that breaks R170. -/
def descriptorBad (d : Vector Word 4) : Bool :=
  let f (k : Fin 4) (lo len : Nat) : Nat := bitsOf d[k] lo len
  let slot := if f 1 0 2 = 0 then 8 else 16
  f 1 16 16 != 0 || f 1 10 2 != 0 || f 1 7 1 != 0 || f 1 2 2 != 0 || decide (f 1 12 4 < 4) || decide (14 < f 1 12 4) || f 1 8 2 == 3 || f 1 4 3 == 7 ||
  (f 1 0 2 % 2 == 1) != (f 1 4 3 == 3 || f 1 4 3 == 4 || f 1 4 3 == 5) || f 2 16 15 != 0 || (f 2 31 1 == 0 && f 2 0 16 != 0) || d[3] != 0 ||
  d[0].toNat % (8 * slot) != 0

/-- A ring's shape entry that R182 refuses. -/
def State.ringBad (s : State) (e : Shape) : Bool :=
  e.rank != 1 || e.fmt != 6 || !e.rights.getLsbD 0 || !e.rights.getLsbD 1 || e.base.toNat % 64 != 0 || decide (e.ext.headD 1 < 88) || !e.valid ||
  e.ctx != s.team.ctx.val

/-- A region whose every slot is empty. -/
def HashTab.fresh (h : HashTab) : List Byte := (List.replicate (2 ^ h.logb * 8) (h.slot h.empty 0)).flatten

/-- The four registers from one upward. -/
def State.quad (s : State) (a : Reg) : Vector Word 4 := Vector.ofFn fun i => s.sr (a + BitVec.ofNat 8 i.val)

/-- Initialises words of a region, by their numbers.
Rests on notes/assumptions 108 (DESIGN CHOICE). -/
def Team.claimWords (t : Team) (h : HashTab) (ws : List Nat) : Team :=
  ws.foldl (fun t i => t.spadWrite (h.base + 4 * i) ((h.fresh.drop (4 * i)).take 4)) t

/-- The words of a region that are still to be initialised.
Rests on notes/assumptions 108 (DESIGN CHOICE). -/
def HashTab.rest (h : HashTab) (done : List Nat) : List Nat := (List.range (h.size / 4)).filter fun i => !done.contains i

/-- The check that a HCLAIM fails (R172). Over a pool entry in use the spec gives two causes.
Rests on notes/assumptions 109 (UNVERIFIED). -/
def State.claimFault (s : State) (k : Fin 4) (h : HashTab) : Option Cause :=
  if s.team.tabs[k].dstate then some 0x14A
  else if s.team.obj.htabs ≤ k ∨ s.team.tabs[k].claimed ∨ s.team.claiming k ∨ descriptorBad h.desc then some 0x147
  else if s.team.spadSize < h.base + h.size then some 0x147
  else if s.team.inTable h.base h.size then some 0x147
  else if s.team.poolTouched h.base h.size then some (if Config.claimOverPool then 0x147 else 0x14E)
  else if h.spills ∧ s.ringBad h.ring then some 0x147
  else none

/-- HCLAIM: the checks and the read of the ring's header; then its initialisation takes some number of turns, each of which writes some words of the region
that are still to be initialised, and the last the rest (R172). From the checks on no other claim and no pool entry takes the region, and the claim holds
from the last turn on.
Rests on notes/assumptions 108 (DESIGN CHOICE). -/
def execHclaim (a : Reg) (tbl : BitVec 2) (s : State) : Host.Outcome State Fault Refusal :=
  let k : Fin 4 := tbl.toFin
  let d := s.quad a
  let h : HashTab := { HashTab.zero with claimed := true, desc := d, ring := if d[2].getLsbD 31 then s.shapeEntry s.team.ctx (bitsOf d[2] 0 16) else Shape.zero }
  match s.grp.claim with
  | some c =>
    match c.left with
    | n + 1 =>
      let ws := (h.rest c.words).filter fun i => Config.claimWord s.tick i
      .next ((s.modTeam fun t => t.claimWords h ws).modGrp fun g => { g with claim := some { c with left := n, words := c.words ++ ws } })
    | 0 =>
      .next (((s.modTeam fun t => (t.claimWords h (h.rest c.words)).modTable k fun _ => { h with ringP := c.ringP, ringC := c.ringC }).modGrp fun g =>
        { g with claim := none }).advance 4)
  | none =>
    match s.claimFault k h with
    | some f => s.scalarTrap0 f
    | none =>
      let p := if h.spills then s.readHeader h.ring 0 else (s, some 0)
      let c := if h.spills then p.1.readHeader h.ring 8 else (p.1, some 0)
      match p.2, c.2 with
      | some vp, some vc =>
        .next (c.1.modGrp fun g =>
          { g with claim := some { tbl := k, base := h.base, size := h.size, ringP := vp, ringC := vc, left := Config.claimTurns s.tick, words := [] } })
      | _, _ => c.1.wait

/-- HREL: the table stops being usable at the issue, and is released once every hash word that names it and issued earlier has completed: lane words between
their steps, and a HSTAT or an HDRAIN that waits or runs (R173).
Rests on notes/assumptions 38 (DEDUCED). -/
def execHrel (tbl : BitVec 2) (s : State) : Host.Outcome State Fault Refusal :=
  let k := tbl.toNat
  match s.team.claimed k with
  | none => s.scalarTrap0 0x146
  | some h =>
    if h.rel = some s.gix then
      if s.team.hashBusy k || s.team.tableUsed k || h.dstate then s.wait
      else .next ((s.modTeam fun t => t.modTable k fun _ => HashTab.zero).advance 4)
    else if h.rel.isSome then s.scalarTrap0 0x146
    else if h.dstate then s.scalarTrap0 0x14A
    else if s.team.hashBusy k || s.team.tableUsed k then .next (s.modTeam fun t => t.modTable k fun x => { x with rel := some s.gix })
    else .next ((s.modTeam fun t => t.modTable k fun _ => HashTab.zero).advance 4)

/-- The table that a HSTAT or an HDRAIN of the group in hand reads: one whose HREL issued after the word did is still its own (R173). -/
def State.usedTable (s : State) (k : Nat) (stat : Bool) : Option HashTab :=
  (s.team.claimed k).filter fun h => h.rel.isNone || s.grp.uses == some (k, stat) || (!stat && h.dstate && h.dgrp == s.gix)

/-- HSTAT waits for the group's own earlier hash words on the table (R184).
Rests on notes/assumptions 38 (DEDUCED). -/
def execHstat (d : Reg) (tbl : BitVec 2) (s : State) : Host.Outcome State Fault Refusal :=
  match s.usedTable tbl.toNat true with
  | none => s.scalarTrap0 0x146
  | some h =>
    if s.grp.hashTables.contains tbl.toNat then (s.modGrp fun g => { g with uses := some (tbl.toNat, true) }).wait
    else
      .next ((((((s.modGrp fun g => { g with uses := none }).setSr d h.live).setSr (d + 1) h.tomb).setSr (d + 2) h.spilled).setSr (d + 3) h.lost).advance 4)

/-! ## The drain (R185-R187) -/

/-- Inserts an entry before the first one whose key is not below its own. -/
def insertEntry (x : Nat × Nat) : List (Nat × Nat) → List (Nat × Nat)
  | [] => [x]
  | y :: r => if x.1 ≤ y.1 then x :: y :: r else y :: insertEntry x r

/-- The live slots whose key has a home bucket, ascending by key, equal keys in probe order.
Rests on notes/assumptions 32 (DEDUCED). -/
def Team.homeEntries (t : Team) (h : HashTab) (b : Nat) : List (Nat × Nat) :=
  let slots := ((List.range h.span).map fun j => (b + j) % 2 ^ h.logb).flatMap fun x => (List.range 8).map fun i => h.slotAt x i
  let live := (slots.map fun a => (t.keyAt h a, a)).filter fun x => x.1 != h.empty && x.1 != h.tombstone && h.home x.1 == b
  live.foldr insertEntry []

/-- The slots of the buckets that hold the entries of home bucket b. -/
def HashTab.homeSlots (h : HashTab) (b : Nat) : List Nat :=
  ((List.range h.span).map fun j => (b + j) % 2 ^ h.logb).flatMap fun x => (List.range 8).map fun i => h.slotAt x i

/-- The first poisoned slot that a drain reads, with the home buckets left, the next bucket, skip and the records still wanted (R185, R190).
Rests on notes/assumptions 32 (DEDUCED). -/
def Team.drainPoison (t : Team) (h : HashTab) : (fuel b skip left : Nat) → Option Nat
  | 0, _, _, _ => none
  | f + 1, b, skip, left =>
    if left = 0 ∨ 2 ^ h.logb ≤ b then none
    else
      match (h.homeSlots b).find? fun a => poisoned t.spadPoison a h.slotBytes with
      | some a => some a
      | none =>
        let n := (t.homeEntries h b).length - skip
        if left < n then none else t.drainPoison h f (b + 1) 0 (left - n)

/-- The checks of an HDRAIN (R185): poison is met in the slots that it reads.
Rests on notes/assumptions 32 (DEDUCED). -/
def State.drainFault (s : State) (h : HashTab) (d : Reg) : Option (Cause × Nat) :=
  let cur := s.sr d
  let out := (s.sr (d + 1)).toNat
  let n := (s.sr (d + 2)).toNat * h.slotBytes
  if bitsOf cur 24 8 ≠ 0 ∨ 2 ^ h.logb < bitsOf cur 0 16 ∨ bitsOf (s.sr (d + 3)) 1 31 ≠ 0 then some (0x14B, 0)
  else if out % h.slotBytes ≠ 0 ∨ s.team.spadSize < out + n then some (0x14B, 0)
  else if n ≠ 0 ∧ overlaps out n h.base h.size then some (0x14B, 0)
  else if n ≠ 0 ∧ s.team.poolTouched out n then some (0x14E, out)
  else if s.team.spadPoison.isEmpty then none
  else (s.team.drainPoison h (2 ^ h.logb) (bitsOf cur 0 16) (bitsOf cur 16 8) (s.sr (d + 2)).toNat).map fun a => (0x101, a)

/-- One record, or one home bucket passed, of a drain in progress, at a clock of the core; its stores are the scalar stream's (R187, R181).
Rests on notes/assumptions 38 (DEDUCED). -/
def Team.drainStep (t : Team) (now : Nat) (tbl : Nat) (h : HashTab) (out : Nat) (clear : Bool) : Team :=
  let b := bitsOf h.dcur 0 16
  let skip := bitsOf h.dcur 16 8
  let l := t.homeEntries h b
  match l[skip]? with
  | none => t.modTable tbl fun x => { x with dcur := BitVec.ofNat 32 (b + 1) }
  | some (k, a) =>
    let put := (out + h.slotBytes * h.dcnt.toNat, h.slot k (t.valAt h a)) :: (if clear then [(a, toBytes h.keyBytes h.tombstone)] else [])
    (t.storeAs (h.dgrp, false) now (now + 24) put).modTable tbl fun x =>
      { x with
        live := if clear then x.live - 1 else x.live
        tomb := if clear then x.tomb + 1 else x.tomb
        dcnt := x.dcnt + 1
        dcur := BitVec.ofNat 32 (if l.length ≤ skip + 1 then b + 1 else if clear then skip * 65536 + b else (skip + 1) * 65536 + b) }

/-- A poisoned slot of the home bucket that a running drain reads next (R190).
Rests on notes/assumptions 32 (DEDUCED). -/
def Team.drainBad (t : Team) (h : HashTab) : Option Nat := (h.homeSlots (bitsOf h.dcur 0 16)).find? fun a => poisoned t.spadPoison a h.slotBytes

/-- A drain is begun once no earlier hash word is between its steps on the table, goes on by one record at a time, and ends when every home bucket is
passed or n records are written; a slot poisoned since its checks ends it with cause 0x101. With n = 0 it writes nothing.
Rests on notes/assumptions 32 (DEDUCED). -/
def execHdrain (d : Reg) (tbl : BitVec 2) (s : State) : Host.Outcome State Fault Refusal :=
  let k := tbl.toNat
  match s.usedTable k false with
  | none => s.scalarTrap0 0x146
  | some h =>
    let n := (s.sr (d + 2)).toNat
    let out := (s.sr (d + 1)).toNat
    let stop (t : Team) : Team := t.modTable k fun x => { x with dstate := false, dcur := 0, dcnt := 0 }
    if h.dstate then
      if h.dgrp ≠ s.gix then s.scalarTrap0 0x14A
      else
        let clear := (s.sr (d + 3)).getLsbD 0
        if bitsOf h.dcur 0 16 < 2 ^ h.logb ∧ h.dcnt.toNat < n then
          match s.team.drainBad h with
          | some a => if s.grp.chain.isSome then s.wait else (s.modTeam stop).scalarTrap 0x101 (BitVec.ofNat 64 a) 0
          | none => .next (s.modTeam fun t => t.drainStep s.die.ccyc.toNat k h out clear)
        else
          let s1 := if clear && h.live == 0 && n != 0 then s.modTeam fun t => (t.spadWrite h.base h.fresh).modTable k fun x => { x with tomb := 0 } else s
          .next ((((s1.modTeam stop).setSr d h.dcur).setSr (d + 3) h.dcnt).advance 4)
    else
      match s.drainFault h d with
      | some (c, a) => s.scalarTrap c (BitVec.ofNat 64 a) 0
      | none =>
        if s.team.hashBusy k then (s.modGrp fun g => { g with uses := some (k, false) }).wait
        else
          .next ((s.modTeam fun t => t.modTable k fun x =>
            { x with dstate := true, dgrp := s.gix, dout := (out, n * h.slotBytes), dcur := s.sr d, dcnt := 0 }).modGrp fun g => { g with uses := none })

end Sys2Proof.Machine
end

