-- ==== Sys2Proof/Machine/LaneBranch.lean ====
section
/-! DEFINITION. The branching words, the steps of the divergence hardware and the Guidon table (spec/07 R136-R144, spec/03 R69). -/

namespace Sys2Proof.Machine

/-- Target and reconvergence PCs of a branching word at a lane PC (spec/02 R35). -/
def branchTo (w : LaneWord) (pc : Word) : Word := pc + (w.imm.extractLsb' 16 16).signExtend 32
def branchJoin (w : LaneWord) (pc : Word) : Word := pc + (w.imm.extractLsb' 0 16).signExtend 32

/-- The history after a VBR (R137). -/
def nextHist (h : BitVec 10) (x : BitVec 10) : BitVec 10 := h.rotateLeft 2 ^^^ x

/-! ## The Guidon table (R143, R144) -/

def guidonIx (pc : Word) (h : BitVec 10) : Nat := (pc.extractLsb' 0 10 ^^^ h).toNat

/-- An entry's mask and confidence; an entry that nothing trained reads 0 and 0. -/
def CoreSt.guidonEntry (c : CoreSt) (i : Nat) : Mask × Nat := (c.guidon.lookup i).getD (0, 0)

/-- Trains an entry with the true mask of a split's active lanes. -/
def CoreSt.train (c : CoreSt) (i : Nat) (active taken : Mask) : CoreSt :=
  let (m, conf) := c.guidonEntry i
  let conf' := if m &&& active = taken then min 3 (conf + 1) else conf - 1
  { c with guidon := (i, taken, conf') :: c.guidon.filter fun x => x.1 != i }

/-! ## VBR, VBRK, VSWITCH -/

/-- Ends a branching word whose split state is already set, or raises 0x021 where no stack entry was free (R134). -/
def State.branchEnd (s : State) (opc : Nat) (w : LaneWord) (r : Option State) : Host.Outcome State Fault Refusal :=
  match r with
  | some s1 => .next (s1.laneEnd w (laneReads opc w) [] none)
  | none => s.laneTrap 0x021 none 0

/-- The split in hand goes on at a lane PC with a history. -/
def State.splitTo (s : State) (p : Split) (pc : Word) (h : BitVec 10) : State :=
  s.modGrp fun g => g.setSplit s.spl (some { p with lpc := pc, hist := h })

/-- The lanes of the split in hand that a branch's guard takes (spec/02 R35). -/
def State.takenMask (s : State) (w : LaneWord) (p : Split) : Mask := p.mask &&& s.grp.guardMask w.guard

/-- VBR's effect on the splits for a taken mask, or none where no stack entry is free (R137). -/
def State.vbrSplit (s : State) (w : LaneWord) (p : Split) (t : Mask) : Option State :=
  if t = p.mask then some (s.splitTo p (branchTo w p.lpc) (nextHist p.hist 1))
  else if t = 0 then some (s.splitTo p (p.lpc + 1) (nextHist p.hist 0))
  else
    s.divide s.spl p [{ pc := branchTo w p.lpc, mask := t, hist := nextHist p.hist 3, later := false },
                      { pc := p.lpc + 1, mask := p.mask &&& ~~~t, hist := nextHist p.hist 2, later := false }] (branchJoin w p.lpc)

/-- Trains the entry of a VBR whose guard is not p7 (R144). -/
def State.trainVbr (s : State) (w : LaneWord) (p : Split) : State :=
  if w.guard = 7 then s else s.modCore s.team.core fun c => c.train (guidonIx p.lpc p.hist) p.mask (s.takenMask w p)

def execVbr (w : LaneWord) (s : State) : Host.Outcome State Fault Refusal :=
  s.laneWord w fun s1 _ =>
    match s1.grp.splits[s1.spl] with
    | none => s1.wait
    | some p => s1.branchEnd 0x140 w ((s1.trainVbr w p).vbrSplit w p (s1.takenMask w p))

def execVbrk (w : LaneWord) (s : State) : Host.Outcome State Fault Refusal :=
  s.laneWord w fun s1 _ =>
    match s1.grp.splits[s1.spl] with
    | none => s1.wait
    | some p =>
      let t := s1.takenMask w p
      s1.branchEnd 0x145 w
        (if t = p.mask then some (s1.splitTo p (branchTo w p.lpc) p.hist)
         else if t = 0 then some (s1.splitTo p (p.lpc + 1) p.hist)
         else s1.divide s1.spl p [{ pc := branchTo w p.lpc, mask := t, hist := p.hist, later := true },
                                  { pc := p.lpc + 1, mask := p.mask &&& ~~~t, hist := p.hist, later := false }] (branchJoin w p.lpc))

/-- The cases of a VSWITCH at a lane PC: value and target of each, the first case word at the next lane PC (R139). -/
def casesOf (pc : Word) (bs : List (BitVec 96)) : List (Word × Word) := bs.map fun b => (b.extractLsb' 64 32, pc + b.extractLsb' 32 32)

/-- Adds lanes to the path of a target, or makes it the last path. -/
def addPath (ps : List (Word × Mask)) (pc : Word) (m : Mask) : List (Word × Mask) :=
  if m = 0 then ps
  else if ps.any fun x => x.1 == pc then ps.map fun x => if x.1 == pc then (pc, x.2 ||| m) else x
  else ps ++ [(pc, m)]

/-- The paths of a VSWITCH, with the lanes that no case has taken yet (R139). -/
def State.casePaths (s : State) (w : LaneWord) : List (Word × Word) → (left : Mask) → List (Word × Mask) → List (Word × Mask) × Mask
  | [], left, ps => (ps, left)
  | (v, pc) :: r, left, ps =>
    let m := left &&& maskOf fun l => s.srcN w w.srcA l == v
    s.casePaths w r (left &&& ~~~m) (addPath ps pc m)

def execVswitch (w : LaneWord) (s : State) : Host.Outcome State Fault Refusal :=
  s.laneWord w fun s1 _ =>
    match s1.grp.splits[s1.spl] with
    | none => s1.wait
    | some p =>
      match s1.caseFault p.lpc w.sub.toNat, s1.caseBits (p.lpc + 1) w.sub.toNat with
      | some (c, a), _ => s1.laneTrap c none a
      | none, .error _ => s1.wait
      | none, .ok bs =>
        let r := s1.casePaths w (casesOf p.lpc bs) p.mask []
        let paths := addPath r.1 (branchTo w p.lpc) r.2
        s1.branchEnd 0x141 w
          (match paths with
           | [(pc, _)] => some (s1.splitTo p pc p.hist)
           | _ => s1.divide s1.spl p (paths.map fun x => { pc := x.1, mask := x.2, hist := p.hist, later := false }) (branchJoin w p.lpc))

/-! ## VJMP, VCALL, VRET (R140) -/

def execVjmp (w : LaneWord) (s : State) : Host.Outcome State Fault Refusal :=
  s.laneWord w fun s1 _ =>
    match s1.grp.splits[s1.spl] with
    | none => s1.wait
    | some p => s1.branchEnd 0x142 w (some (s1.splitTo p (branchTo w p.lpc) p.hist))

def execVcall (w : LaneWord) (s : State) : Host.Outcome State Fault Refusal :=
  s.laneWord w fun s1 _ =>
    match s1.grp.splits[s1.spl] with
    | none => s1.wait
    | some p =>
      if p.cstack.length < 8 then s1.branchEnd 0x143 w (some (s1.splitTo { p with cstack := p.cstack ++ [p.lpc + 1] } (branchTo w p.lpc) p.hist))
      else s1.laneTrap 0x020 none 0

def execVret (w : LaneWord) (s : State) : Host.Outcome State Fault Refusal :=
  s.laneWord w fun s1 _ =>
    match s1.grp.splits[s1.spl] with
    | none => s1.wait
    | some p =>
      match p.cstack.getLast? with
      | none => s1.laneTrap 0x022 none 0
      | some pc => s1.branchEnd 0x144 w (some (s1.splitTo { p with cstack := p.cstack.dropLast } pc p.hist))

/-! ## Retirement (R141) -/

/-- Ends a retiring word; the block is complete once every lane has retired. -/
def State.retireEnd (s : State) (opc : Nat) (w : LaneWord) : Host.Outcome State Fault Refusal :=
  .next ((s.laneEnd w (laneReads opc w) [] none).modGrp Group.finishBlock)

def execVexit (w : LaneWord) (s : State) : Host.Outcome State Fault Refusal :=
  s.laneWord w fun s1 e => (s1.stepLpc.retire s1.spl e).retireEnd 0x146 w

def execVstop (w : LaneWord) (s : State) : Host.Outcome State Fault Refusal :=
  s.laneWord w fun s1 _ => (s1.retire s1.spl (BitVec.allOnes 64)).retireEnd 0x147 w

/-! ## Steps of the divergence hardware -/

/-- A group whose lane stream may move: its team is resident, it runs, it is not in its handler, and no chain is open (spec/16 R326). -/
def State.laneFree (s : State) : Bool :=
  s.team.live && s.grp.phase == .running && !s.grp.handler && s.grp.chain.isNone

/-- True where a split stands at the PC of its innermost join (R133). -/
def State.arrived (s : State) (p : Split) : Bool :=
  match p.join with
  | none => false
  | some j => match s.stackEntry j with
    | .join _ pc _ _ _ _ => p.lpc == pc
    | _ => false

/-- The start of the oldest block that has not started, once no block runs (spec/03 R69, spec/07 R130). -/
def Group.startBlock (g : Group) : Option Group :=
  if g.blocks.any fun b => b.started && !b.done then none
  else if g.blocks.any fun b => !b.started then
    some { g with
      blocks := (g.blocks.takeWhile fun b => b.started) ++
        (match g.blocks.dropWhile fun b => b.started with | [] => [] | b :: r => { b with started := true } :: r)
      retired := 0
      errs := mendErrs (fun e => e == .split 0) g.errs
      late := Vector.replicate 7 0
      splits := #v[((g.blocks.find? fun b => !b.started).map fun b =>
          { lpc := b.pc, mask := BitVec.allOnes 64, rank := 0, join := none, cstack := [], hist := 0, atBar := none, dbgSkip := none }), none, none, none] }
  else none

/-- A block's start: its words see the scalar accesses before its LRUN (spec/03 R63). -/
def execLaneBlockStart (t : TeamIx) (g : GrpIx) (s : State) : Host.Outcome State Fault Refusal :=
  let s1 := s.at t g
  if s1.laneFree then
    match s1.grp.startBlock with
    | some g1 => .next ((s1.setGrp g1).modTeam fun x => x.joinPast [(g, false)] [(g, true)])
    | none => s.wait
  else s.wait

/-- A group whose lane stream may move split k: as laneFree, or with a chain of that split open. -/
def State.splitFree (s : State) (k : SplitIx) : Bool :=
  s.team.live && s.grp.phase == .running && !s.grp.handler && s.grp.chainFree k

/-- The arrival of split k at its innermost join; an open chain of the split closes there first, and an enabled flag of it traps at the join's PC. -/
def State.arriveChain (s : State) (k : SplitIx) : State :=
  match s.grp.chain with
  | none => s.arrive k
  | some c =>
    let s1 := s.closeChain c.flags c.head c.pos none
    if s1.grp.handler || s1.grp.phase != .running then s1 else s1.arrive k

/-- The arrival of a split at its join; it reads its split entry and the join's entry (R149). -/
def execSplitArrival (t : TeamIx) (g : GrpIx) (k : SplitIx) (s : State) : Host.Outcome State Fault Refusal :=
  let s1 : State := { s.at t g with spl := k }
  if s1.splitFree k then
    match s1.grp.splits[k] with
    | some p =>
      if p.atBar.isNone && s1.arrived p then (if s1.splitErr k p then s1.laneTrap 0x100 none 0 else .next (s1.arriveChain k)) else s.wait
    | none => s.wait
  else s.wait

/-- The path entry that would be loaded holds an uncorrectable error (R149). -/
def State.badPath (s : State) : Bool :=
  match stackDown.find? fun i => s.owns i && s.loadable i with
  | some i => s.entryErr i
  | none => false

def execPathEntryLoad (t : TeamIx) (g : GrpIx) (s : State) : Host.Outcome State Fault Refusal :=
  let s1 := s.at t g
  if s1.laneFree then
    match s1.loadPath with
    | some s2 =>
      if s1.badPath then .next (s1.takeTrap { s1.record 0x100 with spc := s1.blockSpc } s1.grp.spc 0xFFFFFFFF none) else .next s2
    | none => s.wait
  else s.wait

end Sys2Proof.Machine
end

