-- ==== Sys2Proof/Machine/ScalarMem.lean ====
section
/-! DEFINITION. The scalar scratchpad words (spec/03 R62) and the start and end of lane blocks (R69-R71). -/

namespace Sys2Proof.Machine

/-- The address of a scalar scratchpad word. -/
def State.scalarAddr (s : State) (a : Reg) (imm : Word) : Nat := (s.sr a + imm).toNat

/-- The trap of a scalar scratchpad access of n bytes at an address, if it takes one (R62, spec/16 R318 cause 0x101). -/
def State.scalarAccessFault (s : State) (addr n : Nat) (load : Bool) : Option Cause :=
  match s.team.spadFault n addr n with
  | some c => some c
  | none => if load && poisoned s.team.spadPoison addr n then some 0x101 else none

/-- A scalar load of 4 or 8 bytes, single-copy atomic over its words; in a word that lanes have written it may find what stood there before (R63).
Rests on notes/assumptions 110 (DEDUCED). -/
def State.scalarLoad (s : State) (n : Nat) (a : Reg) (imm : Word) (len : Nat) (put : State → Nat → State) : Host.Outcome State Fault Refusal :=
  let addr := s.scalarAddr a imm
  match s.scalarAccessFault addr n true with
  | some c => s.scalarTrap c (BitVec.ofNat 64 addr) 0
  | none => .next ((put ((s.raceCheck addr n false s.grp.spc 0xFFFFFFFF 0xFF).noteLoad false [(addr, n)]) (s.spadLoad false addr n)).advance len)

/-- A scalar store of 4 or 8 bytes.
Rests on notes/assumptions 110 (DEDUCED). -/
def State.scalarStore (s : State) (n : Nat) (a : Reg) (imm : Word) (len : Nat) (v : Nat) : Host.Outcome State Fault Refusal :=
  let addr := s.scalarAddr a imm
  match s.scalarAccessFault addr n false with
  | some c => s.scalarTrap c (BitVec.ofNat 64 addr) 0
  | none => .next (((s.raceCheck addr n true s.grp.spc 0xFFFFFFFF 0xFF).storeWords false 0 [(addr, toBytes n v)]).advance len)

/-- SLDS, SLDS.d, SSTS and SSTS.d with the whole immediate. -/
def State.sldsImm (s : State) (d a : Reg) (imm : Word) (len : Nat) : Host.Outcome State Fault Refusal :=
  s.scalarLoad 4 a imm len fun s v => s.setSr d (BitVec.ofNat 32 v)

def State.sldsDImm (s : State) (d a : Reg) (imm : Word) (len : Nat) : Host.Outcome State Fault Refusal :=
  s.scalarLoad 8 a imm len fun s v => s.setSr64 d (BitVec.ofNat 64 v)

def State.sstsImm (s : State) (d a : Reg) (imm : Word) (len : Nat) : Host.Outcome State Fault Refusal := s.scalarStore 4 a imm len (s.sr d).toNat

def State.sstsDImm (s : State) (d a : Reg) (imm : Word) (len : Nat) : Host.Outcome State Fault Refusal := s.scalarStore 8 a imm len (s.sr64 d).toNat

def execSlds (d a : Reg) (i : BitVec 10) (s : State) : Host.Outcome State Fault Refusal := s.sldsImm d a (i.signExtend 32) 4

def execSldsD (d a : Reg) (i : BitVec 10) (s : State) : Host.Outcome State Fault Refusal := s.sldsDImm d a (i.signExtend 32) 4

def execSsts (d a : Reg) (i : BitVec 10) (s : State) : Host.Outcome State Fault Refusal := s.sstsImm d a (i.signExtend 32) 4

def execSstsD (d a : Reg) (i : BitVec 10) (s : State) : Host.Outcome State Fault Refusal := s.sstsDImm d a (i.signExtend 32) 4

/-! ## Lane blocks -/

/-- Applies a completed block's scalar results and flags (R71). -/
def Group.applyBlock (g : Group) (b : Block) : Group :=
  { g with sregs := b.results.foldl (fun r x => r.set x.1.toNat x.2) g.sregs, fflags := g.fflags ||| b.flags.zeroExtend 32,
           errs := mendErrs (fun e => b.results.any fun x => e == .sreg x.1) g.errs }

/-- The scalar registers that hold an uncorrectable error. -/
def Group.badRegs (g : Group) : List Reg := g.errs.filterMap fun e => match e with | .sreg r => some r | _ => none

/-- Starts a lane block after at most two are outstanding (R69). -/
def Group.queueBlock (g : Group) (d : Reg) (pc : Word) : Group :=
  { g with lticket := g.lticket + 1, sregs := g.sregs.set d.toNat (g.lticket + 1), errs := mendErrs (fun e => e == .sreg d) g.errs,
           blocks := g.blocks ++ [{ pc := pc, snap := g.sregs, snapErr := g.badRegs, en := g.trapen, ticket := g.lticket + 1, spc := g.spc, started := false, done := false,
                                    results := [], flags := 0 }] }

/-- LRUN with its whole immediate: with two blocks outstanding the older one completes and is applied first (R69). Handler mode starts no block (spec/16 R326). -/
def State.lrunImm (s : State) (d : Reg) (pc : Word) (len : Nat) : Host.Outcome State Fault Refusal :=
  if s.grp.handler then s.scalarTrap0 0x04D
  else match s.grp.blocks with
  | b :: c :: r =>
    if b.done then .next ((s.modGrp fun g => (({ g with blocks := c :: r } : Group).applyBlock b).queueBlock d pc).advance len) else s.wait
  | _ => .next ((s.modGrp fun g => g.queueBlock d pc).advance len)

def execLrun (d : Reg) (i : BitVec 10) (s : State) : Host.Outcome State Fault Refusal := s.lrunImm d (i.signExtend 32) 4

/-- A block that a ticket covers, in issue order up to the latest ticket (R71). -/
def Group.covers (g : Group) (t : Word) (b : Block) : Bool := decide ((g.lticket - t).toNat ≤ (g.lticket - b.ticket).toNat)

/-- Applies every block that a ticket covers, oldest first (R71). -/
def Group.applyCovered (g : Group) (t : Word) : Group :=
  let g1 := (g.blocks.filter fun b => g.covers t b).foldl (fun h b => h.applyBlock b) g
  { g1 with blocks := g.blocks.filter fun b => !g.covers t b }

/-- LWAIT: the scalar stream then sees every scratchpad access of the blocks (R63, R71). -/
def execLwait (a : Reg) (s : State) : Host.Outcome State Fault Refusal :=
  let t := s.sr a
  if s.grp.handler then s.scalarTrap0 0x04D
  else if 2 ^ 31 ≤ (s.grp.lticket - t).toNat then s.scalarTrap0 0x04A
  else if s.grp.blocks.all fun b => !s.grp.covers t b || b.done then
    .next (((s.modGrp fun g => g.applyCovered t).modTeam fun x => x.joinPast [(s.gix, true)] [(s.gix, false)]).advance 4)
  else s.wait

end Sys2Proof.Machine
end

