-- ==== Sys2Proof/Machine/ScalarControl.lean ====
section
/-! DEFINITION. Branches, calls, loops and the XIMM unit (spec/03 R67, R68, spec/02 R24). -/

namespace Sys2Proof.Machine

/-- A scalar guard: q and its sense (spec/02 R26, R28). -/
def State.guardQ (s : State) (g : BitVec 4) : Bool := s.qr (g.extractLsb' 0 3) != g.getLsbD 3

/-- The target of a 22-bit word offset. -/
def State.branchTarget (s : State) (o : BitVec 22) : Word := s.grp.spc + 4 * o.signExtend 32

def execSbr (g : BitVec 4) (o : BitVec 22) (s : State) : Host.Outcome State Fault Refusal :=
  if s.guardQ g then .next (s.jump (s.branchTarget o)) else .next (s.advance 4)

def execScall (g : BitVec 4) (o : BitVec 22) (s : State) : Host.Outcome State Fault Refusal :=
  if s.guardQ g then
    if s.grp.calls.length < 16 then .next ((s.modGrp fun x => { x with calls := (x.spc + 4) :: x.calls }).jump (s.branchTarget o))
    else s.scalarTrap0 0x048
  else .next (s.advance 4)

def execSjmp (a : Reg) (s : State) : Host.Outcome State Fault Refusal :=
  if (s.sr a).extractLsb' 0 2 = 0 then .next (s.jump (s.sr a)) else s.scalarTrap0 0x047

def execSret (s : State) : Host.Outcome State Fault Refusal :=
  match s.grp.calls with
  | [] => s.scalarTrap0 0x049
  | t :: r => .next ((s.modGrp fun x => { x with calls := r }).jump t)

def execSloop (d : Reg) (i : BitVec 10) (s : State) : Host.Outcome State Fault Refusal :=
  let v := s.sr d
  if v = 0 then .next (s.advance 4)
  else if v - 1 = 0 then .next ((s.setSr d 0).advance 4)
  else .next ((s.setSr d (v - 1)).jump (s.grp.spc + 4 * i.signExtend 32))

/-- The instruction in the word after the one at SPC, where it is one. -/
def State.partner (s : State) : Option Instr :=
  match s.scalarWord (s.grp.spc + 4) with
  | none => none
  | some w => match decodeScalar w with | .ok i => some i | .error _ => none

/-- An XIMM and its partner as one unit (spec/02 R24). The stream hands over an XIMM alone only where the pair decodes, so the last arm stands for the
same pair judged at the fetch.
Rests on notes/assumptions 16 (DEDUCED). -/
def execXimm (i : BitVec 22) (s : State) : Host.Outcome State Fault Refusal :=
  match s.partner with
  | some (.saddi d a lo) => s.addImm d a (i ++ lo) 8
  | some (.slds d a lo) => s.sldsImm d a (i ++ lo) 8
  | some (.sldsD d a lo) => s.sldsDImm d a (i ++ lo) 8
  | some (.ssts d a lo) => s.sstsImm d a (i ++ lo) 8
  | some (.sstsD d a lo) => s.sstsDImm d a (i ++ lo) 8
  | some (.lrun d lo) => s.lrunImm d (i ++ lo) 8
  | _ => s.scalarTrap0 0x042

end Sys2Proof.Machine
end

