-- ==== Sys2Proof/Machine/Upset.lean ====
section
/-! DEFINITION. Uncorrectable errors in registers, predicates, latches, split state and queue state: where they strike, which word reads them, and the
cause that the word raises (spec/16 R318 causes 0x100 and 0x103, spec/18 R366). -/

namespace Sys2Proof.Machine

/-! ## What a scalar word reads -/

/-- The q predicate of a scalar guard, where it is one. -/
def guardReads (g : BitVec 4) : List (BitVec 3) := [g.extractLsb' 0 3]

/-- The scalar registers and q predicates that a scalar word reads, from the operand columns of the scalar chapters (spec/03, 09-17). -/
def scalarReads (i : Instr) : List Reg × List (BitVec 3) :=
  match i with
  | .sadd _ a b | .ssub _ a b | .smul _ a b | .smulh _ a b | .smin _ a b | .smax _ a b | .sminN _ a b | .smaxN _ a b | .sand _ a b | .sor _ a b
  | .sxor _ a b | .smulhN _ a b | .sshl _ a b | .sshr _ a b | .ssra _ a b | .sbfe _ a b | .sbfeI _ a b => ([a, b], [])
  | .smov _ a | .sclz _ a | .spopc _ a => ([a], [])
  | .scmpEq _ a b | .scmpNe _ a b | .scmpLt _ a b | .scmpLe _ a b | .scmpLtN _ a b | .scmpLeN _ a b => ([a, b], [])
  | .sselQ0Q3 _ a b k => ([a, b], [k.zeroExtend 3])
  | .sselQ4Q7 _ a b k => ([a, b], [k.zeroExtend 3 + 4])
  | .sad64 _ a b => (regRun a 2 ++ [b], [])
  | .smad64 d a b => (regRun a 2 ++ [b, d], [])
  | .sbfi d a b => ([a, b, d], [])
  | .saddi _ a _ | .slds _ a _ | .sldsD _ a _ => ([a], [])
  | .ssts d a _ => ([a, d], [])
  | .sstsD d a _ => (a :: regRun d 2, [])
  | .slui d _ => ([d], [])
  | .sbr g _ | .scall g _ => ([], guardReads g)
  | .sjmp a | .lwait a | .cwait a | .ccncl a | .mpri a | .cncl a | .swr a _ | .swrp a _ | .pmark a | .race a => ([a], [])
  | .sloop d _ => ([d], [])
  | .cten d _ | .cgth d _ | .csct d _ | .cpack d _ | .cunpk d _ | .cfill d _ => (regRun d 8, [])
  | .crows a b => ([a, b], [])
  | .cstat _ a | .ptest _ a | .cntr _ a | .pcnt _ a => ([a], [])
  | .hclaim a _ => (regRun a 4, [])
  | .hdrain d _ => (regRun d 4, [])
  | .mma d .. | .mmas d .. => (regRun d 2, [])
  | .mmaSpec d .. | .mmasSpec d .. => (regRun d 2, [])
  | .mout d .. => ([d], [])
  | .moutS d _ b => ([d, b], [])
  | .tshape d _ => (regRun d 2, [])
  | .pbind d a n => (a :: regRun d (2 * (n.toNat + 1)), [])
  | .pacqGe a b | .pacqEq a b | .pacqNe a b | .prelAdd a b | .prelSet a b | .rcomb a b => (a :: regRun b 2, [])
  | .waitaGe _ a b | .waitaEq _ a b | .waitaNe _ a b => (regRun a 2 ++ regRun b 2, [])
  | .lnch a | .twait a => (regRun a 2, [])
  | .spresize _ a => ([a], [])
  | _ => ([], [])

/-- The words of the scalar unit in hand: an XIMM and its partner read together (spec/02 R24). -/
def State.unitReads (s : State) (i : Instr) : List Reg × List (BitVec 3) :=
  match i with
  | .ximm _ => (match s.partner with | some j => scalarReads j | none => ([], []))
  | _ => scalarReads i

/-- The cause that an uncorrectable error raises in the scalar word that would issue, if it reads one (spec/16 R318).
Rests on notes/assumptions 26 (DEDUCED). -/
def State.scalarErr (s : State) (i : Instr) : Option Cause :=
  if s.grp.errs.isEmpty && s.team.errs.isEmpty then none
  else
    let r := s.unitReads i
    if s.grp.errs.any fun e => match e with | .sreg x => r.1.contains x | .qreg q => r.2.contains q | _ => false then some 0x100
    else
      match i with
      | .crows a _ => if s.team.errs.contains (.rowCnt (s.sr a).toNat) then some 0x103 else none
      | _ => none

/-! ## Where an error strikes -/

/-- The form in which a home slice stores the 256 bytes of a line under a codec (spec/11 R230).
Rests on notes/assumptions 8 (DEDUCED). -/
def storedForm (codec : Nat) (b : List Byte) : List Byte :=
  let sector (l : List Byte) : List Byte := l ++ List.replicate ((64 - l.length % 64) % 64) 0
  match codec with
  | 1 => (List.range 4).flatMap fun k => let x := (b.drop (64 * k)).take 64; if x.all fun y => y == 0 then [] else x
  | 2 =>
    let elems := (List.range 128).map fun i => (b.drop (2 * i)).take 2
    let full := elems.filter fun x => x.any fun y => y != 0
    let mask := (List.range 16).map fun i => BitVec.ofNat 8 (((elems.drop (8 * i)).take 8).foldr (fun x n => 2 * n + if x.any fun y => y != 0 then 1 else 0) 0)
    if full.length ≤ 88 then sector (mask ++ full.flatten) else b
  | _ => b

/-- The 64-byte sectors that a line takes in its stack under a codec (spec/11 R230). -/
def storedSectors (codec : Nat) (b : List Byte) : Nat := (storedForm codec b).length / 64

/-- Poisons n bytes at home. -/
def State.poisonHome (s : State) (a n : Nat) : State :=
  let ws := (List.range n).map fun i => a + i
  { s with memPoison := s.memPoison ++ ws.filter fun x => !s.memPoison.contains x && decide (x < devBytes) }

/-- A place that holds state: p7 and q7 always read true (spec/02 R25, spec/03 R56), and a pool entry lies in the scratchpad (spec/07 R134).
Rests on notes/assumptions 26 (DEDUCED). -/
def ErrAt.holds : ErrAt → Bool
  | .pred k _ => decide (k < 7)
  | .qreg q => q != 7
  | .stack j => decide (j < 16)
  | _ => true

/-- An uncorrectable error strikes (spec/18 R366): state that only a word or a pass reads is marked; a scratchpad word, a 64-bit tile word, a 32-bit word of
an L1, 32 bytes of a die's far copies, and a 32-byte sector of device memory are poisoned. An error in a sector that a compressed line stores, or in its
metadata, poisons the whole line (spec/11 R231).
Rests on notes/assumptions 8 (DEDUCED), 26 (DEDUCED). -/
def State.upset (s : State) (u : Upset) : State :=
  let mod (t : TeamIx) (f : Team → Team) : State := { s with teams := s.teams.set t (f s.teams[t]) }
  match u with
  | .group t g e => if e.holds then mod t fun x => { x with groups := x.groups.set g { x.groups[g] with errs := e :: x.groups[g].errs } } else s
  | .team t e => mod t fun x => { x with errs := e :: x.errs }
  | .spad t a => mod t fun x => { x with spadPoison := poisonMark x.spadPoison a 1 }
  | .tile t n off => mod t fun x =>
      if h : n < 32 then { x with tiles := x.tiles.set n { x.tiles[n] with poison := poisonMark x.tiles[n].poison (off - off % 8) 8 } } else x
  | .acc t a sh => mod t fun x =>
      { x with accs := x.accs.set a (if sh then { x.accs[a] with serr := true } else { x.accs[a] with err := true }) }
  | .memory pa =>
    let whole := 256 * (pa / 256)
    if s.lineCodec pa = 0 then s.poisonHome (32 * (pa / 32)) 32
    else if pa % 256 / 64 < storedSectors (s.lineCodec pa) (Memory.readBytes s.mem whole 256) then s.poisonHome whole 256
    else s
  | .lineTag line => if s.lineCodec (256 * line) = 0 then s else s.poisonHome (256 * line) 256
  | .l1 c pa => s.modCore c fun x => { x with l1 := x.l1.map fun b => if b.pa / 4 == pa / 4 then { b with pois := true } else b }
  | .far d pa => s.modDie d fun x => { x with far := x.far.map fun b => if b.pa / 32 == pa / 32 then { b with pois := true } else b }

end Sys2Proof.Machine
end

