-- ==== Sys2Proof/Machine/Pick.lean ====
section
/-! DEFINITION. Who moves in a step and with what (spec/15 R313, R314): the schedule's head, or a fixed order when the schedule is empty; and what the
step keeps around the instruction it runs. -/

namespace Sys2Proof.Machine

/-- The partition of the team in hand is halting for a switch (spec/16 R331, R336). -/
def State.halting (s : State) : Bool := match s.parts.toList[s.team.part]? with | some p => p.st == 2 && !p.swapped | none => false

/-- A group whose streams may issue: resident, not stopped, on a die that is up and not relocking (spec/15 R312, spec/16 R325). -/
def State.issues (s : State) : Bool := s.team.live && s.grp.phase == .running && s.die.up && s.die.relock.isNone

/-- A pending trap or a requested stop that the group in hand takes now; a LNCH whose body the hub has read is not interrupted (spec/15 R305).
Rests on notes/assumptions 97 (DEDUCED). -/
def State.interrupted (s : State) : Bool := s.grp.deliverable && !s.draining && s.grp.lnch.isNone

/-- A pending trap or a requested stop that waits for the open chain: the scalar stream holds at its issue boundary (spec/16 R324, R326).
Rests on notes/assumptions 97 (DEDUCED). -/
def State.holding (s : State) : Bool := s.grp.wantsTrap && s.grp.chain.isSome && !s.draining && s.grp.lnch.isNone

/-- The instruction that the scalar stream of the group in hand runs next; a pending trap or a requested stop comes first. While its partition halts,
only a LNCH whose body the hub has read, a HREL and a HSTAT go on (spec/09 R188). A word that reads an uncorrectable error is trapped in its place (spec/16 R318).
Rests on notes/assumptions 26 (DEDUCED). -/
def State.scalarPick (s : State) : Option Instr :=
  if s.issues && !s.holding && (!s.halting || s.grp.lnch.isSome || s.tableWork) then
    if s.interrupted then some (.asyncTrapDelivery s.cur s.gix)
    else
      match s.scalarErr s.scalarInstr with
      | some c => some (.nonInstructionWord false c 0)
      | none => some s.scalarInstr
  else none

/-- The quarter of the core that a group's lane words use (spec/01 R12). -/
def State.quarter (s : State) : Fin 4 := Fin.ofNat 4 (s.team.slot s.gix)

/-- Another group has a chain open in the quarter of the group in hand: its words issue first (spec/04 R92). A hash word between its steps holds no
quarter (spec/09 R181).
Rests on notes/assumptions 106 (DEDUCED). -/
def State.slotHeld (s : State) : Bool :=
  match s.core.held[s.quarter] with
  | none => false
  | some (t, g) =>
    !(t == s.cur && g == s.gix) && s.teams[t].live && s.teams[t].core == s.team.core &&
    (match s.teams[t].groups[g].chain with | some c => c.hash.isNone | none => false)

/-- Notes which group holds the quarter in hand after a lane word (spec/04 R92); a resolution holds it no longer. -/
def State.holdQuarter (s : State) : State :=
  let v := if s.grp.chain.isSome then some (s.cur, s.gix) else none
  if s.core.held[s.quarter] = v ∧ s.core.resolving[s.quarter] = none then s
  else s.modCore s.team.core fun c => { c with held := c.held.set s.quarter v, resolving := c.resolving.set s.quarter none }

/-- The hash word of split k that is between its steps. -/
def Group.hashOf (g : Group) (k : SplitIx) : Option HashProg := (g.hashChains.find? fun c => c.split == k).bind fun c => c.hash

/-- The next lane word of split p of the group in hand: the hash word whose steps go on, or the word at its lane PC; a broken chain rule and an
uncorrectable error in what it reads come first (spec/02 R32, spec/16 R318).
Rests on notes/assumptions 26 (DEDUCED), 106 (DEDUCED). -/
def State.laneNext (s : State) (k : SplitIx) (p : Split) : Instr :=
  match s.grp.hashOf k with
  | some q => q.instr
  | none =>
    let i := s.laneInstrAt p.lpc
    if s.grp.chainFault i then .nonInstructionWord true 0x007 0
    else match s.laneErrOf k i with
      | some (c, _) => .nonInstructionWord true c 0
      | none => i

/-- A LNCH of the group has re-armed its counter and waits for the pool: it is not interrupted (spec/15 R305). -/
def Group.launching (g : Group) : Bool := match g.lnch with | some (_, some _) => true | _ => false

/-- A lane hash word. -/
def isHashWord (i : Instr) : Bool := match i with | .hins _ => true | .hprb _ => true | .hdel _ => true | .hacc _ => true | _ => false

/-- A hash word of split k may begin while another split's is between its steps (spec/09 R181): not under a trap, a stop or a switch that waits for the group.
Rests on notes/assumptions 38 (DEDUCED). -/
def State.mayJoin (s : State) (k : SplitIx) (p : Split) : Bool :=
  (s.grp.park k).chain.isNone && !s.grp.wantsTrap && !s.halting && !s.grp.stepping && !s.arrived p && isHashWord (s.laneNext k p)

/-- The instruction that split k of the group in hand runs next (spec/07 R133, spec/02 R32, spec/16 R326). A split that waits at a barrier, another
split's open chain and another group's open chain in the quarter leave it none; while its partition halts only an open chain goes on. Its join is
compared before every word, in a chain too. Hash words of several splits may be between their steps together.
Rests on notes/assumptions 106 (DEDUCED), 107 (DEDUCED). -/
def State.lanePick (s : State) (k : SplitIx) : Option Instr :=
  if s.issues && !s.grp.handler && s.grp.block.isSome && (!s.halting || s.grp.chain.isSome) && !s.grp.launching then
    match s.grp.splits[k] with
    | none => none
    | some p =>
      if s.interrupted then some (.asyncTrapDelivery s.cur s.gix)
      else if (s.grp.hashOf k).isSome then some (s.laneNext k p)
      else if p.atBar.isSome || (match s.grp.chain with | some c => c.split != k && !s.mayJoin k p | none => false) then none
      else if s.arrived p then some (if s.splitErr k p then .nonInstructionWord true 0x100 0 else .splitArrival s.cur s.gix k)
      else if s.slotHeld then none
      else some (s.laneNext k p)
  else none

/-- True for a step of an engine, the hub or the outside: an instruction that has no word.
Rests on notes/assumptions 21 (DESIGN CHOICE). -/
def isEvent (i : Instr) : Bool :=
  match i with
  | .nonInstructionWord .. => false
  | _ => (encode i).isNone

/-- Takes the actor's stream in hand and finds what it runs; the lane predicates that a lane word reads are pending no more (spec/07 R145).
Rests on notes/assumptions 3 (DESIGN CHOICE), 21 (DESIGN CHOICE). -/
def State.choose (s : State) (a : Act) : State × Option Instr :=
  match a with
  | .scalar t g => (s.at t g, (s.at t g).scalarPick)
  | .lane t g k => (({ s.at t g with spl := k } : State).readPreds (({ s.at t g with spl := k } : State).lanePick k), ({ s.at t g with spl := k } : State).lanePick k)
  | .event i => (s, if isEvent i then some i else none)
  | .outer _ => (s, none)
  | .slot .. => (s, none)

/-- The splits of a group in rank order (spec/07 R131). -/
def Group.byRank (g : Group) : List SplitIx :=
  (List.range 4).flatMap fun r => (List.finRange 4).filter fun k => match g.splits[k] with | some p => p.rank == r | none => false

/-- The engine's and the matrix engine's steps for the team in hand. -/
def Team.engineActs (t : Team) (ix : TeamIx) : List Act :=
  ((t.cmds.filter Cmd.live).flatMap fun c => [.event (.copyElementTranslate ix c.gix c.seq { useTlb := true, useCache := true }), .event (.translationFault ix c.gix c.seq),
                            .event (.copyRowLanded ix c.gix c.seq), .event (.commandEnd ix c.gix c.seq)]) ++
  (t.reqs.flatMap fun r => [.event (.matrixPass ix r.age), .event (.mzeroStep ix r.age), .event (.moutStep ix r.age)])

/-- What the fixed order tries in turn while the schedule is empty (notes/assumptions/3.md): a relock that is over ends; then the group in hand, its splits, its blocks, then the engines
of its team, the other groups, the hub's answers, what leaves the caches, and the other teams.
Rests on notes/assumptions 3 (DESIGN CHOICE). -/
def State.candidates (s : State) : List Act :=
  let t := s.cur
  let g := s.gix
  (((List.finRange 4).filter fun d => s.dies[d].relock == some 0).map fun d => .event (.relockEnd d)) ++
  [.scalar t g] ++ (s.grp.byRank.map fun k => .lane t g k) ++
  [.event (.laneBlockStart t g), .event (.pathEntryLoad t g), .event (.waitaMonitorSatisfied t g), .event (.pacqSatisfied t g)] ++
  s.team.engineActs t ++
  (((List.finRange 16).filter fun h => h != g && s.team.groups[h].phase == .running).flatMap fun h =>
    .scalar t h :: (s.team.groups[h].byRank.map fun k => .lane t h k) ++ [.event (.laneBlockStart t h), .event (.pathEntryLoad t h)]) ++
  [.event (.recordWrite s.team.ctx false), .event (.recordWrite s.team.ctx true), .event (.teamRetire t)] ++
  (s.outgoing.map fun o => .event (.cacheWriteBack (.l1 o.src) (o.byte.pa / 64))) ++
  (if s.homeRed.isEmpty then [] else [.event (.homeReduction { i := 0, more := [], order := [] })]) ++
  (((List.finRange 10240).filter fun u => u != t && s.teams[u].live).flatMap fun u =>
    s.teams[u].engineActs u ++ (((List.finRange 16).filter fun h => s.teams[u].groups[h].phase == .running).flatMap fun h =>
      .scalar u h :: (s.teams[u].groups[h].byRank.map fun k => .lane u h k) ++ [.event (.laneBlockStart u h), .event (.pathEntryLoad u h)]) ++
    [.event (.teamRetire u)]) ++
  (s.launches.map fun l => .event (.launchComplete l.id))

/-- The turn that comes next and the schedule after it.
Rests on notes/assumptions 3 (DESIGN CHOICE), 63 (DEDUCED). -/
def State.nextTurn (s : State) : Turn × List Turn :=
  match s.sched with
  | x :: r => (x, r)
  | [] =>
    let a := match s.candidates.find? fun a => !s.stalled.contains a with | some a => a | none => .scalar s.cur s.gix
    ({ ticks := 1, act := a }, [])

/-- The state in which the turn's actor runs: time has passed, the schedule has moved on.
Rests on notes/assumptions 3 (DESIGN CHOICE), 99 (DESIGN CHOICE). -/
def State.begin (s : State) (x : Turn) (rest : List Turn) : State :=
  { (s.elapse x.ticks).endCompletions with sched := rest, tick := s.tick + 1, blocked := false }

/-- The place of a stream among the contenders of its group (spec/15 R313): the scalar stream, then the splits.
Rests on notes/assumptions 63 (DEDUCED). -/
def contender (k : Option SplitIx) : Fin 5 := match k with | none => 0 | some k => k.succ

/-- The split that an actor runs. -/
def Act.split : Act → Option SplitIx
  | .lane _ _ k => some k
  | _ => none

/-- A stream has moved: it is promoted no longer and has issued now (spec/15 R313), its team no longer waits on faults alone (spec/10 R214), and
its matrix requests may have become eligible (spec/14 R280).
Rests on notes/assumptions 63 (DEDUCED), 66 (DEDUCED). -/
def State.moved (s : State) (k : Option SplitIx) : State :=
  let s1 := if s.core.promoted.isEmpty then s else s.modCore s.team.core fun x => { x with promoted := x.promoted.filter fun y => y != (s.cur, s.gix, k) }
  let s2 := s1.modGrp fun g => { g with lastIssue := g.lastIssue.set (contender k) s.die.ccyc, guessed := if k.isSome then none else g.guessed }
  let s2 := if s2.team.reqs.isEmpty then s2 else s2.modTeam fun t => t.stamp s2.die.ccyc
  if s2.team.waitSince.isSome then s2.modTeam fun t => { t with waitSince := none } else s2

/-- A team's requests that may have become eligible (spec/14 R280): a predicate has resolved.
Rests on notes/assumptions 44 (DEDUCED). -/
def State.restamp (s : State) (t : TeamIx) : State :=
  let x := s.teams[t]
  if x.reqs.isEmpty then s else { s with teams := s.teams.set t (x.stamp s.dies[dieOf x.core].ccyc) }

/-- The scalar word of the group in hand takes further steps: a HCLAIM, an HDRAIN, a HREL, or a LNCH in progress (spec/09 R172, R187, spec/15 R305). -/
def State.midWord (s : State) : Bool := s.grp.claim.isSome || s.draining || s.grp.lnch.isSome || s.grp.fence.isSome

/-- What an instruction counts as under single step: the arrival of a split at its join issues nothing (spec/17 R351, spec/07 R133). -/
def isUnit (i : Instr) : Bool := match i with | .splitArrival .. => false | _ => true

/-- After the instruction: a group under single step stops once a unit has completed (spec/17 R351), a team whose group took a trap no longer waits on
faults alone (spec/10 R214), and waiting actors are remembered until something moves.
Rests on notes/assumptions 3 (DESIGN CHOICE), 66 (DEDUCED), 74 (DEDUCED), 99 (DESIGN CHOICE). -/
def State.settle (s : State) (a : Act) (unit : Bool) : State :=
  if s.blocked then { s with stalled := if s.stalled.contains a then [] else a :: s.stalled }
  else
    let s1 : State := { s with stalled := [] }
    match a with
    | .event (.asyncTrapDelivery t _) => if s1.teams[t].waitSince.isSome then { s1 with teams := s1.teams.set t { s1.teams[t] with waitSince := none } } else s1
    | .event (.waitaMonitorSatisfied t _) => s1.restamp t
    | .event (.replyRetry ..) | .event (.replyFail ..) => (s1.teamsOf fun _ => true).foldl State.restamp s1
    | .event _ => s1
    | .outer _ => s1
    | .slot .. => s1
    | _ =>
      let s1 := s1.moved a.split
      let s1 := if a.split.isSome then s1.holdQuarter else s1
      if s1.grp.stepping && unit && s1.grp.chain.isNone && !s1.midWord && s1.grp.phase == .running then
        (s1.modGrp fun g => { g with stepping := false }).takeTrap (s1.record 0x052) s1.grp.spc 0xFFFFFFFF none
      else s1

end Sys2Proof.Machine
end

