-- ==== Sys2Proof/Machine/HostRead.lean ====
section
/-! DEFINITION. What a host read of a BAR returns (spec/18 R354-R356, R365, R367, R369, R370, R371, spec/15 R291, R298, R312, spec/13 R266). -/

namespace Sys2Proof.Machine

/-! ## Records as they read -/

/-- The 32 bytes of a queue descriptor (spec/15 R291). -/
def Queue.bytes (x : Queue) : List Byte :=
  toBytes 8 x.ring.toNat ++ [BitVec.ofNat 8 x.log2n, BitVec.ofNat 8 x.state] ++ toBytes 2 x.ctx.toNat ++ toBytes 4 0 ++ toBytes 8 x.ridxa.toNat ++ toBytes 8 0

/-- The 64 bytes of a counter record (spec/15 R298). -/
def Counter.bytes (x : Counter) : List Byte :=
  toBytes 4 x.count.toNat ++ toBytes 4 x.target.toNat ++ toBytes 2 x.parent.toNat ++ [x.level, x.act] ++ toBytes 2 x.msix.toNat ++ toBytes 2 x.pen.toNat ++
  toBytes 8 x.waddr.toNat ++ toBytes 8 x.wval.toNat ++ [x.status, x.scope] ++ toBytes 6 0 ++ toBytes 8 x.retired.toNat ++ toBytes 8 x.done.toNat ++ toBytes 8 0

/-- The 256 bytes of a partition record (R365). -/
def Partition.bytes (x : Partition) : List Byte :=
  toBytes 8 x.clmask.toNat ++ toBytes 2 x.ctx.toNat ++
  [BitVec.ofNat 8 x.st, (if x.sealed then 1 else 0) + (if x.sealack then 2 else 0) + (if x.scrub then 4 else 0), BitVec.ofNat 8 x.shadow] ++ toBytes 19 0 ++
  (x.ranges.flatMap fun r => toBytes 8 r.1 ++ toBytes 8 r.2) ++ toBytes 96 0

/-- The 1,024 bytes of a die's step log: the record with step number SEQ lies in entry SEQ - 1, modulo 64 (spec/15 R312).
Rests on notes/assumptions 72 (DESIGN CHOICE). -/
def DieSt.stepLog (d : DieSt) : List Byte :=
  (List.range 64).flatMap fun i => match d.steps.find? fun r => (r.seq.toNat + 63) % 64 == i with | some r => r.bytes | none => toBytes 16 0

/-- Byte i of a record. -/
def byteOf (l : List Byte) (i : Nat) : Byte := l.getD i 0

/-- A free byte of a register that the spec only writes.
Rests on notes/assumptions 73 (DESIGN CHOICE). -/
def State.openByte (s : State) (off : Nat) : Byte := Config.windowByte s.tick off

/-! ## The windows (R355) -/

/-- A byte of the management window; an offset that R355 does not list reads zero.
Rests on notes/assumptions 72 (DESIGN CHOICE). -/
def State.mgmtByte (s : State) (a : Nat) : Byte :=
  let m := s.mgmt
  if a < 8 then byteOf (toBytes 8 m.ready0.toNat) a
  else if a < 16 then byteOf (toBytes 8 m.ready1.toNat) (a - 8)
  else if a < 0x14 then byteOf (toBytes 4 m.service.toNat) (a - 0x10)
  else if 0x20 ≤ a ∧ a < 0x28 then byteOf (toBytes 8 m.filtered.toNat) (a - 0x20)
  else if 0x100 ≤ a ∧ a < 0x104 then byteOf (toBytes 4 m.tdp.toNat) (a - 0x100)
  else if 0x200 ≤ a ∧ a < 0x220 then byteOf (m.subst.toList.flatMap fun x => toBytes 8 x.toNat) (a - 0x200)
  else if 0x1000 ≤ a ∧ a < 0x9000 then
    let c : CtxIx := Fin.ofNat 256 ((a - 0x1000) / 128)
    byteOf (toBytes 128 s.ctxs[c].raw.toNat) ((a - 0x1000) % 128)
  else if 0x10000 ≤ a ∧ a < 0x11000 then
    let d : DieIx := Fin.ofNat 4 ((a - 0x10000) / 1024)
    byteOf s.dies[d].stepLog ((a - 0x10000) % 1024)
  else if 0x20000 ≤ a ∧ a < 0x21000 then
    let p : Fin 16 := Fin.ofNat 16 ((a - 0x20000) / 256)
    byteOf s.parts[p].bytes ((a - 0x20000) % 256)
  else if 0x30000 ≤ a ∧ a < 0x30004 then byteOf (toBytes 4 m.bootErr.toNat) (a - 0x30000)
  else if 0x30100 ≤ a ∧ a < 0x30200 then byteOf (m.mpGrants.flatMap fun r => toBytes 8 r.1 ++ toBytes 8 r.2) (a - 0x30100)
  else if 0x30000 ≤ a ∧ a < 0x40000 then s.openByte a
  else if 0x40000 ≤ a ∧ a < 0x40200 then byteOf (m.routes.toList.flatMap fun x => toBytes 2 x.toNat) (a - 0x40000)
  else 0

/-- A byte of a context's window; an offset that R355 does not list reads zero.
Rests on notes/assumptions 73 (DESIGN CHOICE). -/
def State.ctxByte (s : State) (c : CtxIx) (a : Nat) : Byte :=
  let x := s.ctxs[c]
  if a < 8 ∨ (0x10 ≤ a ∧ a < 0x20) ∨ (0x40 ≤ a ∧ a < 0x50) then s.openByte a
  else if a = 0x20 then (if x.invDone then 1 else 0) + (if x.invErr then 2 else 0)
  else if a = 0x30 then (if x.dsen then 1 else 0) + (if x.stepOn then 2 else 0)
  else if 0x80 ≤ a ∧ a < 0x84 then byteOf (toBytes 4 x.shapeIx) (a - 0x80)
  else if 0xC0 ≤ a ∧ a < 0x100 then byteOf (toBytes 64 x.shapeBuf.toNat) (a - 0xC0)
  else if a = 0x100 then x.ringBad.zeroExtend 8
  else 0

/-- A byte at an offset of BAR0, and whether the function may reach it: the windows beside the management window answer once HUB is set, and a VF reaches
what its contexts own (R354-R356, R370). -/
def State.barByte (s : State) (f : Func) (a : Nat) : Byte × Bool :=
  let own (o : Option CtxIx) (b : Byte) : Byte × Bool := if !s.hubUp then (0, true) else if s.mayAccess f o then (b, true) else (0, false)
  if a < 0x100000 then (if f.val = 0 then (s.mgmtByte a, true) else (0, false))
  else if a < 0x102000 then
    let q : QueueIx := Fin.ofNat 256 ((a - 0x100000) / 32)
    own (s.queueCtx q) (byteOf s.queues[q].bytes ((a - 0x100000) % 32))
  else if 0x200000 ≤ a ∧ a < 0x240000 then
    let k : Nat := (a - 0x200000) / 64
    own (s.owner .counters k) (byteOf (s.counter k).bytes ((a - 0x200000) % 64))
  else if 0x300000 ≤ a ∧ a < 0x302000 then
    let k : Fin 256 := Fin.ofNat 256 ((a - 0x300000) / 32)
    own (s.owner .slots k.val) (byteOf (toBytes 32 s.slots[k].raw) ((a - 0x300000) % 32))
  else if 0x400000 ≤ a ∧ a < 0x500000 then
    let c : CtxIx := Fin.ofNat 256 ((a - 0x400000) / 4096)
    own (some c) (s.ctxByte c ((a - 0x400000) % 4096))
  else (0, f.val = 0)

/-- A byte at an offset of BAR2, a doorbell's. -/
def State.doorbellByte (s : State) (f : Func) (a : Nat) : Byte × Bool :=
  let q : QueueIx := Fin.ofNat 256 (a / 4096)
  if !s.hubUp then (0, true) else if s.mayAccess f (s.queueCtx q) then (s.openByte a, true) else (0, false)

/-- A host read of n bytes: what it may not reach reads zero and is counted once (R356).
Rests on notes/assumptions 73 (DESIGN CHOICE). -/
def State.hostRead (s : State) (f : Func) (bar off n : Nat) : State :=
  let l := (List.range n).map fun i => if bar = 2 then s.doorbellByte f (off + i) else s.barByte f (off + i)
  let s1 := if l.all fun x => x.2 then s else s.filtered
  { s1 with mgmt := { s1.mgmt with hostData := l.map fun x => x.1 } }

/-- The n-th key left of the hash word of the split in hand is stepped next: its word issues, or goes on (spec/09 R181).
Rests on notes/assumptions 38 (DEDUCED). -/
def State.hashKey (s : State) (n : Nat) (i : Instr) : Host.Outcome State Fault Refusal :=
  match i with
  | .hins w => s.hashWordAt n 0x1C0 .ins w
  | .hprb w => s.hashWordAt n 0x1C1 .prb w
  | .hdel w => s.hashWordAt n 0x1C2 .del w
  | .hacc w => s.hashWordAt n 0x1C3 (.acc (w.sub.extractLsb' 0 2).toNat) w
  | _ => s.wait

/-- The actor's choice of a key, as the split's own turn but for the key. -/
def State.keyTurn (s : State) (t : TeamIx) (g : GrpIx) (k : SplitIx) (n : Nat) : State :=
  let x := s.choose (.lane t g k)
  match x.2 with
  | none => s
  | some i =>
    match x.1.hashKey n i with
    | .next s2 => if s2.blocked then s else s2.settle (.lane t g k) true
    | _ => s

/-- What happens to the machine without an instruction.
Rests on notes/assumptions 68 (DEDUCED), 79 (DEDUCED), 83 (DESIGN CHOICE), 86 (DEDUCED). -/
def State.outerStep (s : State) (o : Outer) : State :=
  match o with
  | .upset u => s.upset u
  | .hostRead f bar off n => if s.mgmt.fuses.host then s.hostRead f bar off n else s
  | .timeSource src steps => s.modMgmt fun m => { m with timeSrc := src, timeSteps := steps }
  | .msixMask f v on => if v < (if f.val = 0 then 2048 else 64) then s.modMgmt fun m => m.setMask (f.val, v) on else s
  | .vfEnable k on => s.modMgmt fun m => { m with vfOn := if on then m.vfOn ||| (1 : BitVec 16) <<< k.val else m.vfOn &&& ~~~((1 : BitVec 16) <<< k.val) }
  | .inboundGrant i g => s.modMgmt fun m => { m with grants := m.grants.set i g }
  | .hashKey t g k n => s.keyTurn t g k n
  | .corrected u => s.modMgmt fun m => { m with corrected := m.corrected.set u (m.corrected[u] + 1) }

/-- A write or a mailbox request of the host, which comes over the host port (R353-R355). -/
def fromHost (i : Instr) : Bool :=
  match i with
  | .queueDoorbell .. | .queueStateWrite .. | .counterTargetWrite .. | .slotRecordWrite .. | .shapeEntryCommit .. | .contextDescriptorWrite .. | .invalidation ..
  | .ringStatusClear .. | .stopRequest .. | .resumeCommand .. | .replyRetry .. | .replyFail .. | .serviceClear .. | .tdpWrite .. | .partitionSeal ..
  | .measurementExtend .. | .quoteRequest .. | .registerWrite .. | .barAtomicop .. => true
  | _ => false

/-- The host port is fused off: nothing comes over it (R363).
Rests on notes/assumptions 119 (DESIGN CHOICE). -/
def State.shutOut (s : State) (a : Act) : Bool :=
  match a with
  | .event i => !s.mgmt.fuses.host && fromHost i
  | _ => false

end Sys2Proof.Machine
end

