-- ==== Sys2Proof/Machine/Load.lean ====
section
/-! DEFINITION. The load that withFetchWord stands for (notes/assumptions/4.md): a context with a page table of one 64 KiB page, a loaded code object, a
resident team with one running group, and one word of text. -/

namespace Sys2Proof.Machine

/-- The physical addresses of the four tables of the one-page context, 64 KiB apart, and of its page. -/
def loadTable (level : Nat) : Nat := 0x10000 * level
def loadPage : Nat := 0x50000

/-- The page-table entries of the one-page context: three pointers and a 64 KiB leaf with READ and WRITE rights, homed on D0 (spec/10 R211). -/
def loadEntries : List (Nat × Nat) :=
  [(loadTable 1, loadTable 2 + 1), (loadTable 2, loadTable 3 + 1), (loadTable 3, loadTable 4 + 1), (loadTable 4, loadPage + 0x27)]

/-- The device memory that holds the tables.
Rests on notes/assumptions 4 (DESIGN CHOICE). -/
def loadMem (m : Mem) : Mem := loadEntries.foldl (fun m e => Memory.writeLe m e.1 8 e.2) m

/-- A valid descriptor whose page table is at table 1 and whose lane code space is at virtual address 0 (spec/16 R329). -/
def loadCtx (c : Ctx) : Ctx := { c with raw := BitVec.ofNat 1024 (loadTable 1), valid := true }

/-- The code object: 64 scalar bytes at virtual address 0x1000 and 16 lane words from lane PC 0.
Rests on notes/assumptions 4 (DESIGN CHOICE). -/
def loadObj (o : Obj) : Obj := { o with stext := 0x1000, ssize := 64, lbase := 0, lwords := 16 }

/-- The team in hand runs the object in context 0 and partition 0; its group in hand runs at SPC 0 with no chain open and nothing pending.
Rests on notes/assumptions 4 (DESIGN CHOICE). -/
def State.loadTeam (s : State) : State :=
  let s1 : State := { s with mem := loadMem s.mem, ctxs := s.ctxs.set 0 (loadCtx s.ctxs[0]), sched := [], stalled := [], halted := false,
                             parts := s.parts.set 0 { s.parts[0] with st := 1, swapped := false },
                             mgmt := { s.mgmt with ready0 := s.mgmt.ready0 ||| 0x3FF },
                             dies := mapAll (fun d => { d with up := true, relock := none, far := [] }) s.dies }
  (s1.modTeam fun t => { t with live := true, ctx := 0, part := 0, core := 0, obj := loadObj t.obj }).modGrp fun g =>
    { g with phase := .running, spc := 0, chain := none, handler := false, pend := [], stopReq := false, stepping := false, lnch := none, claim := none,
             errs := [] }

/-- Places a scalar word at SPC 0 of the loaded object; the words after it are zero.
Rests on notes/assumptions 4 (DESIGN CHOICE). -/
def State.placeScalar (s : State) (w : Nat) : State :=
  let s1 := s.loadTeam
  { s1 with mem := Memory.writeLe (Memory.clear s1.mem (loadPage + 0x1000) 64) (loadPage + 0x1000) 4 w }

/-- Places a lane word at lane PC 0 of a block that has just started with every lane active; the words after it are zero. The scalar stream is marked as
having found itself waiting, so the fixed order runs the split next.
Rests on notes/assumptions 4 (DESIGN CHOICE). -/
def State.placeLane (s : State) (w : Nat) : State :=
  let s1 := s.loadTeam.modGrp fun g =>
    { g with retired := 0, stack := Vector.replicate 16 .free,
             splits := #v[some { lpc := 0, mask := BitVec.allOnes 64, rank := 0, join := none, cstack := [], hist := 0, atBar := none, dbgSkip := none },
                          none, none, none],
             blocks := [{ pc := 0, snap := g.sregs, snapErr := [], en := 0, ticket := 1, spc := 0, started := true, done := false, results := [], flags := 0 }] }
  { s1 with mem := Memory.writeLe (Memory.clear s1.mem loadPage 192) loadPage 12 w, stalled := [.scalar s.cur s.gix] }

end Sys2Proof.Machine
end

