-- ==== Sys2Proof/Machine/Deadlock.lean ====
section
/-! DEFINITION. The deadlock of a team's queues and barriers (spec/08 R164). -/

namespace Sys2Proof.Machine

/-- A waiter that cannot go: another is before it in its line, or the handles or the room it needs are not there. -/
def Hoist.stays (h : Hoist) (x : GrpIx × SplitIx × Bool × Nat) : Bool :=
  !(h.turn (x.1, x.2.1, x.2.2.1) && (if x.2.2.1 then h.canPush x.2.2.2 else h.canPop x.2.2.2))

/-- A third LRUN whose older block has not completed waits (spec/03 R69). -/
def Group.lrunWaits (g : Group) : Bool := match g.blocks with | b :: _ :: _ => !b.done | _ => false

/-- The queue or barrier number that a split of the group in hand waits on, where it waits in QPUSH, QPOP or BAR. -/
def State.waitsOn (s : State) (k : SplitIx) : Option Nat :=
  match s.grp.splits[k] with
  | none => none
  | some p =>
    match p.atBar with
    | some (b, _) => some b
    | none => (List.range 16).find? fun q => (s.team.hoist q).waiters.any fun x => x.1 == s.gix && x.2.1 == k && (s.team.hoist q).stays x

/-- A group every live split of which waits, with a scalar stream that waits for its blocks; a group that has ended counts as finished. -/
def State.groupStuck (s : State) : Bool :=
  match s.grp.phase with
  | .none => true
  | .exited => true
  | .stopped => false
  | .running =>
    !s.grp.handler && ((List.finRange 4).all fun k => s.grp.splits[k].isNone || (s.waitsOn k).isSome) && ((List.finRange 4).any fun k => s.grp.splits[k].isSome) &&
    (match s.scalarInstr with
     | .lwait a => s.grp.blocks.any fun b => !b.done && decide ((s.grp.lticket - s.sr a).toNat ≤ (s.grp.lticket - b.ticket).toNat)
     | .lrun _ _ => s.grp.lrunWaits
     | .ximm _ => (match s.partner with | some (.lrun _ _) => s.grp.lrunWaits | _ => false)
     | .gexit => s.grp.blocks.any fun b => !b.done
     | _ => false)

/-- A copy command of the team that holds a publish reservation is outstanding. -/
def Team.publishing (t : Team) : Bool := t.cmds.any fun c => c.live && c.handle.isSome && dPub c.w

/-- Every waiting split of the group in hand gets a pending 0x154 that names what it waits on. -/
def State.deadlockTraps (s : State) : State :=
  s.grp.splits.toList.zipIdx.foldl (fun s x =>
    let k : SplitIx := Fin.ofNat 4 x.2
    match s.waitsOn k, x.1 with
    | some n, some p =>
      if s.grp.pend.any fun d => d.split == some k && d.trap.cause == 0x154 then s
      else s.pendTrap false (some k) { s.record 0x154 with spc := s.blockSpc, lpc := p.blocked, addr := BitVec.ofNat 64 n }
    | _, _ => s) s

def execQueueDeadlock (t : TeamIx) (s : State) : Host.Outcome State Fault Refusal :=
  let s0 : State := { s with cur := t }
  if s0.team.live && ((List.finRange 16).all fun g => (s.at t g).groupStuck) && ((List.finRange 16).any fun g => s0.team.groups[g].phase == .running) &&
      !s0.team.publishing then
    let s1 := (List.finRange 16).foldl (fun a g => if (s.at t g).grp.phase == .running then (a.at t g).deadlockTraps else a) s
    .next { s1 with cur := s.cur, gix := s.gix }
  else s.wait

end Sys2Proof.Machine
end

