-- ==== Sys2Proof/Machine/Evict.lean ====
section
/-! DEFINITION. The steps that the caches, the clusters' atomic units and the home slices take of their own accord (spec/11 R222, spec/12 R234,
spec/13 R253). -/

namespace Sys2Proof.Machine

/-- The homes that the bytes of a core's L1 that meet p reach when they leave it. -/
def State.l1Homes (s : State) (c : CoreIx) (p : CByte → Bool) : List Nat :=
  (s.cores[c].l1.filter fun b => b.dirty && p b && b.home == (dieOf c).val).map fun b => b.home

/-- The homes of a die's dirty far copies that meet p. -/
def State.farHomes (s : State) (d : DieIx) (p : CByte → Bool) : List Nat := (s.dies[d].far.filter fun b => b.dirty && p b).map fun b => b.home

/-- A line is evicted, its dirty bytes written back: a 64-byte line of an L1 to the die's L2, a 256-byte line of far copies to home (R234,
spec/01 R16). What an acqrel fence sent of the line from there arrives with it.
Rests on notes/assumptions 9 (DEDUCED), 95 (DEDUCED). -/
def execCacheWriteBack (p : CachePlace) (line : Nat) (s : State) : Host.Outcome State Fault Refusal :=
  match p with
  | .l1 core =>
    let q (b : CByte) : Bool := b.pa / 64 == line
    let r (o : Outgoing) : Bool := o.src == core && q o.byte
    if !(s.cores[core].l1.any q || s.outgoing.any r) || s.pushWaits (s.l1Homes core q ++ s.outHomes (dieOf core) q) then s.wait
    else .next ((s.landOut r).invL1 core q)
  | .far die =>
    let q (b : CByte) : Bool := b.pa / 256 == line
    let r (o : Outgoing) : Bool := o.far && dieOf o.src == die && q o.byte
    if !(s.dies[die].far.any q || s.outgoing.any r) || s.pushWaits (s.farHomes die q ++ s.outHomes die q ++ (s.inbound die q).map fun o => o.byte.home) then s.wait
    else .next ((s.landOut r).invFar die q)

/-- A cluster's atomic unit evicts a sector (R253). -/
def execClusterAtomicWriteback (cl : Fin 40) (i : Nat) (s : State) : Host.Outcome State Fault Refusal :=
  let q (b : CByte) : Bool := b.pa / 64 == i
  let homes := (s.clusters[cl].atom.filter fun b => b.dirty && q b && b.home == cl.val / 10).map fun b => b.home
  if !(s.clusters[cl].atom.any q) || s.pushWaits homes then s.wait else .next (s.atomBack cl q)

/-- An L1 combining entry is sent home as a reduction (R222). -/
def execCombiningEntryEvict (core : CoreIx) (i : Nat) (s : State) : Host.Outcome State Fault Refusal :=
  match s.cores[core].comb[i]? with
  | none => s.wait
  | some e => .next (s.sendRed core (fun x => x.sector == e.sector) [])

/-- Entries of one sector, operation and format as one: the partials of each element are folded into one partial (spec/11 R223). -/
def Comb.join (e : Comb) (l : List Comb) (order : List Nat) : Comb :=
  let ps := e.parts ++ l.flatMap fun x => x.parts
  let n := redBits e.fmt / 8
  let one (pa : Nat) : Part :=
    let here := ps.filter fun q => q.pa == pa
    { pa := pa, val := BitVec.ofNat 64 (foldTree (applyRed e.op e.fmt) (here.map fun q => q.val.toNat % 2 ^ (8 * n)) here.length order),
      pois := here.any fun q => q.pois, who := here.flatMap fun q => q.who }
  if l.isEmpty then e else { e with parts := (ps.map fun q => q.pa).eraseDups.map one }

/-- An entry that was sent home executes at its home slice (R222); a slice that relocks holds it. The entries `c.more` of homeRed that are of its sector,
operation and format may join it into parts of more contributions, folded in the order that `c.order` chooses (R223).
Rests on notes/assumptions 112 (DEDUCED). -/
def execHomeReduction (c : JoinChoice) (s : State) : Host.Outcome State Fault Refusal :=
  let i := c.i
  match s.homeRed[i]? with
  | none => s.wait
  | some e =>
    let with_ (k : Nat) : Bool := c.more.contains k && k != i &&
      (match s.homeRed[k]? with | some x => x.sector == e.sector && x.op == e.op && x.fmt == e.fmt | none => false)
    let ks := (List.range s.homeRed.length).filter with_
    if s.pushWaits [e.home] then s.wait
    else
      let s1 : State := { s with homeRed := ((List.range s.homeRed.length).filter fun k => k != i && !with_ k).filterMap fun k => s.homeRed[k]? }
      .next (s1.redEntry (e.join (ks.filterMap fun k => s.homeRed[k]?) c.order))

end Sys2Proof.Machine
end

