-- ==== Sys2Proof/Machine/LaneFloat.lean ====
section
/-! DEFINITION. The lane floating-point words (spec/06 R114-R124). -/

namespace Sys2Proof.Machine

/-- The format of TYPE 0x8 or 0x9. -/
def laneFmt (t : BitVec 4) : FloatFmt := if t == 9 then fp64 else fp32

/-- A word with one result in its format from its three sources. -/
def State.laneFloat (s : State) (opc : Nat) (w : LaneWord) (f : FloatFmt → Nat → Nat → Nat → Nat × BitVec 5) : Host.Outcome State Fault Refusal :=
  s.laneOp opc w fun s _ l => f (laneFmt w.type) (s.operand w w.srcA l) (s.operand w w.srcB l) (s.operand w w.srcC l)

def execFadd (w : LaneWord) (s : State) : Host.Outcome State Fault Refusal := s.laneFloat 0x080 w fun f a b _ => f.add (subMode w.sub) a b

def execFsub (w : LaneWord) (s : State) : Host.Outcome State Fault Refusal := s.laneFloat 0x081 w fun f a b _ => f.sub (subMode w.sub) a b

def execFmul (w : LaneWord) (s : State) : Host.Outcome State Fault Refusal := s.laneFloat 0x082 w fun f a b _ => f.mul (subMode w.sub) a b

def execFfma (w : LaneWord) (s : State) : Host.Outcome State Fault Refusal := s.laneFloat 0x083 w fun f a b c => f.fma (subMode w.sub) a b c

def execFmin (w : LaneWord) (s : State) : Host.Outcome State Fault Refusal := s.laneFloat 0x084 w fun f a b _ => f.minmax false (w.sub.getLsbD 0) a b

def execFmax (w : LaneWord) (s : State) : Host.Outcome State Fault Refusal := s.laneFloat 0x085 w fun f a b _ => f.minmax true (w.sub.getLsbD 0) a b

def execFcmp (w : LaneWord) (s : State) : Host.Outcome State Fault Refusal :=
  s.laneOpPred 0x086 w (dstPred w) fun s l =>
    (laneFmt w.type).compare (w.sub.extractLsb' 0 3).toNat (w.sub.getLsbD 3) (s.operand w w.srcA l) (s.operand w w.srcB l)

/-- A word with a 32-bit result from a source of either format. -/
def State.laneFloat32 (s : State) (opc : Nat) (w : LaneWord) (f : FloatFmt → Nat → Nat × BitVec 5) : Host.Outcome State Fault Refusal :=
  s.laneOp32 opc w fun s _ l => let r := f (laneFmt w.type) (s.operand w w.srcA l); (BitVec.ofNat 32 r.1, r.2)

def execFclass (w : LaneWord) (s : State) : Host.Outcome State Fault Refusal := s.laneFloat32 0x087 w fun f a => (f.classOf a, 0)

def execFrnd (w : LaneWord) (s : State) : Host.Outcome State Fault Refusal := s.laneFloat 0x088 w fun f a _ _ => f.rnd (subMode w.sub) a

def execFfrc (w : LaneWord) (s : State) : Host.Outcome State Fault Refusal := s.laneFloat 0x089 w fun f a _ _ => f.frc a

def execFexf (w : LaneWord) (s : State) : Host.Outcome State Fault Refusal := s.laneFloat 0x08A w fun _ a _ _ => fexf32 a

def execFlg2 (w : LaneWord) (s : State) : Host.Outcome State Fault Refusal := s.laneFloat 0x08B w fun _ a _ _ => flg2of32 a

def execFrcp (w : LaneWord) (s : State) : Host.Outcome State Fault Refusal := s.laneFloat 0x08C w fun f a _ _ => f.rcp w.type.toNat a

def execFrsq (w : LaneWord) (s : State) : Host.Outcome State Fault Refusal := s.laneFloat 0x08D w fun f a _ _ => f.rsq w.type.toNat a

def execFsqrt (w : LaneWord) (s : State) : Host.Outcome State Fault Refusal := s.laneFloat 0x08E w fun f a _ _ => f.sqrt (subMode w.sub) a

def execFinsx (w : LaneWord) (s : State) : Host.Outcome State Fault Refusal :=
  s.laneOp 0x08F w fun s _ l =>
    let f := laneFmt w.type
    let a := s.operand w w.srcA l
    if w.sub.getLsbD 3 then f.scale (subMode w.sub) a (s.srcN w w.srcB l).toInt else f.insx (subMode w.sub) a (s.operand w w.srcB l)

def execFexpx (w : LaneWord) (s : State) : Host.Outcome State Fault Refusal := s.laneFloat32 0x090 w fun f a => f.expx a

end Sys2Proof.Machine
end

