-- ==== Sys2Proof/Machine/Scoreboard.lean ====
section
/-! DEFINITION. The scoreboard: the registers and predicates that each word reads and writes, and the PC of the word that last issued with each as its
destination (spec/17 R339). -/

namespace Sys2Proof.Machine

/-- The scalar registers and predicates that a scalar word writes. -/
def scalarWrites (i : Instr) : List RegName :=
  let one (d : Reg) : List RegName := [.sreg d]
  let run (d : Reg) (n : Nat) : List RegName := (regRun d n).map .sreg
  match i with
  | .sadd d .. | .ssub d .. | .smul d .. | .smulh d .. | .smin d .. | .smax d .. | .sminN d .. | .smaxN d .. | .sand d .. | .sor d .. | .sxor d ..
  | .smulhN d .. | .sshl d .. | .sshr d .. | .ssra d .. | .smov d .. | .sclz d .. | .spopc d .. | .sselQ0Q3 d .. | .sselQ4Q7 d .. | .sbfe d ..
  | .sbfeI d .. | .sbfi d .. | .saddi d .. | .slds d .. | .sli d .. | .slui d .. | .sloop d .. | .srd d .. | .srdp d .. | .cbatch d | .cstat d ..
  | .pcnt d .. => one d
  | .sad64 d .. | .smad64 d .. | .sldsD d .. | .ptest d .. | .cntr d .. | .tref d => run d 2
  | .hstat d .. => run d 4
  | .hdrain d .. => one d ++ one (d + 3)
  | .scmpEq q .. | .scmpNe q .. | .scmpLt q .. | .scmpLe q .. | .scmpLtN q .. | .scmpLeN q .. | .spresize q .. | .waitaGe q .. | .waitaEq q ..
  | .waitaNe q .. => [.qreg q]
  | _ => []

/-- The predicate that a lane word writes (spec/04 R82, spec/06 R115, spec/08 R162). -/
def predWrites (opc : Nat) (w : LaneWord) : List Nat :=
  if opc = 0x18A then [tryPred w]
  else match laneForm opc w.sub with
    | some f => if f.dst = .pred then [(w.dst.extractLsb' 0 3).toNat] else []
    | none => []

/-- What a word of the scalar stream, or of the lane stream, writes. -/
def State.destinations (s : State) (lane : Bool) (i : Instr) : List RegName :=
  if lane then
    match laneParts i with
    | none => []
    | some (opc, w) =>
      let regs := if isHashOpc opc then (match s.team.tabs.toList[(w.imm.extractLsb' 12 2).toNat]? with | some h => hashWrites w h | none => [])
                  else laneWrites opc w
      regs.map .vreg ++ (predWrites opc w).map .pred
  else
    match i with
    | .ximm _ => (match s.partner with | some j => scalarWrites j | none => [])
    | _ => scalarWrites i

/-- What a word of the scalar stream, or of the lane stream, reads. -/
def State.sources (s : State) (lane : Bool) (i : Instr) : List RegName :=
  if lane then
    match laneParts i with
    | none => []
    | some (opc, w) => (vectorReads (s.sourceWidths opc w) opc w).map .vreg ++ (lanePreds opc w).map .pred
  else (s.unitReads i).1.map .sreg ++ (s.unitReads i).2.map .qreg

/-- The group in hand notes pc as the producer of the registers rs. -/
def State.produced (s : State) (rs : List RegName) (pc : Word) : State :=
  if rs.isEmpty then s
  else s.modGrp fun g => { g with producers := rs.map (fun r => (r, pc)) ++ g.producers.filter fun x => !rs.contains x.1 }

/-- The producer PCs of what a word reads.
Rests on notes/assumptions 62 (DEDUCED). -/
def State.producerPCs (s : State) (lane : Bool) (i : Instr) : List Word :=
  (s.grp.producers.filter fun x => (s.sources lane i).contains x.1).map fun x => x.2

/-- The word i that s ran to t has issued and goes on to its result: it is the producer of its destinations.
Rests on notes/assumptions 62 (DEDUCED). -/
def State.issuedTo (s : State) (lane : Bool) (i : Instr) (t : State) : State :=
  if t.blocked || t.grp.phase != .running || t.grp.handler != s.grp.handler then t
  else t.produced (s.destinations lane i) (if lane then (match s.grp.splits[s.spl] with | some p => p.lpc | none => 0) else s.grp.spc)

end Sys2Proof.Machine
end

