-- ==== Sys2Proof/Machine/Guidon.lean ====
section
/-! DEFINITION. A predicted VBR: the window of words that its speculative splits issue, the undo journal, and the resolution (spec/07 R145-R147). -/

namespace Sys2Proof.Machine

/-- The paths a prediction would create that do not arrive at once (R145).
Rests on notes/assumptions 87 (DEDUCED). -/
def predictedPaths (w : LaneWord) (p : Split) (t : Mask) : Nat :=
  if t = p.mask ∨ t = 0 then 1
  else (if branchTo w p.lpc = branchJoin w p.lpc then 0 else 1) + (if p.lpc + 1 = branchJoin w p.lpc then 0 else 1)

/-- A word that a window admits, as its meaning; none for a store, a hash, queue, barrier, atomic, fence, cross-lane, CVTQ, branching or debug word, for a
word that does not decode, and for anything else (R146). -/
def windowWord (i : Instr) : Option (State → Host.Outcome State Fault Refusal) :=
  match i with
  | .vadd w => some (execVadd w) | .vsub w => some (execVsub w) | .vmul w => some (execVmul w) | .vmulh w => some (execVmulh w)
  | .vmad w => some (execVmad w) | .vmadw w => some (execVmadw w) | .vand w => some (execVand w) | .vor w => some (execVor w)
  | .vxor w => some (execVxor w) | .vlop3 w => some (execVlop3 w) | .vshl w => some (execVshl w) | .vshr w => some (execVshr w)
  | .vrot w => some (execVrot w) | .vmin w => some (execVmin w) | .vmax w => some (execVmax w) | .vabsd w => some (execVabsd w)
  | .vclz w => some (execVclz w) | .vpopc w => some (execVpopc w) | .vbrev w => some (execVbrev w) | .vbfe w => some (execVbfe w)
  | .vbfi w => some (execVbfi w) | .vsel w => some (execVsel w) | .vcmp w => some (execVcmp w) | .vmov w => some (execVmov w)
  | .vpset w => some (execVpset w)
  | .fadd w => some (execFadd w) | .fsub w => some (execFsub w) | .fmul w => some (execFmul w) | .ffma w => some (execFfma w)
  | .fmin w => some (execFmin w) | .fmax w => some (execFmax w) | .fcmp w => some (execFcmp w) | .fclass w => some (execFclass w)
  | .frnd w => some (execFrnd w) | .ffrc w => some (execFfrc w) | .fexf w => some (execFexf w) | .flg2 w => some (execFlg2 w)
  | .frcp w => some (execFrcp w) | .frsq w => some (execFrsq w) | .fsqrt w => some (execFsqrt w) | .finsx w => some (execFinsx w)
  | .fexpx w => some (execFexpx w)
  | .cvt w => some (execCvt w) | .cvtd w => some (execCvtd w) | .pk2 w => some (execPk2 w) | .upk2 w => some (execUpk2 w)
  | .lds w => some (execLds w) | .ldsh w => some (execLdsh w) | .ldtr w => some (execLdtr w)
  | .vjmp w => some (execVjmp w)
  | _ => none

/-- A word of the window: the side that issued it, whether it takes an entry of the undo journal, and its executing lanes (R146). -/
structure Issued where
  taken : Bool
  entry : Bool
  lanes : Mask

/-- A word takes an entry of the undo journal: it has a vector or predicate destination (R146). -/
def journalled (opc : Nat) (w : LaneWord) : Bool :=
  match laneForm opc w.sub with
  | some f => f.dst == .pred || (f.dst == .vec && !w.nowb)
  | none => false

/-- The group in hand has taken a trap. -/
def State.trapped (s : State) : Bool := s.grp.handler || s.grp.phase != .running

/-- Split k issues its next chain, of at most n words; the answer says whether every word of it was admitted and none trapped (R146, R148). -/
def State.windowChain (s : State) (k : SplitIx) (taken : Bool) : (n : Nat) → State × List Issued × Bool
  | 0 => (s, [], false)
  | n + 1 =>
    match s.grp.splits[k] with
    | none => (s, [], false)
    | some p =>
      let i := s.laneInstrAt p.lpc
      if s.arrived p || s.grp.chainFault i || (s.laneErrOf k i).isSome then (s, [], false)
      else
        match windowWord i, laneParts i with
        | some f, some (opc, w) =>
          let s0 := ({ s with spl := k } : State).readPreds (some i)
          match f s0 with
          | .next s1 =>
            let s1 := s0.issuedTo true i s1
            let x : Issued := { taken := taken, entry := journalled opc w, lanes := p.mask &&& s.grp.guardMask w.guard }
            if s1.trapped || s1.blocked then (s1, [x], false)
            else if w.hold then
              let r := s1.windowChain k taken n
              (r.1, x :: r.2.1, r.2.2)
            else (s1, [x], true)
          | _ => (s, [], false)
        | _, _ => (s, [], false)

/-- The lanes of a side of a branch that took t of the lanes m. -/
def sideMask (taken : Bool) (m t : Mask) : Mask := if taken then m &&& t else m &&& ~~~t

/-- The split that holds exactly the lanes m. -/
def State.splitWith (s : State) (m : Mask) : Option SplitIx :=
  if m = 0 then none else (List.finRange 4).find? fun k => match s.grp.splits[k] with | some p => p.mask == m | none => false

/-- The sides of a branch that took t of the lanes m issue their chains in an order. -/
def State.windowRun (s : State) (m t : Mask) : List Bool → State × List Issued × Bool
  | [] => (s, [], true)
  | x :: r =>
    match s.splitWith (sideMask x m t) with
    | none => (s, [], false)
    | some k =>
      let c := s.windowChain k x 4
      if c.2.2 then
        let y := c.1.windowRun m t r
        (y.1, c.2.1 ++ y.2.1, y.2.2)
      else c

/-- The speculative execution of a predicted VBR and of the chains that its splits issue in the window, whose flags are held (R127); it is thrown away
but for what the window holds.
Rests on notes/assumptions 87 (DEDUCED). -/
def State.speculate (s : State) (w : LaneWord) (p : Split) (guess : Mask) (issue : List Bool) : Option (List Issued) :=
  let s0 := { s with blocked := false }.modGrp fun g => g.modBlock fun b => { b with en := b.en &&& ~~~31 }
  match s0.laneWord w fun s1 _ => s1.branchEnd 0x140 w (s1.vbrSplit w p guess) with
  | .next s1 =>
    let r := s1.windowRun p.mask guess issue
    if s1.trapped || s1.blocked || !r.2.2 then none else some r.2.1
  | _ => none

/-- The undo journal's entries that hold a mispredicted lane, and the words replayed (R147). -/
def windowCounts (l : List Issued) (guess truth : Mask) : Nat × Nat :=
  let wrong := guess ^^^ truth
  let side (b : Bool) : Nat := (l.filter fun x => x.taken == b).length
  ((l.filter fun x => x.entry && !(x.lanes &&& wrong == 0)).length,
   (if truth &&& ~~~guess = 0 then 0 else side true) + (if guess &&& ~~~truth = 0 then 0 else side false))

/-- The PRED record and the counts of a resolution (spec/17 R345, R349).
Rests on notes/assumptions 87 (DEDUCED). -/
def State.recordPred (s : State) (pc : Word) (predicted true_ : Mask) (undone replayed : Nat) : State :=
  let wrong := predicted != true_
  let s1 := (s.count 0x03 1).count 0x05 replayed
  (if wrong then s1.count 0x04 1 else s1).emit s.team.ctx (some 1) s.team.core.val (some s.dieIx) (s.team.slot s.gix) 4
    (toBytes 4 pc.toNat ++ [if wrong then 1 else 0, BitVec.ofNat 8 undone, BitVec.ofNat 8 replayed, 0] ++ toBytes 8 predicted.toNat ++
      toBytes 8 true_.toNat)

/-- The counts of lane words as a resolution leaves them: n beyond the VBR of s, whichever words the lanes of the true mask issued (spec/17 R349).
Rests on notes/assumptions 87 (DEDUCED). -/
def State.issuedSince (t s : State) (n : Nat) : State :=
  (t.modCore t.team.core fun c => { c with cnt := c.cnt.set 0 (s.core.cnt[0] + BitVec.ofNat 64 n) }).modGrp fun g =>
    { g with laneCnt := s.grp.laneCnt + BitVec.ofNat 64 n }

/-- The conditions of a prediction of the VBR that split p would issue (R145): its guard is a predicate that a word of the block has written in a lane of
the split and that no word has read there since, its entry has confidence 2 or more, and the paths fit.
Rests on notes/assumptions 87 (DEDUCED). -/
def State.predicts (s : State) (w : LaneWord) (p : Split) : Bool :=
  let e := s.core.guidonEntry (guidonIx p.lpc p.hist)
  let q : Nat := (w.guard.extractLsb' 0 3).toNat
  (if h : q < 7 then !(s.grp.late[q] &&& p.mask == 0) else false) && decide (2 ≤ e.2) &&
  decide (predictedPaths w p (e.1 &&& p.mask) ≤ 1 + s.grp.freeSplits.length)

/-- A predicted VBR of split k, from its issue to the resolution of its window. `taken` and `other` are the numbers of chains
that the speculative splits of the two sides issue in the window; the order among them shows nowhere, since a window admits only words of the split's
own lanes (R146). The state becomes that of the VBR issued after its predicate and of the same chains issued after it by the splits that the
true mask gives their sides. The words of the window count as they issued in it, and again where they are replayed.
Rests on notes/assumptions 87 (DEDUCED). -/
def execGuidonResolution (t : TeamIx) (g : GrpIx) (k : SplitIx) (taken other : Nat) (s : State) : Host.Outcome State Fault Refusal :=
  let s1 : State := { s.at t g with spl := k }
  match s1.grp.splits[k], s1.lanePick k with
  | some p, some (.vbr w) =>
    let guess := (s1.core.guidonEntry (guidonIx p.lpc p.hist)).1 &&& p.mask
    let truth := s1.takenMask w p
    let issue := List.replicate (min 25 taken) true ++ List.replicate (min 25 other) false
    if s1.grp.stepping || !s1.predicts w p then s.wait
    else
      match s1.speculate w p guess issue with
      | none => s.wait
      | some l =>
        if 24 < l.length then s.wait
        else
          let n := windowCounts l guess truth
          match execVbr w (s1.recordPred p.lpc guess truth n.1 n.2) with
          | .next s2 =>
            let s3 := if s2.trapped then s2
              else (s2.windowRun p.mask truth (issue.filter fun x => (s2.splitWith (sideMask x p.mask truth)).isSome)).1
            let s4 := ((s3.issuedSince s2 (l.length + n.2)).moved (some k)).holdQuarter.modGrp fun g =>
              { g with guessed := if guess = truth then none else some p.lpc }
            .next (s4.modCore s4.team.core fun c => { c with resolving := c.resolving.set s4.quarter (some (t, g, p.lpc)) })
          | o => o
  | _, _ => s.wait

end Sys2Proof.Machine
end

