-- ==== Sys2Proof/Machine/LaneCross.lean ====
section
/-! DEFINITION. The cross-lane words (spec/04 R83-R90). Each reads every source lane before it writes any. -/

namespace Sys2Proof.Machine

/-- True where a signed lane number is an executing lane. -/
def laneIn (e : Mask) (n : Int) : Bool := decide (0 ≤ n) && e.getLsbD n.toNat

/-- The lane that VSHFL takes for lane l under a mode and an amount (R84). -/
def shuffleFrom (mode : Nat) (l : Fin 64) (n : Word) : Int :=
  match mode with
  | 0 => n.toNat
  | 1 => (l.val : Int) - n.toNat
  | 2 => (l.val : Int) + n.toNat
  | _ => ((l.val ^^^ n.toNat % 64 : Nat) : Int)

/-- The value that a lane takes from lane n where n is an executing lane, else its own fallback. -/
def State.laneTake (s : State) (w : LaneWord) (e : Mask) (l : Fin 64) (n : Int) : Nat :=
  if laneIn e n then s.operand w w.srcA (Fin.ofNat 64 n.toNat) else s.operand w w.srcC l

def execVshfl (w : LaneWord) (s : State) : Host.Outcome State Fault Refusal :=
  s.laneOp 0x110 w fun s e l => (s.laneTake w e l (shuffleFrom (w.sub.extractLsb' 0 2).toNat l (s.srcN w w.srcB l)), 0)

/-- The highest lane of a mask, or 0 for an empty one. -/
def highLane (m : Mask) : Fin 64 := (maskLanes m).reverse.headD 0

def execVbcst (w : LaneWord) (s : State) : Host.Outcome State Fault Refusal :=
  s.laneOp 0x111 w fun s e l =>
    let j : Int := match (w.sub.extractLsb' 0 2).toNat with
      | 0 => ((s.srcN w w.srcB (lowLane e)).toNat : Int)
      | 1 => ((lowLane e).val : Int)
      | _ => ((highLane e).val : Int)
    (s.laneTake w e l j, 0)

/-- Adds a scalar result of the running block, applied by LWAIT (R88). -/
def Group.scalarResult (g : Group) (d : Reg) (wide : Bool) (v : Nat) : Group :=
  g.modBlock fun b =>
    { b with results := b.results ++ (d, BitVec.ofNat 32 v) :: if wide then [(d + 1, BitVec.ofNat 32 (v / 2 ^ 32))] else [] }

/-- VVOTE's result over the executing lanes (R86). -/
def voteResult (mode : Nat) (e t : Mask) : Nat :=
  match mode with
  | 0 => t.toNat
  | 1 => if t = 0 then 0 else 1
  | 2 => if t = e then 1 else 0
  | _ => popCount 64 t.toNat

def execVvote (w : LaneWord) (s : State) : Host.Outcome State Fault Refusal :=
  let mode := (w.sub.extractLsb' 0 2).toNat
  s.laneWord w fun s1 e =>
    let v := voteResult mode e (e &&& s1.grp.guardMask (w.imm.extractLsb' 0 4))
    (s1.modGrp fun g =>
      if w.sub.getLsbD 3 then (if mode = 0 then g.result64 w e fun _ => BitVec.ofNat 64 v else g.result32 w e fun _ => BitVec.ofNat 32 v)
      else g.scalarResult w.dst (mode == 0) v).laneDone 0x112 w []

/-- An operation of VREDX and VSCAN on two values of a type (R87, R89). -/
def foldOp (t : BitVec 4) (op : Nat) (x y : Nat) : Nat :=
  match op with
  | 0 => (x + y) % 2 ^ fmtBits t.toNat
  | 1 => if intVal t x ≤ intVal t y then x else y
  | 2 => if intVal t x ≤ intVal t y then y else x
  | 3 => x &&& y
  | 4 => x ||| y
  | _ => x ^^^ y

/-- The identity of an operation (R87). -/
def foldIdentity (t : BitVec 4) (op : Nat) : Nat :=
  match op with
  | 1 => intBits t.toNat (intMax t.toNat)
  | 2 => intBits t.toNat (intMin t.toNat)
  | 3 => 2 ^ fmtBits t.toNat - 1
  | _ => 0

def execVredx (w : LaneWord) (s : State) : Host.Outcome State Fault Refusal :=
  let op := (w.sub.extractLsb' 0 3).toNat
  s.laneWord w fun s1 e =>
    let v :=
      if op = 0 then intBits w.type.toNat
        (let x := (maskLanes e).foldl (fun a l => a + intVal w.type (s1.operand w w.srcA l)) (0 : Int); if w.sub.getLsbD 3 then satInt w.type.toNat x else x)
      else (maskLanes e).foldl (fun a l => foldOp w.type op a (s1.operand w w.srcA l)) (foldIdentity w.type op)
    (s1.modGrp fun g => g.scalarResult w.dst (wideType w.type) v).laneDone 0x113 w []

def execVscan (w : LaneWord) (s : State) : Host.Outcome State Fault Refusal :=
  let op := (w.sub.extractLsb' 0 3).toNat
  s.laneOp 0x114 w fun s e l =>
    (((maskLanes e).filter fun k => decide (k.val < l.val) || (!w.sub.getLsbD 3 && k == l)).foldl
      (fun a k => foldOp w.type op a (s.operand w w.srcA k)) (foldIdentity w.type op), 0)

/-- The executing lanes whose value equals that of lane l (R90). -/
def State.matchMask (s : State) (w : LaneWord) (e : Mask) (l : Fin 64) : Mask :=
  e &&& maskOf fun k => s.operand w w.srcA k == s.operand w w.srcA l

def execVmatch (w : LaneWord) (s : State) : Host.Outcome State Fault Refusal :=
  match w.sub.toNat with
  | 0 => s.laneOp64 0x115 w fun s e l => (s.matchMask w e l, 0)
  | 1 => s.laneOp 0x115 w fun s e l => (popCount l.val (s.matchMask w e l).toNat, 0)
  | _ => s.laneOp 0x115 w fun s e l => (popCount 64 (s.matchMask w e l).toNat, 0)

end Sys2Proof.Machine
end

