-- ==== Sys2Proof/Machine/Sample.lean ====
section
/-! DEFINITION. What a quarter's sample of a group records: the stream's PC, the reason and the blame PC (spec/17 R339). -/

namespace Sys2Proof.Machine

/-! ## Which reasons can hold -/

/-- The scalar word that would issue; of an XIMM its partner. -/
def State.stallWord (s : State) : Instr := match s.scalarInstr with | .ximm _ => s.partner.getD (.ximm 0) | i => i

/-- The words that wait under each of the reasons 4 to 8 and 11 (R339). -/
def stallsAt (i : Instr) : Option Nat :=
  match i with
  | .lwait .. | .lrun .. => some 4
  | .cwait .. | .crows .. | .ccncl .. | .cten .. | .cgth .. | .csct .. | .cpack .. | .cunpk .. | .cfill .. | .ats .. | .atm .. | .adcas .. | .axmv .. | .ared .. => some 5
  | .qpush .. | .qpop .. | .bar .. => some 6
  | .fenceAcq .. | .fenceRel .. | .fenceAcqrel .. | .fenceSc .. | .prelAdd .. | .prelSet .. | .pacqGe .. | .pacqEq .. | .pacqNe .. | .pbind .. | .waitaGe ..
  | .waitaEq .. | .waitaNe .. | .rcomb .. | .laneFence .. => some 7
  | .mwait .. | .mwaitAll | .mma .. | .mmaSpec .. | .mmas .. | .mmasSpec .. | .mzero .. | .mout .. | .moutS .. => some 8
  | .twait .. => some 11
  | _ => none

/-- The lane words that may take more than one scratchpad wave (spec/08 R155). -/
def wavesOf (i : Instr) : Bool :=
  match i with
  | .lds .. | .sts .. | .ldsh .. | .stsh .. | .ats .. | .hins .. | .hprb .. | .hdel .. | .hacc .. => true
  | _ => false

/-! ## The blame PC -/

/-- The SPC of the oldest command, of a group or a team, that p names. -/
def Team.oldestCmd (t : Team) (p : Cmd → Bool) : Option Word := (t.cmds.find? fun c => c.live && p c).map fun c => c.spc

/-- The SPC of the oldest unended command that the scalar word in hand waits for; a post that waits for a slot waits for any of the core's. -/
def State.commandBlame (s : State) (i : Instr) : Option Word :=
  let inBatch (f : Batch → Bool) (c : Cmd) : Bool := c.gix == s.gix && s.grp.batches.any fun b => f b && b.cmds.any fun r => r.seq == c.seq && r.sub == c.sub
  match i with
  | .cwait a => s.team.oldestCmd (inBatch fun b => seqLe 16 b.seq.toNat (s.sr a).toNat)
  | .ccncl a => s.team.oldestCmd fun c => (s.cancelled ((s.sr a).getLsbD 16) ((s.sr a).extractLsb' 0 16)).contains c
  | .crows a _ => s.team.oldestCmd fun c => c.counts && dRctr c.w == (s.sr a).toNat
  | _ =>
    let all := (s.teamsOf fun _ => true).flatMap fun t => if s.teams[t].core == s.team.core then s.teams[t].cmds.filter Cmd.live else []
    (all.foldl (fun (b : Option Cmd) c => match b with | none => some c | some x => some (if c.posted < x.posted then c else x)) none).map fun c => c.spc

/-- The SPC of the oldest request that the scalar word in hand waits for: of its accumulator, or of the cluster's table. -/
def State.requestBlame (s : State) (i : Instr) : Option Word :=
  match i with
  | .mwait c => (s.team.reqs.find? fun r => r.accs.contains c.toNat).map fun r => r.spc
  | .mwaitAll => s.team.reqs.head?.map fun r => r.spc
  | _ =>
    let all := s.teams.toList.flatMap fun t => if t.live && clusterOf t.core == clusterOf s.team.core then t.reqs else []
    (all.foldl (fun (b : Option MxReq) r => match b with | none => some r | some x => some (if r.post < x.post then r else x)) none).map fun r => r.spc

/-- The head of the chain of another group that holds the quarter in hand, or the VBR of another group's resolution (spec/07 R147). -/
def State.holderBlame (s : State) : Option Word :=
  if s.slotHeld then
    match s.core.held[s.quarter] with
    | some (t, g) => s.teams[t].groups[g].chain.map fun c => c.head
    | none => none
  else
    match s.core.resolving[s.quarter] with
    | some (t, g, pc) => if t == s.cur && g == s.gix then none else some pc
    | none => none

/-- The blame PC of a reason for a stream of the group in hand whose next word is i at pc, or none where the reason cannot hold. What the state does not
show is timing: whether a word issued, lost its slot, waits for its fetch, for a scratchpad wave or for a source, and which source it finds pending first;
`free` is the PC of that source's producer.
Rests on notes/assumptions 62 (DEDUCED). -/
def State.stallBlame (s : State) (lane : Bool) (i : Instr) (pc : Word) (reason : Nat) (free : Word) : Option Word :=
  if s.grp.handler || s.grp.phase == .stopped then
    (if reason = 12 then some (if lane then s.grp.priv.elpc else s.grp.priv.epc) else none)
  else
    match reason with
    | 0 | 3 | 13 => some pc
    | 1 => if (s.producerPCs lane i).contains free then some free else none
    | 2 => if lane then s.holderBlame else none
    | 4 => if stallsAt i = some 4 then (s.grp.blocks.find? fun b => !b.done).map fun b => b.pc else none
    | 5 => if stallsAt i = some 5 then s.commandBlame i else none
    | 6 => if stallsAt i = some 6 then some pc else none
    | 7 => if stallsAt i = some 7 then some pc else none
    | 8 => if stallsAt i = some 8 then s.requestBlame i else none
    | 9 => if lane && wavesOf i then some pc else none
    | 10 => if lane then s.grp.guessed else none
    | 11 => if stallsAt i = some 11 then some pc else none
    | _ => none

/-! ## Sampling -/

/-- The groups of a quarter of a core, as slot, team and group. -/
def State.quarterGroups (s : State) (c : CoreIx) (k : Fin 4) : List (Nat × TeamIx × GrpIx) :=
  (s.teamsOf fun _ => true).flatMap fun t =>
    if s.teams[t].core = c then
      (List.finRange 16).filterMap fun g =>
        if s.teams[t].groups[g].phase ≠ .none ∧ s.teams[t].slot g % 4 = k.val then some (s.teams[t].slot g, t, g) else none
    else []

/-- The group that a quarter samples next: the lowest slot above the last one, else the lowest. -/
def nextSlot (last : Nat) (l : List (Nat × TeamIx × GrpIx)) : Option (Nat × TeamIx × GrpIx) :=
  let best (m : List (Nat × TeamIx × GrpIx)) : Option (Nat × TeamIx × GrpIx) :=
    m.foldl (fun b x => match b with | none => some x | some y => if x.1 < y.1 then some x else b) none
  match best (l.filter fun x => decide (last < x.1)) with
  | some x => some x
  | none => best l

/-- The sample of one stream, or none where its reason cannot hold. -/
def State.sampleOf (s : State) (lane : Bool) (i : Instr) (pc : Word) (reason : BitVec 4) (free : Word) : Option Sample :=
  (s.stallBlame lane i pc reason.toNat free).map fun b =>
    { launch := s.team.launchId, ctx := s.team.ctx, lane := lane, pc := pc, reason := reason, blame := b, count := 1 }

/-- A sample of each stream of the group in turn that has something to issue (R339); the reasons, as far as they are timing, and the source found pending under
reason 1 are operands.
Rests on notes/assumptions 62 (DEDUCED). -/
def execStallSample (core : CoreIx) (quarter : Fin 4) (reason : BitVec 4) (blame : Word) (reasonL : BitVec 4) (blameL : Word) (s : State) :
    Host.Outcome State Fault Refusal :=
  match nextSlot s.cores[core].rr[quarter] (s.quarterGroups core quarter) with
  | none => s.wait
  | some (slot, t, g) =>
    let x := s.at t g
    let s1 := s.modCore core fun y => { y with rr := y.rr.set quarter slot }
    let lowest : Option Split := if x.grp.block.isNone then none else
      (List.range 4).findSome? fun r => (List.finRange 4).findSome? fun k => (x.grp.splits[k]).bind fun p => if p.rank = r then some p else none
    let scalar : Option (List Sample) := if x.grp.phase = .exited then some []
      else (x.sampleOf false x.stallWord x.grp.spc reason blame).map fun y => [y]
    let lane : Option (List Sample) := match lowest with
      | none => some []
      | some p => (x.sampleOf true (x.laneInstrAt p.lpc) p.lpc reasonL blameL).map fun y => [y]
    match scalar, lane with
    | some a, some b => .next ((a ++ b).foldl (fun s y => s.addSample core y) s1)
    | _, _ => s.wait

end Sys2Proof.Machine
end

