-- ==== Sys2Proof/Machine/ScalarSpecial.lean ====
section
/-! DEFINITION. The special registers (spec/03 R64-R66). -/

namespace Sys2Proof.Machine

/-- CCYC of the current core and the integer part of NCYC (spec/15 R311). -/
def State.ccyc (s : State) : DWord := s.die.ccyc
def State.ncyc (s : State) : DWord := BitVec.ofNat 64 (s.die.ncyc / 65536)

/-- What SRD of register n reads, and the group with the high half that the read latches (R65); none for a number the table does not list. -/
def State.readSpecial (s : State) (n : Nat) : Option (Word × Group) :=
  let g := s.grp
  let t := s.team
  let w (v : Nat) : Option (Word × Group) := some (BitVec.ofNat 32 v, g)
  let c (v : DWord) (f : Group → Word → Group) : Option (Word × Group) := some (v.extractLsb' 0 32, f g (v.extractLsb' 32 32))
  match n with
  | 0x000 => w s.gix.val
  | 0x001 => w (t.slot s.gix)
  | 0x002 => some (t.coord[0], g)
  | 0x003 => some (t.coord[1], g)
  | 0x004 => some (t.coord[2], g)
  | 0x005 => some (t.dims[0], g)
  | 0x006 => some (t.dims[1], g)
  | 0x007 => some (t.dims[2], g)
  | 0x008 => some (t.launchId, g)
  | 0x009 => w t.core.val
  | 0x00A => w (clusterOf t.core).val
  | 0x00B => w s.dieIx.val
  | 0x00C => c (s.reftAt s.dieIx) fun g h => { g with reftHi := h }
  | 0x00D => some (g.reftHi, g)
  | 0x00E => c s.ccyc fun g h => { g with ccycHi := h }
  | 0x00F => some (g.ccycHi, g)
  | 0x010 => c s.ncyc fun g h => { g with ncycHi := h }
  | 0x011 => some (g.ncycHi, g)
  | 0x012 => some (g.batchSeq.zeroExtend 32, g)
  | 0x013 => some (g.cmdSeq, g)
  | 0x014 => some (if g.handler then g.priv.ecause &&& 0x1FF else 0, g)
  | 0x015 => w t.spadBase
  | 0x016 => w t.spadSize
  | 0x017 => some (g.fflags, g)
  | 0x018 => some (g.trapen, g)
  | 0x019 => some (g.lticket, g)
  | 0x01A => w t.obj.groups
  | _ => none

def execSrd (d : Reg) (n : BitVec 10) (s : State) : Host.Outcome State Fault Refusal :=
  match s.readSpecial n.toNat with
  | none => s.scalarTrap0 0x045
  | some (v, g) => .next (((s.setGrp g).setSr d v).advance 4)

/-- SWR: FFLAGS and TRAPEN alone are writable; their reserved bits read zero (R64-R66). -/
def execSwr (a : Reg) (n : BitVec 10) (s : State) : Host.Outcome State Fault Refusal :=
  if n = 0x017 then .next ((s.modGrp fun g => { g with fflags := s.sr a &&& 0x1F }).advance 4)
  else if n = 0x018 then .next ((s.modGrp fun g => { g with trapen := s.sr a &&& 0x3F }).advance 4)
  else if n.toNat < 0x01B then s.scalarTrap0 0x046
  else s.scalarTrap0 0x045

end Sys2Proof.Machine
end

