-- ==== Sys2Proof/Machine/ScalarSystem.lean ====
section
/-! DEFINITION. The handler words, the end of a group, time words, and the word that is no instruction (spec/16 R328, spec/15 R308, R310, spec/02 R37). -/

namespace Sys2Proof.Machine

def execTrap (i : BitVec 10) (s : State) : Host.Outcome State Fault Refusal := s.scalarTrapAfter 0x04B (i.zeroExtend 64)

def execBrk (s : State) : Host.Outcome State Fault Refusal := s.scalarTrapAfter 0x04C 0

def execEret (s : State) : Host.Outcome State Fault Refusal :=
  if s.grp.handler then
    if s.grp.priv.fwd then .next (s.countScalar 1).forwardTrap else .next (s.countScalar 1).resumeAt
  else s.scalarTrap0 0x04E

def execSnop (s : State) : Host.Outcome State Fault Refusal := .next (s.advance 4)

/-- A privileged register (R327), or none for a number the table does not list. -/
def Group.readPriv (g : Group) (n : Nat) : Option Word :=
  match n with
  | 0x000 => some g.priv.epc
  | 0x001 => some g.priv.elpc
  | 0x002 => some g.priv.ecause
  | 0x003 => some (g.priv.eaddr.extractLsb' 0 32)
  | 0x004 => some (g.priv.eaddr.extractLsb' 32 32)
  | 0x005 => some g.priv.ecmdseq
  | 0x006 => some g.priv.eelem
  | 0x007 => some g.priv.elane
  | 0x008 => some (g.priv.einfo.extractLsb' 0 32)
  | 0x009 => some (g.priv.einfo.extractLsb' 32 32)
  | 0x00A => some (2 + if g.priv.fwd then 1 else 0)
  | 0x00B => some g.priv.hscr[0]
  | 0x00C => some g.priv.hscr[1]
  | 0x00D => some g.priv.hscr[2]
  | 0x00E => some g.priv.hscr[3]
  | 0x00F => some (BitVec.ofNat 32 g.pend.length)
  | _ => none

/-- The privileged registers with register n written (R327), or none where it is not writable. -/
def Priv.write (p : Priv) (n : Nat) (v : Word) : Option Priv :=
  match n with
  | 0x000 => some { p with epc := v }
  | 0x001 => some { p with elpc := v }
  | 0x00A => some { p with fwd := v.getLsbD 0 }
  | 0x00B => some { p with hscr := p.hscr.set 0 v }
  | 0x00C => some { p with hscr := p.hscr.set 1 v }
  | 0x00D => some { p with hscr := p.hscr.set 2 v }
  | 0x00E => some { p with hscr := p.hscr.set 3 v }
  | _ => none

def execSrdp (d : Reg) (n : BitVec 9) (s : State) : Host.Outcome State Fault Refusal :=
  if s.grp.handler then
    match s.grp.readPriv n.toNat with
    | some v => s.scalarPut 4 d v
    | none => s.scalarTrap0 0x04F
  else s.scalarTrap0 0x04E

def execSwrp (a : Reg) (n : BitVec 9) (s : State) : Host.Outcome State Fault Refusal :=
  if s.grp.handler then
    match s.grp.priv.write n.toNat (s.sr a) with
    | some p => .next ((s.modGrp fun g => { g with priv := p }).advance 4)
    | none => s.scalarTrap0 0x04F
  else s.scalarTrap0 0x04E

/-! ## Time -/

/-- True once REFT on the core has reached a time (R310). -/
def State.reached (s : State) (t : DWord) : Bool := decide ((s.reftAt s.dieIx - t).toNat < 2 ^ 63)

def execTref (d : Reg) (s : State) : Host.Outcome State Fault Refusal := s.scalarPut64 4 d (s.reftAt s.dieIx)

def execTwait (a : Reg) (s : State) : Host.Outcome State Fault Refusal := if s.reached (s.sr64 a) then .next (s.advance 4) else s.wait

/-- The resumption of a group whose scalar stream stands at a TWAIT that its time has reached; an error in its operand is left to the stream's own turn.
Rests on notes/assumptions 26 (DEDUCED). -/
def execTwaitExpiry (t : TeamIx) (g : GrpIx) (s : State) : Host.Outcome State Fault Refusal :=
  let s1 := s.at t g
  if s1.team.live && s1.grp.phase == .running && !s1.grp.wantsTrap && !s1.grp.stepping then
    match s1.scalarInstr with
    | .twait a => if s1.reached (s1.sr64 a) && !(s1.grp.errs.contains (.sreg a) || s1.grp.errs.contains (.sreg (a + 1))) then .next (s1.advance 4) else s.wait
    | _ => s.wait
  else s.wait

/-! ## The end of a group -/

/-- Every predicate of the group that speculative requests wait for resolves false (R308, spec/14 R282). -/
def Team.dropPredicates (t : Team) (g : GrpIx) : Team := (List.range 7).foldl (fun t q => t.resolve (g, BitVec.ofNat 3 q) false) t

/-- GEXIT waits for the group's blocks, discards what they have not applied, and ends the group. -/
def execGexit (s : State) : Host.Outcome State Fault Refusal :=
  if s.grp.blocks.all fun b => b.done then
    .next (((s.advance 4).modGrp fun g => { g with phase := .exited, blocks := [] }).modTeam fun t => t.dropPredicates s.gix)
  else s.wait

/-! ## Words that are no instruction -/

/-- The decode or fetch trap of a word (spec/02 R37, R38), or the trap of an uncorrectable error that it reads (spec/16 R318): in the lane stream at the
split in hand; in the scalar stream at SPC, but for a fetch outside the text, whose record names the word that led there (R22). While another split's
chain is open, and while a hash word is between its steps, a lane word waits.
Rests on notes/assumptions 90 (DEDUCED). -/
def execNonInstructionWord (lane : Bool) (cause : Cause) (addr : DWord) (s : State) : Host.Outcome State Fault Refusal :=
  if lane then
    match s.grp.splits[s.spl] with
    | none => s.wait
    | some p =>
      if s.grp.chainFree s.spl then
        s.laneTrap cause (if cause = 0x100 ∨ cause = 0x103 then (s.laneErrOf s.spl (s.laneInstrAt p.lpc)).bind fun x => x.2 else none) addr
      else s.wait
  else if cause = 0x044 then
    if s.grp.chain.isSome then s.wait
    else .next (s.takeTrap { s.record cause with addr := addr, spc := s.grp.prevSpc } s.grp.spc 0xFFFFFFFF none)
  else s.scalarTrap cause addr 0

end Sys2Proof.Machine
end

