-- ==== Sys2Proof/Machine/Dispatch.lean ====
section
/-! DEFINITION. The meaning of each instruction: one arm per constructor, in the order of spec/opcode_table.json. -/

namespace Sys2Proof.Machine

def exec (i : Instr) (s : State) : Host.Outcome State Fault Refusal :=
  match i with
  | .sadd d a b => Sys2Proof.Machine.execSadd d a b s
  | .ssub d a b => Sys2Proof.Machine.execSsub d a b s
  | .smul d a b => Sys2Proof.Machine.execSmul d a b s
  | .smulh d a b => Sys2Proof.Machine.execSmulh d a b s
  | .smin d a b => Sys2Proof.Machine.execSmin d a b s
  | .smax d a b => Sys2Proof.Machine.execSmax d a b s
  | .sminN d a b => Sys2Proof.Machine.execSminN d a b s
  | .smaxN d a b => Sys2Proof.Machine.execSmaxN d a b s
  | .sand d a b => Sys2Proof.Machine.execSand d a b s
  | .sor d a b => Sys2Proof.Machine.execSor d a b s
  | .sxor d a b => Sys2Proof.Machine.execSxor d a b s
  | .smulhN d a b => Sys2Proof.Machine.execSmulhN d a b s
  | .sshl d a b => Sys2Proof.Machine.execSshl d a b s
  | .sshr d a b => Sys2Proof.Machine.execSshr d a b s
  | .ssra d a b => Sys2Proof.Machine.execSsra d a b s
  | .smov d a => Sys2Proof.Machine.execSmov d a s
  | .scmpEq q a b => Sys2Proof.Machine.execScmpEq q a b s
  | .scmpNe q a b => Sys2Proof.Machine.execScmpNe q a b s
  | .scmpLt q a b => Sys2Proof.Machine.execScmpLt q a b s
  | .scmpLe q a b => Sys2Proof.Machine.execScmpLe q a b s
  | .scmpLtN q a b => Sys2Proof.Machine.execScmpLtN q a b s
  | .scmpLeN q a b => Sys2Proof.Machine.execScmpLeN q a b s
  | .sclz d a => Sys2Proof.Machine.execSclz d a s
  | .spopc d a => Sys2Proof.Machine.execSpopc d a s
  | .sselQ0Q3 d a b k => Sys2Proof.Machine.execSselQ0Q3 d a b k s
  | .sselQ4Q7 d a b k => Sys2Proof.Machine.execSselQ4Q7 d a b k s
  | .sad64 d a b => Sys2Proof.Machine.execSad64 d a b s
  | .smad64 d a b => Sys2Proof.Machine.execSmad64 d a b s
  | .sbfe d a b => Sys2Proof.Machine.execSbfe d a b s
  | .sbfeI d a b => Sys2Proof.Machine.execSbfeI d a b s
  | .sbfi d a b => Sys2Proof.Machine.execSbfi d a b s
  | .saddi d a imm => Sys2Proof.Machine.execSaddi d a imm s
  | .slds d a imm => Sys2Proof.Machine.execSlds d a imm s
  | .sldsD d a imm => Sys2Proof.Machine.execSldsD d a imm s
  | .ssts d a imm => Sys2Proof.Machine.execSsts d a imm s
  | .sstsD d a imm => Sys2Proof.Machine.execSstsD d a imm s
  | .sli d imm => Sys2Proof.Machine.execSli d imm s
  | .slui d imm => Sys2Proof.Machine.execSlui d imm s
  | .ximm imm => Sys2Proof.Machine.execXimm imm s
  | .sbr g o => Sys2Proof.Machine.execSbr g o s
  | .sjmp a => Sys2Proof.Machine.execSjmp a s
  | .sret => Sys2Proof.Machine.execSret s
  | .scall g o => Sys2Proof.Machine.execScall g o s
  | .sloop d imm => Sys2Proof.Machine.execSloop d imm s
  | .lrun d imm => Sys2Proof.Machine.execLrun d imm s
  | .lwait a => Sys2Proof.Machine.execLwait a s
  | .srd d n => Sys2Proof.Machine.execSrd d n s
  | .swr a n => Sys2Proof.Machine.execSwr a n s
  | .cten d imm => Sys2Proof.Machine.execCten d imm s
  | .cgth d imm => Sys2Proof.Machine.execCgth d imm s
  | .csct d imm => Sys2Proof.Machine.execCsct d imm s
  | .cpack d imm => Sys2Proof.Machine.execCpack d imm s
  | .cunpk d imm => Sys2Proof.Machine.execCunpk d imm s
  | .cfill d imm => Sys2Proof.Machine.execCfill d imm s
  | .cbatch d => Sys2Proof.Machine.execCbatch d s
  | .cwait a => Sys2Proof.Machine.execCwait a s
  | .crows a b => Sys2Proof.Machine.execCrows a b s
  | .cstat d a => Sys2Proof.Machine.execCstat d a s
  | .ccncl a => Sys2Proof.Machine.execCcncl a s
  | .hclaim a t => Sys2Proof.Machine.execHclaim a t s
  | .hrel t => Sys2Proof.Machine.execHrel t s
  | .hstat d t => Sys2Proof.Machine.execHstat d t s
  | .hdrain d t => Sys2Proof.Machine.execHdrain d t s
  | .mma d c a b => Sys2Proof.Machine.execMma d c a b s
  | .mmaSpec d c a q b => Sys2Proof.Machine.execMmaSpec d c a q b s
  | .mmas d c a b => Sys2Proof.Machine.execMmas d c a b s
  | .mmasSpec d c a q b => Sys2Proof.Machine.execMmasSpec d c a q b s
  | .mzero c => Sys2Proof.Machine.execMzero c s
  | .mwait c => Sys2Proof.Machine.execMwait c s
  | .mwaitAll => Sys2Proof.Machine.execMwaitAll s
  | .mpri a => Sys2Proof.Machine.execMpri a s
  | .mout d c t => Sys2Proof.Machine.execMout d c t s
  | .moutS d c b => Sys2Proof.Machine.execMoutS d c b s
  | .tshape d t => Sys2Proof.Machine.execTshape d t s
  | .fenceAcq scope => Sys2Proof.Machine.execFenceAcq scope s
  | .fenceRel scope => Sys2Proof.Machine.execFenceRel scope s
  | .fenceAcqrel scope => Sys2Proof.Machine.execFenceAcqrel scope s
  | .fenceSc scope => Sys2Proof.Machine.execFenceSc scope s
  | .pbind d a n => Sys2Proof.Machine.execPbind d a n s
  | .pacqGe a b => Sys2Proof.Machine.execPacqGe a b s
  | .pacqEq a b => Sys2Proof.Machine.execPacqEq a b s
  | .pacqNe a b => Sys2Proof.Machine.execPacqNe a b s
  | .prelAdd a b => Sys2Proof.Machine.execPrelAdd a b s
  | .prelSet a b => Sys2Proof.Machine.execPrelSet a b s
  | .ptest d a => Sys2Proof.Machine.execPtest d a s
  | .rcomb a b => Sys2Proof.Machine.execRcomb a b s
  | .waitaGe q a b => Sys2Proof.Machine.execWaitaGe q a b s
  | .waitaEq q a b => Sys2Proof.Machine.execWaitaEq q a b s
  | .waitaNe q a b => Sys2Proof.Machine.execWaitaNe q a b s
  | .lnch a => Sys2Proof.Machine.execLnch a s
  | .cntr d a => Sys2Proof.Machine.execCntr d a s
  | .cncl a => Sys2Proof.Machine.execCncl a s
  | .gexit => Sys2Proof.Machine.execGexit s
  | .tref d => Sys2Proof.Machine.execTref d s
  | .twait a => Sys2Proof.Machine.execTwait a s
  | .trap imm => Sys2Proof.Machine.execTrap imm s
  | .brk => Sys2Proof.Machine.execBrk s
  | .eret => Sys2Proof.Machine.execEret s
  | .snop => Sys2Proof.Machine.execSnop s
  | .spresize q a => Sys2Proof.Machine.execSpresize q a s
  | .srdp d n => Sys2Proof.Machine.execSrdp d n s
  | .swrp a n => Sys2Proof.Machine.execSwrp a n s
  | .pmark a => Sys2Proof.Machine.execPmark a s
  | .pcnt d a => Sys2Proof.Machine.execPcnt d a s
  | .race a => Sys2Proof.Machine.execRace a s
  | .dstop => Sys2Proof.Machine.execDstop s
  | .nonInstructionWord lane cause addr => Sys2Proof.Machine.execNonInstructionWord lane cause addr s
  | .vadd w => Sys2Proof.Machine.execVadd w s
  | .vsub w => Sys2Proof.Machine.execVsub w s
  | .vmul w => Sys2Proof.Machine.execVmul w s
  | .vmulh w => Sys2Proof.Machine.execVmulh w s
  | .vmad w => Sys2Proof.Machine.execVmad w s
  | .vmadw w => Sys2Proof.Machine.execVmadw w s
  | .vand w => Sys2Proof.Machine.execVand w s
  | .vor w => Sys2Proof.Machine.execVor w s
  | .vxor w => Sys2Proof.Machine.execVxor w s
  | .vlop3 w => Sys2Proof.Machine.execVlop3 w s
  | .vshl w => Sys2Proof.Machine.execVshl w s
  | .vshr w => Sys2Proof.Machine.execVshr w s
  | .vrot w => Sys2Proof.Machine.execVrot w s
  | .vmin w => Sys2Proof.Machine.execVmin w s
  | .vmax w => Sys2Proof.Machine.execVmax w s
  | .vabsd w => Sys2Proof.Machine.execVabsd w s
  | .vclz w => Sys2Proof.Machine.execVclz w s
  | .vpopc w => Sys2Proof.Machine.execVpopc w s
  | .vbrev w => Sys2Proof.Machine.execVbrev w s
  | .vbfe w => Sys2Proof.Machine.execVbfe w s
  | .vbfi w => Sys2Proof.Machine.execVbfi w s
  | .vsel w => Sys2Proof.Machine.execVsel w s
  | .vcmp w => Sys2Proof.Machine.execVcmp w s
  | .vmov w => Sys2Proof.Machine.execVmov w s
  | .vpset w => Sys2Proof.Machine.execVpset w s
  | .vshfl w => Sys2Proof.Machine.execVshfl w s
  | .vbcst w => Sys2Proof.Machine.execVbcst w s
  | .vvote w => Sys2Proof.Machine.execVvote w s
  | .vredx w => Sys2Proof.Machine.execVredx w s
  | .vscan w => Sys2Proof.Machine.execVscan w s
  | .vmatch w => Sys2Proof.Machine.execVmatch w s
  | .fadd w => Sys2Proof.Machine.execFadd w s
  | .fsub w => Sys2Proof.Machine.execFsub w s
  | .fmul w => Sys2Proof.Machine.execFmul w s
  | .ffma w => Sys2Proof.Machine.execFfma w s
  | .fmin w => Sys2Proof.Machine.execFmin w s
  | .fmax w => Sys2Proof.Machine.execFmax w s
  | .fcmp w => Sys2Proof.Machine.execFcmp w s
  | .fclass w => Sys2Proof.Machine.execFclass w s
  | .frnd w => Sys2Proof.Machine.execFrnd w s
  | .ffrc w => Sys2Proof.Machine.execFfrc w s
  | .fexf w => Sys2Proof.Machine.execFexf w s
  | .flg2 w => Sys2Proof.Machine.execFlg2 w s
  | .frcp w => Sys2Proof.Machine.execFrcp w s
  | .frsq w => Sys2Proof.Machine.execFrsq w s
  | .fsqrt w => Sys2Proof.Machine.execFsqrt w s
  | .finsx w => Sys2Proof.Machine.execFinsx w s
  | .fexpx w => Sys2Proof.Machine.execFexpx w s
  | .cvt w => Sys2Proof.Machine.execCvt w s
  | .cvtq w => Sys2Proof.Machine.execCvtq w s
  | .cvtd w => Sys2Proof.Machine.execCvtd w s
  | .pk2 w => Sys2Proof.Machine.execPk2 w s
  | .upk2 w => Sys2Proof.Machine.execUpk2 w s
  | .vbr w => Sys2Proof.Machine.execVbr w s
  | .vswitch w => Sys2Proof.Machine.execVswitch w s
  | .vjmp w => Sys2Proof.Machine.execVjmp w s
  | .vcall w => Sys2Proof.Machine.execVcall w s
  | .vret w => Sys2Proof.Machine.execVret w s
  | .vbrk w => Sys2Proof.Machine.execVbrk w s
  | .vexit w => Sys2Proof.Machine.execVexit w s
  | .vstop w => Sys2Proof.Machine.execVstop w s
  | .lds w => Sys2Proof.Machine.execLds w s
  | .sts w => Sys2Proof.Machine.execSts w s
  | .ldsh w => Sys2Proof.Machine.execLdsh w s
  | .stsh w => Sys2Proof.Machine.execStsh w s
  | .ldtr w => Sys2Proof.Machine.execLdtr w s
  | .sttr w => Sys2Proof.Machine.execSttr w s
  | .qpush w => Sys2Proof.Machine.execQpush w s
  | .qpop w => Sys2Proof.Machine.execQpop w s
  | .qtryPop w => Sys2Proof.Machine.execQtryPop w s
  | .qtryPush w => Sys2Proof.Machine.execQtryPush w s
  | .qallow w => Sys2Proof.Machine.execQallow w s
  | .bar w => Sys2Proof.Machine.execBar w s
  | .hins w => Sys2Proof.Machine.execHins w s
  | .hprb w => Sys2Proof.Machine.execHprb w s
  | .hdel w => Sys2Proof.Machine.execHdel w s
  | .hacc w => Sys2Proof.Machine.execHacc w s
  | .ats w => Sys2Proof.Machine.execAts w s
  | .atm w => Sys2Proof.Machine.execAtm w s
  | .adcas w => Sys2Proof.Machine.execAdcas w s
  | .axmv w => Sys2Proof.Machine.execAxmv w s
  | .ared w => Sys2Proof.Machine.execAred w s
  | .laneFence w => Sys2Proof.Machine.execLaneFence w s
  | .lanePmark w => Sys2Proof.Machine.execLanePmark w s
  | .lanePcnt w => Sys2Proof.Machine.execLanePcnt w s
  | .laneRace w => Sys2Proof.Machine.execLaneRace w s
  | .laneDstop w => Sys2Proof.Machine.execLaneDstop w s
  | .launchPacket q => Sys2Proof.Machine.execLaunchPacket q s
  | .graphPacket q => Sys2Proof.Machine.execGraphPacket q s
  | .fencePacket q => Sys2Proof.Machine.execFencePacket q s
  | .signalPacket q => Sys2Proof.Machine.execSignalPacket q s
  | .timestampPacket q => Sys2Proof.Machine.execTimestampPacket q s
  | .cancelPacket q => Sys2Proof.Machine.execCancelPacket q s
  | .traceOpen q => Sys2Proof.Machine.execTraceOpen q s
  | .traceClose q => Sys2Proof.Machine.execTraceClose q s
  | .traceFlush q => Sys2Proof.Machine.execTraceFlush q s
  | .nopPacket q => Sys2Proof.Machine.execNopPacket q s
  | .queueReset q => Sys2Proof.Machine.execQueueReset q s
  | .replyRetry f c tag => Sys2Proof.Machine.execReplyRetry f c tag s
  | .replyFail f c tag => Sys2Proof.Machine.execReplyFail f c tag s
  | .teamPlacement l t core spad slots => Sys2Proof.Machine.execTeamPlacement l t core spad slots s
  | .nodeEntersPool g n => Sys2Proof.Machine.execNodeEntersPool g n s
  | .laneBlockStart t g => Sys2Proof.Machine.execLaneBlockStart t g s
  | .splitArrival t g k => Sys2Proof.Machine.execSplitArrival t g k s
  | .pathEntryLoad t g => Sys2Proof.Machine.execPathEntryLoad t g s
  | .guidonResolution t g k taken other => Sys2Proof.Machine.execGuidonResolution t g k taken other s
  | .queueDeadlock t => Sys2Proof.Machine.execQueueDeadlock t s
  | .issuePromotion t c => Sys2Proof.Machine.execIssuePromotion t c s
  | .sampleSpill core imm => Sys2Proof.Machine.execSampleSpill core imm s
  | .copyElementTranslate t g seq ch => Sys2Proof.Machine.execCopyElementTranslate t g seq ch s
  | .translationFault t g seq => Sys2Proof.Machine.execTranslationFault t g seq s
  | .copyRowLanded t g seq => Sys2Proof.Machine.execCopyRowLanded t g seq s
  | .relockEnd d => Sys2Proof.Machine.execRelockEnd d s
  | .commandEnd t g seq => Sys2Proof.Machine.execCommandEnd t g seq s
  | .combiningEntryEvict core imm => Sys2Proof.Machine.execCombiningEntryEvict core imm s
  | .clusterAtomicWriteback cl imm => Sys2Proof.Machine.execClusterAtomicWriteback cl imm s
  | .homeReduction c => Sys2Proof.Machine.execHomeReduction c s
  | .waitaMonitorSatisfied t g => Sys2Proof.Machine.execWaitaMonitorSatisfied t g s
  | .pacqSatisfied t g => Sys2Proof.Machine.execPacqSatisfied t g s
  | .rcombRoundComplete k order => Sys2Proof.Machine.execRcombRoundComplete k order s
  | .matrixPass t age => Sys2Proof.Machine.execMatrixPass t age s
  | .mzeroStep t age => Sys2Proof.Machine.execMzeroStep t age s
  | .moutStep t age => Sys2Proof.Machine.execMoutStep t age s
  | .arbiterStarvation t age => Sys2Proof.Machine.execArbiterStarvation t age s
  | .twaitExpiry t g => Sys2Proof.Machine.execTwaitExpiry t g s
  | .teamStartTime l => Sys2Proof.Machine.execTeamStartTime l s
  | .fenceHostPoll q => Sys2Proof.Machine.execFenceHostPoll q s
  | .teamRetire t => Sys2Proof.Machine.execTeamRetire t s
  | .launchComplete l => Sys2Proof.Machine.execLaunchComplete l s
  | .faultSave t => Sys2Proof.Machine.execFaultSave t s
  | .teamRestore imm t core spad slots => Sys2Proof.Machine.execTeamRestore imm t core spad slots s
  | .haltTimeout core => Sys2Proof.Machine.execHaltTimeout core s
  | .asyncTrapDelivery t g => Sys2Proof.Machine.execAsyncTrapDelivery t g s
  | .recordWrite c replayable => Sys2Proof.Machine.execRecordWrite c replayable s
  | .streamerRecordWrite c => Sys2Proof.Machine.execStreamerRecordWrite c s
  | .cacheWriteBack p line => Sys2Proof.Machine.execCacheWriteBack p line s
  | .queueDoorbell f q widx => Sys2Proof.Machine.execQueueDoorbell f q widx s
  | .queueStateWrite f q st => Sys2Proof.Machine.execQueueStateWrite f q st s
  | .counterTargetWrite f k target => Sys2Proof.Machine.execCounterTargetWrite f k target s
  | .slotRecordWrite f k raw => Sys2Proof.Machine.execSlotRecordWrite f k raw s
  | .shapeEntryCommit f c last => Sys2Proof.Machine.execShapeEntryCommit f c last s
  | .contextDescriptorWrite c raw => Sys2Proof.Machine.execContextDescriptorWrite c raw s
  | .invalidation f c va logsz => Sys2Proof.Machine.execInvalidation f c va logsz s
  | .ringStatusClear f c bits => Sys2Proof.Machine.execRingStatusClear f c bits s
  | .stopRequest f c launch team grp => Sys2Proof.Machine.execStopRequest f c launch team grp s
  | .resumeCommand f c launch team grp => Sys2Proof.Machine.execResumeCommand f c launch team grp s
  | .partitionSwitch p ctx => Sys2Proof.Machine.execPartitionSwitch p ctx s
  | .partitionSeal p => Sys2Proof.Machine.execPartitionSeal p s
  | .partitionScrub p => Sys2Proof.Machine.execPartitionScrub p s
  | .tdpWrite watts => Sys2Proof.Machine.execTdpWrite watts s
  | .serviceClear bits => Sys2Proof.Machine.execServiceClear bits s
  | .measurementExtend m component => Sys2Proof.Machine.execMeasurementExtend m component s
  | .quoteRequest nonce => Sys2Proof.Machine.execQuoteRequest nonce s
  | .registerWrite f off size value => Sys2Proof.Machine.execRegisterWrite f off size value s
  | .barAtomicop f off => Sys2Proof.Machine.execBarAtomicop f off s
  | .deviceReset => Sys2Proof.Machine.execDeviceReset s
  | .firmwareBoot a b seed spares => Sys2Proof.Machine.execFirmwareBoot a b seed spares s
  | .readinessBitSet b => Sys2Proof.Machine.execReadinessBitSet b s
  | .dieLost d => Sys2Proof.Machine.execDieLost d s
  | .dieLinkPortFailed a b => Sys2Proof.Machine.execDieLinkPortFailed a b s
  | .linkFlitRetry => Sys2Proof.Machine.execLinkFlitRetry s
  | .bisuoshLaneLoss p => Sys2Proof.Machine.execBisuoshLaneLoss p s
  | .bisuoshPortFailed p => Sys2Proof.Machine.execBisuoshPortFailed p s
  | .peerInboundRequest src addr r => Sys2Proof.Machine.execPeerInboundRequest src addr r s
  | .ptpMessage time => Sys2Proof.Machine.execPtpMessage time s
  | .powerLimitReached => Sys2Proof.Machine.execPowerLimitReached s
  | .frequencyStep d n lock => Sys2Proof.Machine.execFrequencyStep d n lock s
  | .thermalTrip => Sys2Proof.Machine.execThermalTrip s
  | .powerTrip => Sys2Proof.Machine.execPowerTrip s
  | .correctedErrorThreshold u => Sys2Proof.Machine.execCorrectedErrorThreshold u s
  | .hbmRowSpare k row => Sys2Proof.Machine.execHbmRowSpare k row s
  | .coreRetirement core => Sys2Proof.Machine.execCoreRetirement core s
  | .hubInternalError => Sys2Proof.Machine.execHubInternalError s
  | .stallSample core quarter reason blame reasonL blameL => Sys2Proof.Machine.execStallSample core quarter reason blame reasonL blameL s
  | .pcieLinkDegraded => Sys2Proof.Machine.execPcieLinkDegraded s
  | .managementProcessorAccess a => Sys2Proof.Machine.execManagementProcessorAccess a s

end Sys2Proof.Machine
end

