-- ==== Sys2Proof/Machine/Turn.lean ====
section
/-! DEFINITION. Which turns go: the contender that a quarter chooses (spec/15 R313), the units of single step (spec/17 R351), and what an HDRAIN in
progress bars (spec/09 R185, R187). -/

namespace Sys2Proof.Machine

/-- True where an actor's turn would do something other than wait. -/
def State.goes (s : State) (a : Act) : Bool :=
  match s.choose a with
  | (_, none) => false
  | (s1, some i) => match exec i s1 with | .next s2 => !s2.blocked | _ => true

/-- A contender for a slot of a core: a group and, for a lane slot, its split. -/
abbrev Contender := TeamIx × GrpIx × SplitIx

/-- The turn of a contender. -/
def contenderAct (lane : Bool) (x : Contender) : Act := if lane then .lane x.1 x.2.1 x.2.2 else .scalar x.1 x.2.1

/-- A contender of a quarter of a core that can issue.
Rests on notes/assumptions 63 (DEDUCED). -/
def State.contends (s : State) (c : CoreIx) (q : Fin 4) (lane : Bool) (x : Contender) : Bool :=
  s.teams[x.1].live && s.teams[x.1].core == c && Fin.ofNat 4 (s.teams[x.1].slot x.2.1) == q && s.goes (contenderAct lane x)

/-- The place of a contender in the order of choice, least first: promoted, higher priority, placed earlier, and rank (R313); groups placed together go by
slot.
Rests on notes/assumptions 63 (DEDUCED). -/
def State.place (s : State) (lane : Bool) (x : Contender) : List Nat :=
  let t := s.teams[x.1]
  let promoted := (s.cores[t.core].promoted.contains (x.1, x.2.1, if lane then some x.2.2 else none))
  [if promoted then 0 else 1, 3 - t.prio, t.placed, t.slot x.2.1, match t.groups[x.2.1].splits[x.2.2] with | some p => if lane then p.rank else 0 | none => 0]

/-- The contender that is chosen. -/
def State.winner (s : State) (lane : Bool) (xs : List Contender) : Option Contender :=
  xs.foldl (fun b x => match b with | none => some x | some y => some (if s.place lane x < s.place lane y then x else y)) none

/-- Who moves in a turn: of a slot's, the contender that is chosen among the ready ones (R313).
Rests on notes/assumptions 63 (DEDUCED). -/
def State.resolve (s : State) (a : Act) : Act :=
  match a with
  | .slot c q lane ready => match s.winner lane (ready.filter fun x => s.contends c q lane x) with | some x => contenderAct lane x | none => a
  | _ => a

/-- A stream of a group under single step that is not its turn: the unit is the scalar stream's next word if that can issue, else the next chain of the
lowest-ranked split that can, which then goes on alone (spec/17 R351).
Rests on notes/assumptions 74 (DEDUCED). -/
def State.notUnit (s : State) (a : Act) : Bool :=
  match a with
  | .scalar t g => s.teams[t].groups[g].stepping && s.teams[t].groups[g].chain.isSome
  | .lane t g k =>
    let x := s.teams[t].groups[g]
    x.stepping && x.chain.isNone &&
      (s.goes (.scalar t g) || (List.finRange 4).any fun j =>
        (match x.splits[j], x.splits[k] with | some p, some q => decide (p.rank < q.rank) | _, _ => false) && s.goes (.lane t g j))
  | _ => false

/-- The team whose divergence an actor's turn may change. -/
def Act.divider : Act → Option TeamIx
  | .lane t _ _ => some t
  | .event (.guidonResolution t ..) => some t
  | _ => none

/-- What a turn may not do while an HDRAIN runs (spec/09 R185, R187): a trap of the group whose HDRAIN, HREL or HSTAT is in progress waits for its end, and
so does a divergence that would take a pool entry over the output area.
Rests on notes/assumptions 32 (DEDUCED). -/
def State.drainBars (s : State) (a : Act) (t : State) : Bool :=
  match a.divider with
  | none => false
  | some u =>
    (s.cur == u && s.draining && !s.trapped && t.trapped) ||
    (s.teams[u].tabs.any fun h => h.dstate && (List.finRange 32).any fun i =>
      s.teams[u].pool[i] == .free && t.teams[u].pool[i] != .free && overlaps (t.teams[u].poolAddr i) 64 h.dout.1 h.dout.2)

/-- After a turn that ran i from s to t: a word of a stream is the producer of its destinations (spec/17 R339), and the rest of the step is settled. -/
def State.afterTurn (s : State) (a : Act) (i : Instr) (t : State) : State :=
  (match a with
   | .scalar _ _ => s.issuedTo false i t
   | .lane _ _ _ => s.issuedTo true i t
   | _ => t).settle a (isUnit i)

end Sys2Proof.Machine
end

