-- ==== Sys2Proof/Machine/Step.lean ====
section
/-! DEFINITION. One step of the machine: the turn that comes next, its instruction, and the meaning of that instruction; and the placing of one
instruction where the next step fetches it. -/

namespace Sys2Proof.Machine

/-- The steps that a machine whose clocks have stopped still takes (spec/18 R371). -/
def runsHalted (a : Act) : Bool :=
  match a with
  | .event .deviceReset => true
  | _ => false

/-- An actor that has no instruction. -/
def State.outside (s : State) (a : Act) : Option State :=
  match a with
  | .outer o => some (s.outerStep o)
  | _ => none

/-- A turn at which nothing can be done. -/
def State.idle (s : State) (a : Act) : Host.Outcome State Fault Refusal := .next ({ s with blocked := true }.settle a false)

/-- Rests on notes/assumptions 84 (DEDUCED). -/
def step (s : State) : Host.Outcome State Fault Refusal :=
  let x := s.nextTurn
  let b := s.begin x.1 x.2
  let a := b.resolve x.1.act
  if s.halted && !runsHalted a then .fault .clocksStopped
  else
    match b.outside a with
    | some s1 => .next (s1.settle a false)
    | none =>
      match b.choose a with
      | (s1, none) => s1.idle a
      | (s1, some i) =>
        if b.notUnit a || b.shutOut a then s1.idle a
        else
          match exec i s1 with
          | .next s2 => if s1.drainBars a s2 then s1.idle a else .next (s1.afterTurn a i s2)
          | .fault r => .fault r
          | .refused r => .refused r

/-- The state with one instruction where the next step fetches it: a lane word of 96 bits in the running block of the group in hand, else a scalar word
at its SPC (Load.lean).
Rests on notes/assumptions 4 (DESIGN CHOICE). -/
def State.withFetchWord (s : State) (nbits w : Nat) : State :=
  if nbits = 96 then s.placeLane w else s.placeScalar w

end Sys2Proof.Machine
end

