-- ==== Sys2Proof/Safety.lean ====
section
/-! DEFINITION. What a safe step is, and the shape that every step keeps. -/

namespace Sys2Proof.Safety

open Sys2Proof.Machine

/-- Every byte store of a team is in canonical form. -/
def teamStores (t : Team) : Bool := Memory.wf t.spad && t.tiles.all fun x => Memory.wf x.bytes

/-- Every byte store of the machine, those of saved teams among them, is in canonical form. -/
def stores (s : State) : Bool :=
  Memory.wf s.mem && Memory.wf s.hostMem && Memory.wf s.peerMem && s.teams.all teamStores && s.saved.all fun x => teamStores x.team

/-- A step that answers a next state: neither a fault nor a refusal. -/
def stepsOn (s : State) : Prop := ∃ t, step s = .next t

/-- What a step from s makes of the outcome of the instruction i that its actor ran (spec/17 R339, R351). -/
def settled (s : State) (a : Act) (i : Instr) : Host.Outcome State Fault Refusal → Host.Outcome State Fault Refusal
  | .next t => .next (s.afterTurn a i t)
  | .fault r => .fault r
  | .refused r => .refused r

/-! ## Frames -/

/-- Nothing differs but the group in hand and event counters (spec/17 R349): every byte of every memory, every register of every other group, every
table of the hub and of the outside is as it was. -/
def groupOnly (s t : State) : Prop :=
  t = { s.setGrp t.grp with cores := t.cores } ∧ ∀ c : CoreIx, t.cores[c] = { s.cores[c] with cnt := t.cores[c].cnt }

/-- A state with the notes that another has of what scratchpad words held before stores that some stream need not see yet (spec/08 R154). -/
def withPast (s t : State) : State := s.modTeam fun u => { u with past := t.team.past }

/-- Nothing differs but the group in hand, event counters, and which streams the notes on earlier stores name; without such notes, there are none after. -/
def groupPast (s t : State) : Prop := groupOnly (withPast s t) t ∧ (s.team.past = [] → t.team.past = [])

/-- Nothing differs but the group in hand, event counters, and the scratchpad of its team with its poison marks and the notes on what it held. -/
def padOnly (s t : State) : Prop :=
  t = { (s.modTeam fun u => { u with spad := t.team.spad, spadPoison := t.team.spadPoison, past := t.team.past }).setGrp t.grp with cores := t.cores } ∧
  ∀ c : CoreIx, t.cores[c] = { s.cores[c] with cnt := t.cores[c].cnt }

/-- Nothing differs but the team in hand, event counters, and what the contexts' Streamer sessions hold (spec/17 R341). -/
def teamAndTrace (s t : State) : Prop :=
  t = { s.setTeam t.team with cores := t.cores, ctxs := t.ctxs } ∧ (∀ c : CoreIx, t.cores[c] = { s.cores[c] with cnt := t.cores[c].cnt }) ∧
  ∀ c : CtxIx, t.ctxs[c] = { s.ctxs[c] with session := t.ctxs[c].session }

/-- The group after a scalar word of n bytes that wrote scalar registers alone: SPC has moved past the word, and the word that led there is
remembered (spec/02 R21, R22). -/
def wordDone (s t : State) (n : Nat) : Prop :=
  t.grp = { s.grp with sregs := t.grp.sregs, errs := t.grp.errs, prevSpc := s.grp.spc, spc := s.grp.spc + BitVec.ofNat 32 n,
                       scalCnt := s.grp.scalCnt + BitVec.ofNat 64 (n / 4) }

/-- A scalar word of n bytes completed, and changed no register outside ds and nothing else. -/
def scalarEnd (s t : State) (n : Nat) (ds : List Reg) : Prop := groupOnly s t ∧ wordDone s t n ∧ ∀ r, r ∉ ds → t.sr r = s.sr r

/-- A scalar load of n bytes completed, and changed no register outside ds and nothing else but which of the earlier values its stream has passed. -/
def scalarEndPast (s t : State) (n : Nat) (ds : List Reg) : Prop := groupPast s t ∧ wordDone s t n ∧ ∀ r, r ∉ ds → t.sr r = s.sr r

/-- The first write of q can still resolve a speculative matrix request of the group in hand (spec/14 R282). -/
def predWatched (s : State) (q : BitVec 3) : Prop := ∃ k : Fin 8, s.team.accs[k].pend = some (s.gix, q)

/-- A scalar word of 4 bytes wrote v to q predicate q and completed: q7 keeps reading true (spec/02 R25), and nothing else differs unless a speculative
request waits for q. -/
def predEnd (s t : State) (q : BitVec 3) (v : Bool) : Prop :=
  t.qr q = (v || q == 7) ∧ (∀ p, p ≠ q → t.qr p = s.qr p) ∧ (∀ r, t.sr r = s.sr r) ∧ t.mem = s.mem ∧ t.team.spad = s.team.spad ∧
  t.grp = { s.grp with qregs := t.grp.qregs, errs := t.grp.errs, prevSpc := s.grp.spc, spc := s.grp.spc + 4, scalCnt := s.grp.scalCnt + 1 } ∧
  (¬ predWatched s q → groupOnly s t)

/-- The byte of a team's scratchpad at an address. -/
def padByte (s : State) (a : Nat) : Byte := Memory.read s.team.spad a

/-- The n bytes at an address of the scratchpad as a number, the lowest address lowest (spec/00 R3). -/
def padNum (s : State) (a : Nat) : Nat → Nat
  | 0 => 0
  | n + 1 => (padByte s a).toNat + 256 * padNum s (a + 1) n

/-- The values that a load of the group in hand, by its lanes or its scalar stream, may find in the word at a: what stands there, or what stood there before a
store that the stream need not see yet (spec/03 R63, spec/08 R154; notes/assumptions 110). -/
def readable (s : State) (lanes : Bool) (a : Nat) (w : Word) : Prop :=
  w.toNat = padNum s a 4 ∨
  ∃ p ∈ s.team.past, p.a = a ∧ p.val = w ∧ (s.gix, lanes) ∉ p.seen ∧ (lanes = false → p.rel = false) ∧ s.die.ccyc.toNat < p.til

/-- f holds, for every word of the scratchpad, a value that a lane load may find there. -/
def lanesFind (s : State) (f : Nat → Word) : Prop := ∀ y, y % 4 = 0 → readable s true y (f y)

/-- The little-endian number in the n bytes at a of the words f (spec/00 R3). -/
def wordsNum (f : Nat → Word) (a : Nat) : Nat → Nat
  | 0 => 0
  | n + 1 => (f (a - a % 4)).toNat / 2 ^ (8 * (a % 4)) % 256 + 256 * wordsNum f (a + 1) n

/-- A scalar access of n bytes at a team address that takes no trap: aligned, within SPADSIZE, and clear of every pool entry in use (spec/03 R62,
spec/07 R134). -/
def padFree (s : State) (a n : Nat) : Prop := a % n = 0 ∧ a + n ≤ s.team.spadSize ∧ s.team.poolTouched a n = false

/-! ## Numbers -/

/-- The number is finite, and v is its value. -/
def isReal (x : Machine.Num) (v : ℝ) : Prop :=
  match x with
  | .fin n m e => v = (if n then -1 else 1) * (m : ℝ) * (2 : ℝ) ^ e
  | _ => False

/-- k is the exponent of the leading one bit of a nonzero y: ilog2 |y| (spec/05 R109). -/
def isLog2 (y : ℝ) (k : ℤ) : Prop := (2 : ℝ) ^ k ≤ |y| ∧ |y| < (2 : ℝ) ^ (k + 1)

/-- The integer k is x rounded in a mode (spec/05 R101). -/
def roundsInt (mode : RMode) (x : ℝ) (k : ℤ) : Prop :=
  match mode with
  | .rne => |x - k| ≤ 1 / 2 ∧ (|x - k| = 1 / 2 → k % 2 = 0)
  | .rtz => |(k : ℝ)| ≤ |x| ∧ |x| < |(k : ℝ)| + 1 ∧ 0 ≤ (k : ℝ) * x
  | .rdn => (k : ℝ) ≤ x ∧ x < k + 1
  | .rup => (k : ℝ) - 1 < x ∧ x ≤ k
  | .rna => |x - k| ≤ 1 / 2 ∧ (|x - k| = 1 / 2 → |x| < |(k : ℝ)|)

/-- The code and the flags are those of a nonzero x rounded once to a format: to a multiple of the spacing at x, with the overflow of spec/05 R102, and the
flags OF, UF, judged after rounding, and NX of R103. -/
def roundsTo (f : FloatFmt) (mode : RMode) (sat : Bool) (x : ℝ) (r : Nat × BitVec 5) : Prop :=
  ∀ (neg : Bool) (top : ℤ) (big : ℝ), (neg = true ↔ x < 0) → isLog2 x top → isReal (f.decode f.maxFin) big →
    let low : ℤ := 1 - f.bias
    let step : ℤ := max top low - f.mbits
    ∃ k j : ℤ, roundsInt mode (x / (2 : ℝ) ^ step) k ∧ roundsInt mode (x / (2 : ℝ) ^ (top - f.mbits)) j ∧
      let v : ℝ := k * (2 : ℝ) ^ step
      let tiny : Prop := |j * (2 : ℝ) ^ (top - f.mbits)| < (2 : ℝ) ^ low
      (big < |v| →
        r.1 = (if sat = true ∨ mode = .rtz ∨ (mode = .rdn ∧ neg = false) ∨ (mode = .rup ∧ neg = true) then f.withSign neg f.maxFin
               else if f.hasInf then f.withSign neg (f.maxFin + 1) else f.nan) ∧ r.2 = flagOF ||| flagNX) ∧
      (|v| ≤ big → isReal (f.decode r.1) v ∧ r.1 < 2 ^ (f.signBit + 1) ∧ (v = 0 → r.1 = f.withSign neg 0) ∧ (v = x → r.2 = 0) ∧
        (v ≠ x → tiny → r.2 = flagUF ||| flagNX) ∧ (v ≠ x → ¬ tiny → r.2 = flagNX))

/-- The code is a finite value within k ulp of a nonzero y (spec/06 R123). -/
def withinUlps (f : FloatFmt) (k : Nat) (y : ℝ) (code : Nat) : Prop :=
  ∀ top : ℤ, isLog2 y top → code < 2 ^ (f.signBit + 1) ∧
    ∃ v : ℝ, isReal (f.decode code) v ∧ |v - y| ≤ k * (2 : ℝ) ^ (max top (1 - (f.bias : ℤ)) - f.mbits)

/-- A product that is NaN: of a NaN, or of an infinity and a zero (spec/05 R96, spec/14 R277). -/
def nanProduct (x : Machine.Num × Machine.Num) : Prop :=
  x.1.isNan = true ∨ x.2.isNan = true ∨ ∃ n, (x.1 = .inf n ∧ isReal x.2 0) ∨ (x.2 = .inf n ∧ isReal x.1 0)

/-- A product that is the infinity of a sign. -/
def infProduct (neg : Bool) (x : Machine.Num × Machine.Num) : Prop :=
  ¬ nanProduct x ∧ ((∃ n, x.1 = .inf n) ∨ ∃ n, x.2 = .inf n) ∧ neg = (numNeg x.1 != numNeg x.2)

/-- v is what a chunk of products adds to an FP32 element (spec/14 R277): their sum over a window of 44 bits below the greatest, rounded once. -/
def chunkAdds (xs : List (Machine.Num × Machine.Num)) (v : Nat) : Prop :=
  ((∃ x ∈ xs, nanProduct x) → v = fp32.nan) ∧
  ((∃ x ∈ xs, infProduct false x) → (∃ x ∈ xs, infProduct true x) → v = fp32.nan) ∧
  (∀ n, (∀ x ∈ xs, ¬ nanProduct x ∧ ¬ infProduct (!n) x) → (∃ x ∈ xs, infProduct n x) → v = fp32.withSign n (fp32.maxFin + 1)) ∧
  ∀ ps : List ℝ, List.Forall₂ (fun x p => ∃ a b, isReal x.1 a ∧ isReal x.2 b ∧ p = a * b) xs ps →
    ((∀ p ∈ ps, p = 0) → v = 0) ∧
    ∀ e : ℤ, (∃ p ∈ ps, p ≠ 0 ∧ isLog2 p e) → (∀ p ∈ ps, |p| < (2 : ℝ) ^ (e + 1)) →
      let sum : ℤ := (ps.map fun p => ⌊p / (2 : ℝ) ^ (e - 44)⌋).sum
      (sum = 0 → v = 0) ∧ (sum ≠ 0 → ∃ fl, roundsTo fp32 .rne false (sum * (2 : ℝ) ^ (e - 44)) (v, fl))

/-! ## Lane words -/

/-- Split p of the group in hand stands at the word that runs, no other split's chain is open (spec/04 R92), and no hash word of its own is between its
steps (spec/09 R181). -/
def inHand (s : State) (p : Split) : Prop :=
  s.grp.splits[s.spl] = some p ∧ (∀ c, s.grp.chain = some c → c.split = s.spl ∧ c.hash = none) ∧ ∀ c ∈ s.grp.parked, c.split ≠ s.spl

/-- The lanes that execute a word of split p (spec/02 R31). -/
def lanesOf (s : State) (p : Split) (w : LaneWord) : Mask := p.mask &&& s.grp.guardMask w.guard

/-- The state in which a word of split p reads its operands: where it opens a chain, the latches read zero (spec/02 R31). -/
def opened (s : State) (p : Split) : State := s.openChain s.spl p.lpc

/-- The flags that the open chain has raised so far. -/
def chainFlags (s : State) : BitVec 5 :=
  match s.grp.chain with
  | some c => c.flags.foldl (fun a f => a ||| joinFlags f.2) 0
  | none => 0

/-- No enabled flag traps when a word that raises fl ends: it holds the chain open, or no flag of the chain is enabled (spec/06 R126). -/
def noFlagTrap (s : State) (w : LaneWord) (fl : BitVec 5) : Prop :=
  w.hold = true ∨ (chainFlags s ||| fl) &&& s.grp.enables.extractLsb' 0 5 = 0

/-- Every byte of memory and of scratchpad, every tile and every scalar register and predicate stays. -/
def storesNothing (s t : State) : Prop :=
  t.mem = s.mem ∧ t.hostMem = s.hostMem ∧ t.peerMem = s.peerMem ∧ t.team.spad = s.team.spad ∧ t.team.tiles = s.team.tiles ∧
  t.grp.sregs = s.grp.sregs ∧ t.grp.qregs = s.grp.qregs

/-- The group in hand after a lane word of split p that raised fl fell through to the next word: nothing of it differs but its vector registers, lane
predicates and latches with their error marks and the lanes noted as written, its place, its chain, which is open exactly under HOLD, and the flags of
its block at the chain's end. -/
def laneMoved (s t : State) (p : Split) (w : LaneWord) (fl : BitVec 5) : Prop :=
  t.grp.chain.isSome = w.hold ∧
  t.grp = { s.grp with vregs := t.grp.vregs, preds := t.grp.preds, latches := t.grp.latches, chain := t.grp.chain, laneCnt := s.grp.laneCnt + 1,
                       errs := t.grp.errs, late := t.grp.late,
                       splits := s.grp.splits.set s.spl (some { p with lpc := p.lpc + 1, atBar := none }),
                       blocks := if w.hold then s.grp.blocks
                                 else (s.grp.modBlock fun b => { b with flags := b.flags ||| (chainFlags s ||| fl) }).blocks }

/-- A lane word of split p that raised fl fell through to the next word: it stores nothing, and without an enabled flag nothing differs but the group. -/
def laneFell (s t : State) (p : Split) (w : LaneWord) (fl : BitVec 5) : Prop :=
  storesNothing s t ∧ (noFlagTrap s w fl → groupOnly s t ∧ laneMoved s t p w fl)

/-- A lane word fell through as above, but for which streams the notes on earlier stores name. -/
def laneFellPast (s t : State) (p : Split) (w : LaneWord) (fl : BitVec 5) : Prop :=
  storesNothing s t ∧ (noFlagTrap s w fl → groupPast s t ∧ laneMoved s t p w fl)

/-- A 32-bit vector result v of a word of split p: DST takes it in the executing lanes unless NOWB, the latch DLAT takes it zero-extended, and every other
vector register, latch and lane predicate keeps its value (spec/02 R31). -/
def wrote32 (s t : State) (p : Split) (w : LaneWord) (v : Fin 64 → Word) : Prop :=
  let e := lanesOf s p w
  t.grp.preds = s.grp.preds ∧
  (∀ (r : Reg) (l : Fin 64), t.grp.vregs[r.toNat][l] = if w.nowb = false ∧ r = w.dst ∧ e.getLsbD l.val = true then v l else s.grp.vregs[r.toNat][l]) ∧
  (∀ (b : BitVec 2) (l : Fin 64), t.grp.latches[b.toNat][l] =
    if b = w.dlat ∧ e.getLsbD l.val = true then (v l).zeroExtend 64 else (opened s p).grp.latches[b.toNat][l])

/-- A 64-bit vector result: the pair at DST and the latch. -/
def wrote64 (s t : State) (p : Split) (w : LaneWord) (v : Fin 64 → DWord) : Prop :=
  let e := lanesOf s p w
  t.grp.preds = s.grp.preds ∧
  (∀ (r : Reg) (l : Fin 64), t.grp.vregs[r.toNat][l] =
    if w.nowb = false ∧ e.getLsbD l.val = true ∧ r = w.dst then (v l).extractLsb' 0 32
    else if w.nowb = false ∧ e.getLsbD l.val = true ∧ r = w.dst + 1 then (v l).extractLsb' 32 32
    else s.grp.vregs[r.toNat][l]) ∧
  (∀ (b : BitVec 2) (l : Fin 64), t.grp.latches[b.toNat][l] =
    if b = w.dlat ∧ e.getLsbD l.val = true then v l else (opened s p).grp.latches[b.toNat][l])

/-- A vector result of the width of the word's type. -/
def wrote (s t : State) (p : Split) (w : LaneWord) (v : Fin 64 → Nat) : Prop :=
  if wideType w.type then wrote64 s t p w fun l => BitVec.ofNat 64 (v l) else wrote32 s t p w fun l => BitVec.ofNat 32 (v l)

/-- A value of the width of an access, in each executing lane: up to 4 bytes extended by the type, 8 bytes in a pair, 16 bytes in four registers, of which
the latch takes the low 8 (spec/08 R153). -/
def loaded (s t : State) (p : Split) (w : LaneWord) (v : Fin 64 → Nat) : Prop :=
  let e := lanesOf s p w
  (accessBytes w.type ≤ 4 → wrote32 s t p w fun l => BitVec.ofNat 32 (fmtExtend w.type.toNat (v l))) ∧
  (accessBytes w.type = 8 → wrote64 s t p w fun l => BitVec.ofNat 64 (v l)) ∧
  (accessBytes w.type = 16 → t.grp.preds = s.grp.preds ∧
    (∀ (r : Reg) (l : Fin 64), t.grp.vregs[r.toNat][l] =
      if w.nowb = false ∧ e.getLsbD l.val = true ∧ (r - w.dst).toNat < 4 then BitVec.ofNat 32 (v l / 2 ^ (32 * (r - w.dst).toNat))
      else s.grp.vregs[r.toNat][l]) ∧
    (∀ (b : BitVec 2) (l : Fin 64), t.grp.latches[b.toNat][l] =
      if b = w.dlat ∧ e.getLsbD l.val = true then BitVec.ofNat 64 (v l) else (opened s p).grp.latches[b.toNat][l]))

/-- A predicate result: predicate k takes v in the executing lanes, a write to p7 is discarded, and vector registers and other predicates stay. -/
def wrotePred (s t : State) (p : Split) (w : LaneWord) (k : Nat) (v : Fin 64 → Bool) : Prop :=
  let e := lanesOf s p w
  t.grp.vregs = s.grp.vregs ∧
  ∀ (j : Nat) (l : Fin 64), (t.grp.pred j).getLsbD l.val =
    if j = k ∧ k < 7 ∧ e.getLsbD l.val = true then v l else (s.grp.pred j).getLsbD l.val

/-- A word that writes no vector register, latch or lane predicate. -/
def wroteNone (s t : State) (p : Split) : Prop :=
  t.grp.preds = s.grp.preds ∧ t.grp.vregs = s.grp.vregs ∧ t.grp.latches = (opened s p).grp.latches

/-- Bytes cut over the requests of a span: where each request puts its share. -/
def cutOver : List (Nat × Nat × TlbE) → List Byte → List (Nat × List Byte)
  | [], _ => []
  | (va, n, e) :: l, b => (e.addr va, b.take n) :: cutOver l (b.drop n)

/-- Every request goes to a page of the host that is not poisoned. -/
def toHost (l : List (Nat × Nat × TlbE)) : Prop := ∀ x ∈ l, x.2.2.space = .host ∧ x.2.2.poison = false

/-- A page of device memory that no cache holds, on a home that is up and does not relock, over n bytes that a stack holds and that carry no poison. -/
def plainHome (s : State) (e : TlbE) (va n : Nat) : Prop :=
  e.space = .device ∧ e.poison = false ∧ s.homeBusy (e.home (e.addr va)) = false ∧ s.homeUp (e.home (e.addr va)) = true ∧
  e.addr va + n ≤ devBytes ∧ s.homePoisoned (e.addr va) n = false

/-- The n bytes at home from pa on take the number v, lowest byte first, and every other byte of device memory stays. -/
def homeTakes (s t : State) (pa n v : Nat) : Prop :=
  Memory.readLe t.mem pa n = v % 2 ^ (8 * n) ∧ ∀ y, ¬ (pa ≤ y ∧ y < pa + n) → Memory.read t.mem y = Memory.read s.mem y

/-- The n bytes of the scratchpad from a on take the number v, and every other byte of it stays. -/
def padTakes (s t : State) (a n v : Nat) : Prop :=
  padNum t a n = v % 2 ^ (8 * n) ∧ ∀ y, ¬ (a ≤ y ∧ y < a + n) → padByte t y = padByte s y

/-- What combining the values of a list gives, in an order and grouping of its own (spec/11 R223, spec/13 R268). -/
inductive Combines (f : Nat → Nat → Nat) : List Nat → Nat → Prop
  | one (x : Nat) : Combines f [x] x
  | two (l r : List Nat) (a b : Nat) : Combines f l a → Combines f r b → Combines f (l ++ r) (f a b)
  | swap (l r : List Nat) (a : Nat) : l.Perm r → Combines f l a → Combines f r a

/-- What a saved team keeps of a resident one (spec/16 R332): its launch, its place in it and its storage, and of each group where it stands, its registers and its
commands' numbers. -/
def savedAs (u : Team) (y : Saved) : Prop :=
  y.team.launch = u.launch ∧ y.team.index = u.index ∧ y.team.ctx = u.ctx ∧ y.team.obj = u.obj ∧ y.team.spad = u.spad ∧ y.team.tiles = u.tiles ∧
  y.team.accs = u.accs ∧ y.team.cmds = u.cmds ∧ y.team.reqs = u.reqs ∧
  ∀ g : GrpIx, ∃ z : Group, y.team.groups[g] = z ∧ z.phase = (u.groups[g]).phase ∧ z.spc = (u.groups[g]).spc ∧ z.sregs = (u.groups[g]).sregs ∧
    z.qregs = (u.groups[g]).qregs ∧ z.vregs = (u.groups[g]).vregs ∧ z.preds = (u.groups[g]).preds ∧ z.splits = (u.groups[g]).splits ∧
    z.priv = (u.groups[g]).priv ∧ z.pend = (u.groups[g]).pend ∧ z.batches = (u.groups[g]).batches ∧ z.cmdSeq = (u.groups[g]).cmdSeq

/-! ## Descriptors -/

/-- A descriptor of eight words breaks a rule of its copy word over a shape entry (spec/10 R193-R195, R199, R201, R202, spec/11 R219, R221, R224-R226), field by
field. -/
def copyBad (s : State) (o : CmdOp) (w : Vector Word 8) (e : Shape) : Prop :=
  let f (i : Fin 8) (lo len : Nat) : Nat := w[i].toNat / 2 ^ lo % 2 ^ len
  let dk := f 0 12 2
  let dir := f 0 11 1
  let xf := f 0 8 3
  let listed : Prop := o = .cgth ∨ o = .csct
  let packed : Prop := o = .cpack ∨ o = .cunpk
  let n0 := f 6 16 16
  let count := f 7 0 24
  let rows := if listed ∨ packed then count else f 7 0 8 * f 7 8 8 * f 7 16 8 * f 7 24 8
  let lf := if ¬ packed ∧ f 2 0 5 = 0x1F then e.fmt else f 2 0 5
  let bits := fmtBits lf
  let rb := (n0 * bits + 7) / 8
  let some_ : Prop := n0 ≠ 0 ∧ rows ≠ 0
  let flat : Prop := listed ∨ (f 7 8 8 = 1 ∧ f 7 16 8 = 1 ∧ f 7 24 8 = 1)
  let outside (n : Nat) : Prop := (dk = 0 ∧ s.team.spadSize < w[1].toNat + n) ∨ ∃ base len, dk = 2 ∧ s.team.buffer w[1].toNat = some (base, len) ∧ len < n
  let odd : Prop := (dk = 0 ∧ w[1].toNat % 16 ≠ 0) ∨ ∃ base len, dk = 2 ∧ s.team.buffer w[1].toNat = some (base, len) ∧ base % 16 ≠ 0
  let x := (s.team.tile w[1].toNat).shape
  let source := if dir = 0 then e.fmt else lf
  let target := if dir = 0 then lf else e.fmt
  let index := if f 7 24 1 = 1 then 8 else 4
  let units := if f 4 0 1 = 1 then count else n0 * count
  let control : Prop := f 0 28 4 ≠ 0 ∨ f 0 0 7 ≠ 0 ∨ dk = 3 ∨ 4 ≤ xf ∨ (f 0 23 1 = 1 ∧ dk ≠ 2) ∨ (f 0 14 1 = 1 ∧ f 0 15 1 = 0) ∨ 2 ^ 32 ≤ n0 * rows
  let side : Prop := (dk = 0 ∧ w[1].toNat % 4 ≠ 0) ∨ (dk = 1 ∧ 32 ≤ w[1].toNat) ∨ (dk = 2 ∧ (64 ≤ w[1].toNat ∨ s.team.buffer w[1].toNat = none))
  let format : Prop := f 2 28 4 ≠ 0 ∨ f 2 5 3 ≠ 0 ∨ (xf = 2 ∧ f 2 16 12 = 0) ∨ (xf ≠ 2 ∧ f 2 16 12 ≠ 0) ∨ (o ≠ .csct ∧ f 2 12 4 ≠ 0) ∨ 5 ≤ f 2 8 3 ∨
    (0x12 ≤ f 2 0 5 ∧ f 2 0 5 ≠ 0x1F) ∨ (lf = e.fmt ∧ (f 2 11 1 = 1 ∨ f 2 8 3 ≠ 0)) ∨
    (lf ≠ e.fmt ∧ (source = 14 ∨ 17 < source ∨ target = 14 ∨ 16 < target))
  let place : Prop :=
    if dk = 1 then
      s.team.obj.tiles ≤ w[1].toNat ∨ (xf = 0 ∧ (x.layout ≠ 0 ∨ (some_ ∧ (x.rb < rb ∨ x.rows < rows)))) ∨
      (xf = 1 ∧ (bits < 8 ∨ ¬ flat ∨ (some_ ∧ (x.rows < n0 ∨ x.rb < rows * (bits / 8))))) ∨ xf = 2 ∨
      (xf = 3 ∧ (x.layout ≠ 1 ∨ ¬ flat ∨ (some_ ∧ (x.rb < rb ∨ x.rows < rows))))
    else (xf = 0 ∧ some_ ∧ outside (rows * rb)) ∨ (xf = 1 ∧ (bits < 8 ∨ ¬ flat ∨ (some_ ∧ outside (n0 * rows * (bits / 8))))) ∨
      (xf = 2 ∧ (16 * f 2 16 12 < rb ∨ odd ∨ (some_ ∧ outside ((rows - 1) * (16 * f 2 16 12) + rb)))) ∨ xf = 3
  let list : Prop := f 7 25 7 ≠ 0 ∨ w[4].toNat % index ≠ 0 ∨ e.rank < 2 ∨ (count ≠ 0 ∧ s.team.spadSize < w[4].toNat + count * index)
  control ∨
  match o with
  | .cten => side ∨ format ∨ place
  | .cgth => dir = 1 ∨ side ∨ format ∨ place ∨ list
  | .csct => dir = 0 ∨ (xf ≠ 0 ∧ xf ≠ 2) ∨ side ∨ format ∨ place ∨ list ∨ 7 ≤ f 2 12 4 ∨ (3 < f 2 12 4 ∧ 3 < e.fmt) ∨
      (1 < f 2 12 4 ∧ f 2 12 4 ≤ 3 ∧ 3 < e.fmt ∧ e.fmt ≠ 8 ∧ e.fmt ≠ 9) ∨ (f 2 12 4 = 1 ∧ 3 < e.fmt ∧ (e.fmt < 8 ∨ 11 < e.fmt))
  | .cfill => dir = 0 ∨ dk ≠ 0 ∨ xf ≠ 0 ∨ f 0 23 1 = 1 ∨ f 0 22 1 = 1
  | _ => side ∨ e.rank ≠ 1 ∨ e.fmt ≠ 6 ∨ xf ≠ 0 ∨ f 0 15 1 = 1 ∨ f 0 14 1 = 1 ∨ dk = 1 ∨ (dir = 1 ↔ o = .cunpk) ∨ f 2 5 27 ≠ 0 ∨ (0x0D < lf ∧ lf ≠ 0x11) ∨
      w[3].toNat % 4 ≠ 0 ∨ f 4 1 31 ≠ 0 ∨ w[5] ≠ 0 ∨ f 6 0 16 ≠ 0 ∨ f 7 24 8 ≠ 0 ∨ outside (n0 * count * (bits / 8)) ∨
      e.ext.headD 1 < w[3].toNat + 4 + (units + 31) / 32 * 4

/-- The right that a copy word needs of its entry, by its bit in RIGHTS: read 0, write 1, reduce 2 (spec/10 R192, spec/11 R219). -/
def copyRight (o : CmdOp) (w : Vector Word 8) : Nat :=
  match o with
  | .cten => if w[0].toNat / 2 ^ 11 % 2 = 0 then 0 else 1
  | .cgth => 0
  | .cunpk => 0
  | .csct => if w[2].toNat / 2 ^ 12 % 16 = 0 then 1 else 2
  | _ => 1

/-! ## Checks in order -/

/-- The first check of a list that fails gives its cause; with none that fails there is none. -/
def firstOf : List (Prop × Cause) → Option Cause → Prop
  | [], c => c = none
  | (p, k) :: l, c => (p → c = some k) ∧ (¬ p → firstOf l c)

/-- The element count K that a tile's row gives in a format (spec/14 R272). -/
def rowLength (x : TileShape) (fmt : Nat) : Nat := 8 * x.rb / fmtBits fmt

/-- The checks of a matrix post in their order (spec/14 R272, R274-R276), over accumulator c, tiles a and b and the format block f0, f1. -/
def mmaChecks (s : State) (scaled : Bool) (c a b : Nat) (f0 f1 : Word) : List (Prop × Cause) :=
  let f (x : Word) (lo len : Nat) : Nat := x.toNat / 2 ^ lo % 2 ^ len
  let fa := f f0 0 5
  let fb := f f0 8 5
  let x := (s.team.tile a).shape
  let y := (s.team.tile b).shape
  let k := rowLength x fa
  let wide : Prop := fa = 9 ∧ fb = 9
  let pair (l : List Nat) : Prop := fa ∈ l ∧ fb ∈ l
  let listed : Prop := if scaled then pair [12, 13, 14] else wide ∨ pair [10] ∨ pair [11] ∨ pair [12, 13] ∨ pair [6, 7]
  let len := if f f0 16 1 = 1 then 32 else 16
  let areas := [(32 * f f1 0 16, 128 * k / len), (32 * f f1 16 16, 128 * rowLength y fb / len)]
  let most := if fa = 9 then 32 else if fa = 10 ∨ fa = 11 then 128 else if fa = 14 ∧ fb = 14 then 512 else 256
  [(s.team.obj.accs ≤ c ∨ s.team.obj.tiles ≤ a ∨ s.team.obj.tiles ≤ b ∨ (wide ∧ s.team.obj.accs ≤ c + 1), 0x180),
   (f f0 18 14 ≠ 0 ∨ f f0 13 3 ≠ 0 ∨ f f0 5 3 ≠ 0 ∨ (scaled = false ∧ (f f0 16 1 ≠ 0 ∨ f1 ≠ 0)) ∨ ¬ listed ∨
      (scaled = true ∧ ∃ z ∈ areas, s.team.spadSize < z.1 + z.2), 0x181),
   (scaled = true ∧ ∃ z ∈ areas, s.team.poolTouched z.1 z.2 = true, 0x14E),
   (x.layout ≠ 1 ∨ x.rows ≠ 64 ∨ x.fmt ≠ fa ∨ y.layout ≠ 1 ∨ y.rows ≠ 64 ∨ y.fmt ≠ fb ∨ k ≠ rowLength y fb ∨ k % 32 ≠ 0 ∨ k = 0 ∨ most < k ∨
      (wide ∧ c % 2 = 1), 0x182)]

/-- The bytes of an output row and the pitch of a read-out's control word (spec/14 R285, R286). -/
def outRow (w : Word) : Nat := 64 * fmtBits (w.toNat % 2 ^ 5) / 8
def outPitch (w : Word) : Nat := if w.toNat / 2 ^ 20 = 0 then outRow w else 16 * (w.toNat / 2 ^ 20)

/-- The checks of a read-out in their order (spec/14 R285, R286), over accumulator c, the control word w and the destination: a tile, or an address. -/
def moutChecks (s : State) (c : Nat) (w : Word) (pad : Bool) (dst : Nat) : List (Prop × Cause) :=
  let f (lo len : Nat) : Nat := w.toNat / 2 ^ lo % 2 ^ len
  let ak := f 8 2
  let x := (s.team.tile dst).shape
  let span := 63 * outPitch w + outRow w
  let allowed : Prop :=
    (ak = 0 ∧ f 0 5 ∈ [8, 10, 11, 12, 13]) ∨ (ak = 1 ∧ f 0 5 ∈ [1, 5, 7, 8]) ∨ (ak = 2 ∧ (f 0 5 = 8 ∨ (f 0 5 = 9 ∧ pad = true)))
  [(s.team.obj.accs ≤ c ∨ (ak = 2 ∧ s.team.obj.accs ≤ c + 1) ∨ (pad = false ∧ s.team.obj.tiles ≤ dst), 0x180),
   (f 17 3 ≠ 0 ∨ f 10 1 ≠ 0 ∨ f 5 3 ≠ 0 ∨ 5 ≤ f 12 3 ∨ ¬ allowed ∨ (ak = 2 ∧ c % 2 = 1) ∨
      (pad = false ∧ (f 20 12 ≠ 0 ∨ x.rows ≠ 64 ∨ x.rb ≠ outRow w ∨ x.fmt ≠ f 0 5)) ∨
      (pad = true ∧ (dst % 16 ≠ 0 ∨ outPitch w < outRow w ∨ s.team.spadSize < dst + span)), 0x184),
   (pad = true ∧ s.team.poolTouched dst span = true, 0x14E)]

/-! ## Traps -/

/-- What a trap of the group in hand records (spec/16 R325-R327): the privileged registers hold the record's fields; with a handler, the group is in
handler mode at its offset; without one, the group is stopped and the record waits for the context's fatal lane. -/
def recorded (s t : State) (r : TrapRec) (epc elpc : Word) : Prop :=
  t.grp.priv.epc = epc ∧ t.grp.priv.elpc = elpc ∧ t.grp.priv.ecause = r.head.zeroExtend 32 ∧ t.grp.priv.eaddr = r.addr ∧
  t.grp.priv.einfo = r.info ∧ t.grp.priv.ecmdseq = r.cmdseq ∧ t.grp.priv.eelem = r.elem ∧ t.grp.priv.elane = r.lane.zeroExtend 32 ∧
  match s.handlerFor r.cause with
  | some h => t.grp.handler = true ∧ t.grp.spc = h ∧ t.grp.phase = s.grp.phase
  | none => t.grp.handler = false ∧ t.grp.spc = s.grp.spc ∧ t.grp.phase = .stopped ∧ r ∈ (t.ctxs[s.team.ctx]).fring.waiting

/-- A trap of the group in hand that changes no register, no predicate and no byte of memory. -/
def trapped (s t : State) (r : TrapRec) (epc elpc : Word) : Prop :=
  recorded s t r epc elpc ∧ storesNothing s t ∧ t.grp.vregs = s.grp.vregs ∧ t.grp.preds = s.grp.preds ∧ t.grp.blocks = s.grp.blocks

/-- The lane PC and the place in its chain of the word that split p runs: its chain's head names it (spec/16 R323). -/
def chainHead (s : State) (p : Split) : Word := match s.grp.chain with | some c => c.head | none => p.lpc
def chainPos (s : State) : Nat := match s.grp.chain with | some c => c.pos | none => 0

/-- A precise trap of a lane word of split p (spec/02 R32, spec/16 R323): the record names the chain by its head and the word by its place; the chain is
undone, so that vector registers and lane predicates are as at its head, and the split stands there again. -/
def laneTrapped (s t : State) (p : Split) (c : Cause) (lane : Byte) (addr : DWord) : Prop :=
  recorded s t { s.record c with pos := chainPos s, spc := s.blockSpc, lpc := chainHead s p, addr := addr, lane := lane } s.grp.spc (chainHead s p) ∧
  storesNothing s t ∧ t.grp.chain = none ∧
  t.grp.vregs = (match s.grp.chain with | some c => c.savedV | none => s.grp.vregs) ∧
  t.grp.preds = (match s.grp.chain with | some c => c.savedP | none => s.grp.preds) ∧
  (p.atBar = none → t.grp.splits[s.spl] = some { p with lpc := chainHead s p })

/-- A lane word took its split elsewhere: it writes no register, latch or predicate and stores nothing. -/
def branched (s t : State) (p : Split) : Prop :=
  storesNothing s t ∧ t.grp.preds = s.grp.preds ∧ t.grp.vregs = s.grp.vregs ∧ t.grp.latches = (opened s p).grp.latches

/-- What storing pieces in order leaves at an address: the byte of the last piece that covers it, else the old byte. -/
def afterStores (ws : List (Nat × List Byte)) (old : Byte) (y : Nat) : Byte :=
  (((ws.flatMap fun x => (List.range x.2.length).map fun i => (x.1 + i, x.2.getD i 0)).reverse).lookup y).getD old

end Sys2Proof.Safety
end

