-- ==== Sys2Proof/Certificates/Slice0/Obligations.lean ====
section
/-! DEFINITION. The statements for the provers. -/

open Sys2Proof Sys2Proof.Machine Sys2Proof.Safety

/-- R57 (spec/03): the register-to-register words: sums, products and their high halves, minima and maxima, the bitwise words, the shifts by n = b[7:0]
where a count of 32 or more empties the word or fills it with the sign, SMOV, and the counts of leading zeros and of ones. Each completes in every state, writes D from
sources read before, and changes nothing else but SPC and the counts of issued words; each word of the table decodes to its instruction. -/
def Obligations.ScalarRegisterWords : Prop :=
  ∀ (s : State) (d a b : Reg),
    let word (opm : BitVec 6) (b : Reg) (fn : BitVec 2) : Word := opm ++ d ++ a ++ b ++ fn
    (∃ t, exec (.sadd d a b) s = .next t ∧ (t.sr d).toNat = ((s.sr a).toNat + (s.sr b).toNat) % 2 ^ 32 ∧ scalarEnd s t 4 [d]) ∧
    (∃ t, exec (.ssub d a b) s = .next t ∧ ((t.sr d).toNat + (s.sr b).toNat) % 2 ^ 32 = (s.sr a).toNat ∧ scalarEnd s t 4 [d]) ∧
    (∃ t, exec (.smul d a b) s = .next t ∧ (t.sr d).toNat = ((s.sr a).toNat * (s.sr b).toNat) % 2 ^ 32 ∧ scalarEnd s t 4 [d]) ∧
    (∃ t, exec (.smulh d a b) s = .next t ∧ (t.sr d).toInt = ((s.sr a).toInt * (s.sr b).toInt) / 2 ^ 32 ∧ scalarEnd s t 4 [d]) ∧
    (∃ t, exec (.smulhN d a b) s = .next t ∧ (t.sr d).toNat = ((s.sr a).toNat * (s.sr b).toNat) / 2 ^ 32 ∧ scalarEnd s t 4 [d]) ∧
    (∃ t, exec (.smin d a b) s = .next t ∧ (t.sr d).toInt = min (s.sr a).toInt (s.sr b).toInt ∧ scalarEnd s t 4 [d]) ∧
    (∃ t, exec (.smax d a b) s = .next t ∧ (t.sr d).toInt = max (s.sr a).toInt (s.sr b).toInt ∧ scalarEnd s t 4 [d]) ∧
    (∃ t, exec (.sminN d a b) s = .next t ∧ (t.sr d).toNat = min (s.sr a).toNat (s.sr b).toNat ∧ scalarEnd s t 4 [d]) ∧
    (∃ t, exec (.smaxN d a b) s = .next t ∧ (t.sr d).toNat = max (s.sr a).toNat (s.sr b).toNat ∧ scalarEnd s t 4 [d]) ∧
    (∃ t, exec (.sshl d a b) s = .next t ∧ (t.sr d).toNat = ((s.sr a).toNat * 2 ^ ((s.sr b).toNat % 256)) % 2 ^ 32 ∧ scalarEnd s t 4 [d]) ∧
    (∃ t, exec (.sshr d a b) s = .next t ∧ (t.sr d).toNat = (s.sr a).toNat / 2 ^ ((s.sr b).toNat % 256) ∧ scalarEnd s t 4 [d]) ∧
    (∃ t, exec (.ssra d a b) s = .next t ∧ (t.sr d).toInt = (s.sr a).toInt / 2 ^ ((s.sr b).toNat % 256) ∧ scalarEnd s t 4 [d]) ∧
    (∃ t, exec (.sand d a b) s = .next t ∧ (∀ k, (t.sr d).getLsbD k = ((s.sr a).getLsbD k && (s.sr b).getLsbD k)) ∧ scalarEnd s t 4 [d]) ∧
    (∃ t, exec (.sor d a b) s = .next t ∧ (∀ k, (t.sr d).getLsbD k = ((s.sr a).getLsbD k || (s.sr b).getLsbD k)) ∧ scalarEnd s t 4 [d]) ∧
    (∃ t, exec (.sxor d a b) s = .next t ∧ (∀ k, (t.sr d).getLsbD k = ((s.sr a).getLsbD k ^^ (s.sr b).getLsbD k)) ∧ scalarEnd s t 4 [d]) ∧
    (∃ t, exec (.smov d a) s = .next t ∧ t.sr d = s.sr a ∧ scalarEnd s t 4 [d]) ∧
    (∃ t, exec (.sclz d a) s = .next t ∧ (t.sr d).toNat ≤ 32 ∧ (s.sr a).toNat < 2 ^ (32 - (t.sr d).toNat) ∧
      ((t.sr d).toNat < 32 → (s.sr a).getLsbD (31 - (t.sr d).toNat) = true) ∧ scalarEnd s t 4 [d]) ∧
    (∃ t, exec (.spopc d a) s = .next t ∧ (t.sr d).toNat = ((List.range 32).filter fun k => (s.sr a).getLsbD k).length ∧ scalarEnd s t 4 [d]) ∧
    decodeScalar (word 0x01 b 0) = .ok (.sadd d a b) ∧ decodeScalar (word 0x01 b 1) = .ok (.ssub d a b) ∧
    decodeScalar (word 0x01 b 2) = .ok (.smul d a b) ∧ decodeScalar (word 0x01 b 3) = .ok (.smulh d a b) ∧
    decodeScalar (word 0x03 b 3) = .ok (.smulhN d a b) ∧ decodeScalar (word 0x02 b 0) = .ok (.smin d a b) ∧
    decodeScalar (word 0x02 b 1) = .ok (.smax d a b) ∧ decodeScalar (word 0x02 b 2) = .ok (.sminN d a b) ∧
    decodeScalar (word 0x02 b 3) = .ok (.smaxN d a b) ∧ decodeScalar (word 0x03 b 0) = .ok (.sand d a b) ∧
    decodeScalar (word 0x03 b 1) = .ok (.sor d a b) ∧ decodeScalar (word 0x03 b 2) = .ok (.sxor d a b) ∧
    decodeScalar (word 0x04 b 0) = .ok (.sshl d a b) ∧ decodeScalar (word 0x04 b 1) = .ok (.sshr d a b) ∧
    decodeScalar (word 0x04 b 2) = .ok (.ssra d a b) ∧ decodeScalar (word 0x04 0 3) = .ok (.smov d a) ∧
    decodeScalar (word 0x06 0 2) = .ok (.sclz d a) ∧ decodeScalar (word 0x06 0 3) = .ok (.spopc d a)

/-- R58 (spec/03): each SCMP writes its condition to one q predicate, a write to q7 is discarded (R25), and other predicates, all registers and all memory stay; D[25:21]
must be zero. SSEL takes s[A] where its predicate is true, and always for q7. Each word of the table decodes to its instruction. -/
def Obligations.ScalarComparesAndSelects : Prop :=
  ∀ (s : State) (q : BitVec 3) (d a b : Reg) (k : BitVec 2),
    let word (opm : BitVec 6) (fn : BitVec 2) : Word := opm ++ (0 : BitVec 5) ++ q ++ a ++ b ++ fn
    (∃ t, exec (.scmpEq q a b) s = .next t ∧ predEnd s t q (decide ((s.sr a).toNat = (s.sr b).toNat))) ∧
    (∃ t, exec (.scmpNe q a b) s = .next t ∧ predEnd s t q (decide ((s.sr a).toNat ≠ (s.sr b).toNat))) ∧
    (∃ t, exec (.scmpLt q a b) s = .next t ∧ predEnd s t q (decide ((s.sr a).toInt < (s.sr b).toInt))) ∧
    (∃ t, exec (.scmpLe q a b) s = .next t ∧ predEnd s t q (decide ((s.sr a).toInt ≤ (s.sr b).toInt))) ∧
    (∃ t, exec (.scmpLtN q a b) s = .next t ∧ predEnd s t q (decide ((s.sr a).toNat < (s.sr b).toNat))) ∧
    (∃ t, exec (.scmpLeN q a b) s = .next t ∧ predEnd s t q (decide ((s.sr a).toNat ≤ (s.sr b).toNat))) ∧
    (∃ t, exec (.sselQ0Q3 d a b k) s = .next t ∧ t.sr d = (if s.grp.qregs[k.toNat] then s.sr a else s.sr b) ∧ scalarEnd s t 4 [d]) ∧
    (∃ t, exec (.sselQ4Q7 d a b k) s = .next t ∧ t.sr d = (if k = 3 ∨ s.grp.qregs[k.toNat + 4] then s.sr a else s.sr b) ∧ scalarEnd s t 4 [d]) ∧
    decodeScalar (word 0x05 0) = .ok (.scmpEq q a b) ∧ decodeScalar (word 0x05 1) = .ok (.scmpNe q a b) ∧
    decodeScalar (word 0x05 2) = .ok (.scmpLt q a b) ∧ decodeScalar (word 0x05 3) = .ok (.scmpLe q a b) ∧
    decodeScalar (word 0x06 0) = .ok (.scmpLtN q a b) ∧ decodeScalar (word 0x06 1) = .ok (.scmpLeN q a b) ∧
    decodeScalar ((0x07 : BitVec 6) ++ d ++ a ++ b ++ k) = .ok (.sselQ0Q3 d a b k) ∧ decodeScalar ((0x08 : BitVec 6) ++ d ++ a ++ b ++ k) = .ok (.sselQ4Q7 d a b k) ∧
    ∀ x : BitVec 5, x ≠ 0 → decodeScalar ((0x05 : BitVec 6) ++ x ++ q ++ a ++ b ++ k) = .error 0x041 ∧
      (k.toNat < 2 → decodeScalar ((0x06 : BitVec 6) ++ x ++ q ++ a ++ b ++ k) = .error 0x041)

/-- R60 and R61 (spec/03): SAD64 and SMAD64 add a sign-extended word, or the exact product of two signed words, to a pair, modulo 2^64, from sources read before
the pair is written; the pairs are even-aligned (R25). The bit-field words take o = c[4:0] and w = min(c[13:8], 32 - o) from c = s[B]. Each word of the two tables decodes
to its instruction. -/
def Obligations.ScalarAddressSumsAndBitFields : Prop :=
  ∀ (s : State) (d a b : Reg),
    let o := (s.sr b).toNat % 32
    let w := min ((s.sr b).toNat / 256 % 64) (32 - o)
    let word (opm : BitVec 6) (fn : BitVec 2) : Word := opm ++ d ++ a ++ b ++ fn
    (∃ t, exec (.sad64 d a b) s = .next t ∧
      (((t.sr64 d).toNat : Int) - (s.sr64 a).toNat - (s.sr b).toInt) % 2 ^ 64 = 0 ∧ scalarEnd s t 4 [d, d + 1]) ∧
    (∃ t, exec (.smad64 d a b) s = .next t ∧
      (((t.sr64 d).toNat : Int) - (s.sr64 a).toNat - (s.sr b).toInt * (s.sr d).toInt) % 2 ^ 64 = 0 ∧ scalarEnd s t 4 [d, d + 1]) ∧
    (∃ t, exec (.sbfe d a b) s = .next t ∧ (t.sr d).toNat = (s.sr a).toNat / 2 ^ o % 2 ^ w ∧ scalarEnd s t 4 [d]) ∧
    (∃ t, exec (.sbfeI d a b) s = .next t ∧
      (∀ k < 32, (t.sr d).getLsbD k = (decide (0 < w) && (s.sr a).getLsbD (o + min k (w - 1)))) ∧ scalarEnd s t 4 [d]) ∧
    (∃ t, exec (.sbfi d a b) s = .next t ∧
      (∀ k < 32, (t.sr d).getLsbD k = if o ≤ k ∧ k < o + w then (s.sr a).getLsbD (k - o) else (s.sr d).getLsbD k) ∧ scalarEnd s t 4 [d]) ∧
    (d.getLsbD 0 = false → a.getLsbD 0 = false → decodeScalar (word 0x09 0) = .ok (.sad64 d a b) ∧ decodeScalar (word 0x09 1) = .ok (.smad64 d a b)) ∧
    (d.getLsbD 0 = true ∨ a.getLsbD 0 = true → decodeScalar (word 0x09 0) = .error 0x043 ∧ decodeScalar (word 0x09 1) = .error 0x043) ∧
    decodeScalar (word 0x0A 0) = .ok (.sbfe d a b) ∧ decodeScalar (word 0x0A 1) = .ok (.sbfeI d a b) ∧ decodeScalar (word 0x0A 2) = .ok (.sbfi d a b)

/-- R62 (spec/03): a scalar load of 4 or 8 bytes that takes no trap gives the little-endian number at s[A] + imm, and a store of it changes those bytes
alone; the address is aligned and within SPADSIZE, and clear of pool entries in use (spec/07 R134). A load finds each 4-byte word as it stands, or as it stood
before a store that its stream need not see yet (R63; notes/assumptions 110). The frame is stated for a team without race
checking, whose only further effects are race records and shadows (spec/08 R166). R62, R134, R323, R326 and R327: a scalar access that is misaligned raises 0x141, one beyond SPADSIZE 0x140, and one that touches a pool entry in use
0x14E, judged in that order; the trap names the word in EPC and the address in EADDR, and no register and no byte changes.
Model's choices in it: notes/assumptions 110. -/
def Obligations.ScalarLoadsStoresAndTheirTraps : Prop :=
  (∀ (s : State) (d a : Reg) (m : BitVec 10),
     let x := (s.sr a + m.signExtend 32).toNat
     (padFree s x 4 → poisoned s.team.spadPoison x 4 = false →
       ∃ t, exec (.slds d a m) s = .next t ∧ readable s false x (t.sr d) ∧ (s.team.race = false → scalarEndPast s t 4 [d])) ∧
     (padFree s x 8 → poisoned s.team.spadPoison x 8 = false →
       ∃ t, exec (.sldsD d a m) s = .next t ∧ readable s false x ((t.sr64 d).extractLsb' 0 32) ∧
         readable s false (x + 4) ((t.sr64 d).extractLsb' 32 32) ∧ (s.team.race = false → scalarEndPast s t 4 [d, d + 1])) ∧
     (padFree s x 4 → Memory.wf s.team.spad = true →
       ∃ t, exec (.ssts d a m) s = .next t ∧ padNum t x 4 = (s.sr d).toNat ∧ (∀ y, ¬ (x ≤ y ∧ y < x + 4) → padByte t y = padByte s y) ∧
         (s.team.race = false → padOnly s t ∧ wordDone s t 4 ∧ t.grp.sregs = s.grp.sregs)) ∧
     (padFree s x 8 → Memory.wf s.team.spad = true →
       ∃ t, exec (.sstsD d a m) s = .next t ∧ padNum t x 8 = (s.sr64 d).toNat ∧ (∀ y, ¬ (x ≤ y ∧ y < x + 8) → padByte t y = padByte s y) ∧
         (s.team.race = false → padOnly s t ∧ wordDone s t 4 ∧ t.grp.sregs = s.grp.sregs))) ∧
  (∀ (s : State) (d a : Reg) (m : BitVec 10) (n : Nat) (i : Instr),
     (n, i) ∈ [(4, Instr.slds d a m), (8, .sldsD d a m), (4, .ssts d a m), (8, .sstsD d a m)] → s.grp.chain = none → s.grp.handler = false →
     let x := (s.sr a + m.signExtend 32).toNat
     ∀ c : Cause, c = (if x % n ≠ 0 then 0x141 else if s.team.spadSize < x + n then 0x140 else 0x14E) →
       (x % n ≠ 0 ∨ s.team.spadSize < x + n ∨ s.team.poolTouched x n = true) →
       ∃ t, exec i s = .next t ∧ trapped s t { s.record c with addr := BitVec.ofNat 64 x } s.grp.spc 0xFFFFFFFF)

/-- R59 (spec/03) and R24 (spec/02): SLI sign-extends its 18 bits, SLUI writes bits [31:14] alone, SADDI adds its immediate modulo 2^32; an XIMM and the partner after
it run as one unit of 8 bytes, with the 22 bits of the XIMM above the partner's 10.
Model's choices in it: notes/assumptions 110. -/
def Obligations.ImmediatesAndXimmUnits : Prop :=
  (∀ (s : State) (d a : Reg) (m : BitVec 10) (x : BitVec 18),
    (∃ t, exec (.saddi d a m) s = .next t ∧ (((t.sr d).toNat : Int) - (s.sr a).toNat - m.toInt) % 2 ^ 32 = 0 ∧ scalarEnd s t 4 [d]) ∧
    (∃ t, exec (.sli d x) s = .next t ∧ (t.sr d).toInt = x.toInt ∧ scalarEnd s t 4 [d]) ∧
    (∃ t, exec (.slui d x) s = .next t ∧ (t.sr d).toNat = x.toNat * 2 ^ 14 + (s.sr d).toNat % 2 ^ 14 ∧ scalarEnd s t 4 [d])) ∧
  (∀ (s : State) (x : BitVec 22) (d a : Reg) (m : BitVec 10),
     let v : Word := x ++ m
     let y := (s.sr a + v).toNat
     (s.partner = some (.saddi d a m) →
       ∃ t, exec (.ximm x) s = .next t ∧ (t.sr d).toNat = ((s.sr a).toNat + (x.toNat * 1024 + m.toNat)) % 2 ^ 32 ∧ scalarEnd s t 8 [d]) ∧
     (s.partner = some (.slds d a m) → padFree s y 4 → poisoned s.team.spadPoison y 4 = false →
       ∃ t, exec (.ximm x) s = .next t ∧ readable s false y (t.sr d) ∧ (s.team.race = false → scalarEndPast s t 8 [d])) ∧
     (s.partner = some (.sldsD d a m) → padFree s y 8 → poisoned s.team.spadPoison y 8 = false →
       ∃ t, exec (.ximm x) s = .next t ∧ readable s false y ((t.sr64 d).extractLsb' 0 32) ∧
         readable s false (y + 4) ((t.sr64 d).extractLsb' 32 32) ∧ (s.team.race = false → scalarEndPast s t 8 [d, d + 1])) ∧
     (s.partner = some (.ssts d a m) → padFree s y 4 → Memory.wf s.team.spad = true →
       ∃ t, exec (.ximm x) s = .next t ∧ padNum t y 4 = (s.sr d).toNat ∧ (∀ z, ¬ (y ≤ z ∧ z < y + 4) → padByte t z = padByte s z) ∧
         (s.team.race = false → padOnly s t ∧ wordDone s t 8 ∧ t.grp.sregs = s.grp.sregs)) ∧
     (s.partner = some (.sstsD d a m) → padFree s y 8 → Memory.wf s.team.spad = true →
       ∃ t, exec (.ximm x) s = .next t ∧ padNum t y 8 = (s.sr64 d).toNat ∧ (∀ z, ¬ (y ≤ z ∧ z < y + 8) → padByte t z = padByte s z) ∧
         (s.team.race = false → padOnly s t ∧ wordDone s t 8 ∧ t.grp.sregs = s.grp.sregs)) ∧
     (s.partner = some (.lrun d m) → s.grp.handler = false → s.grp.blocks.length < 2 →
       ∃ t b, exec (.ximm x) s = .next t ∧ t.grp.blocks = s.grp.blocks ++ [b] ∧ b.pc = v ∧ b.spc = s.grp.spc ∧ b.ticket = s.grp.lticket + 1 ∧
         b.snap = s.grp.sregs ∧ b.started = false ∧ b.done = false ∧ groupOnly s t ∧ t.grp.spc = s.grp.spc + 8 ∧ t.grp.lticket = s.grp.lticket + 1 ∧
         t.sr d = s.grp.lticket + 1 ∧ ∀ r, r ≠ d → t.sr r = s.sr r))

/-- R67 and R68 (spec/03): the branches. A guard that is true takes SBR and SCALL to SPC + 4 × the offset, and SCALL pushes the next word; SJMP goes to a
register, SRET to the popped entry, and SLOOP counts its register down and goes back until it reaches zero. Nothing else changes. R67, R68 and R73 (spec/03): SCALL with sixteen entries raises 0x048, SRET with none 0x049, and SJMP to an offset that is no multiple of 4 0x047. -/
def Obligations.ScalarControlFlowAndItsTraps : Prop :=
  (∀ (s : State) (g : BitVec 4) (o : BitVec 22) (d a : Reg) (m : BitVec 10),
     let go := s.qr (g.extractLsb' 0 3) != g.getLsbD 3
     let target := s.grp.spc + 4 * o.signExtend 32
     (∃ t, exec (.sbr g o) s = .next t ∧ groupOnly s t ∧
       t.grp = { s.grp with prevSpc := s.grp.spc, spc := if go then target else s.grp.spc + 4, scalCnt := s.grp.scalCnt + 1 }) ∧
     ((go = true → s.grp.calls.length < 16) → ∃ t, exec (.scall g o) s = .next t ∧ groupOnly s t ∧
       t.grp = { s.grp with prevSpc := s.grp.spc, spc := if go then target else s.grp.spc + 4, scalCnt := s.grp.scalCnt + 1,
                            calls := if go then (s.grp.spc + 4) :: s.grp.calls else s.grp.calls }) ∧
     ((s.sr a).toNat % 4 = 0 → ∃ t, exec (.sjmp a) s = .next t ∧ groupOnly s t ∧
       t.grp = { s.grp with prevSpc := s.grp.spc, spc := s.sr a, scalCnt := s.grp.scalCnt + 1 }) ∧
     (∀ x r, s.grp.calls = x :: r → ∃ t, exec .sret s = .next t ∧ groupOnly s t ∧
       t.grp = { s.grp with prevSpc := s.grp.spc, spc := x, scalCnt := s.grp.scalCnt + 1, calls := r }) ∧
     (∃ t, exec (.sloop d m) s = .next t ∧ groupOnly s t ∧
       t.grp = { s.grp with sregs := t.grp.sregs, errs := t.grp.errs, prevSpc := s.grp.spc, scalCnt := s.grp.scalCnt + 1,
                            spc := if 2 ≤ (s.sr d).toNat then s.grp.spc + 4 * m.signExtend 32 else s.grp.spc + 4 } ∧
       (t.sr d).toNat = (s.sr d).toNat - 1 ∧ ∀ r, r ≠ d → t.sr r = s.sr r)) ∧
  (∀ (s : State) (g : BitVec 4) (o : BitVec 22) (a : Reg), s.grp.chain = none → s.grp.handler = false →
     ((s.qr (g.extractLsb' 0 3) != g.getLsbD 3) = true → 16 ≤ s.grp.calls.length →
       ∃ t, exec (.scall g o) s = .next t ∧ trapped s t (s.record 0x048) s.grp.spc 0xFFFFFFFF) ∧
     (s.grp.calls = [] → ∃ t, exec .sret s = .next t ∧ trapped s t (s.record 0x049) s.grp.spc 0xFFFFFFFF) ∧
     ((s.sr a).toNat % 4 ≠ 0 → ∃ t, exec (.sjmp a) s = .next t ∧ trapped s t (s.record 0x047) s.grp.spc 0xFFFFFFFF))

/-- R69 and R71 (spec/03): LRUN with fewer than two blocks outstanding takes the next ticket, writes it to D, and queues a block with the registers as they
were before D was written; LWAIT applies the results and flags of every block that the latest ticket covers once they are complete, oldest first, and the scalar
stream has then passed every earlier value that the group's lanes have passed (R63). -/
def Obligations.LaneBlocksStartAndApply : Prop :=
  ∀ (s : State) (d a : Reg) (m : BitVec 10), s.grp.handler = false →
    (s.grp.blocks.length < 2 → ∃ t, exec (.lrun d m) s = .next t ∧ groupOnly s t ∧
      t.grp.lticket = s.grp.lticket + 1 ∧ t.sr d = s.grp.lticket + 1 ∧ (∀ r, r ≠ d → t.sr r = s.sr r) ∧ t.grp.spc = s.grp.spc + 4 ∧
      t.grp.blocks = s.grp.blocks ++ [{ pc := m.signExtend 32, snap := s.grp.sregs, snapErr := s.grp.badRegs, en := s.grp.trapen,
                                        ticket := s.grp.lticket + 1, spc := s.grp.spc,
                                        started := false, done := false, results := [], flags := 0 }]) ∧
    ((∀ b ∈ s.grp.blocks, b.done = true) → s.sr a = s.grp.lticket →
      ∃ t, exec (.lwait a) s = .next t ∧ groupPast s t ∧ t.grp.blocks = [] ∧ t.grp.spc = s.grp.spc + 4 ∧
        (∀ p ∈ t.team.past, (s.gix, true) ∈ p.seen → (s.gix, false) ∈ p.seen) ∧
        t.grp.fflags = s.grp.blocks.foldl (fun f b => f ||| b.flags.zeroExtend 32) s.grp.fflags ∧
        t.grp.sregs = (s.grp.blocks.flatMap fun b => b.results).foldl (fun r x => r.set x.1.toNat x.2) s.grp.sregs) ∧
    ((s.grp.lticket - s.sr a).toNat < 2 ^ 31 → s.grp.blocks = [] →
      ∃ t, exec (.lwait a) s = .next t ∧ scalarEndPast s t 4 [])

/-- R64 and R65 (spec/03): SRD copies the special register of its number to D. The reads of REFTLO, CCYC and NCYC also latch the high half of the count for
the group; TRAPCAUSE reads 0 outside handler mode. A number that the table does not list raises 0x045. R64 and R66 (spec/03): SWR writes FFLAGS and TRAPEN alone, whose reserved bits read zero and discard what is written; any other listed register raises
0x046 and keeps its value, and a number that is not listed raises 0x045. -/
def Obligations.SpecialRegisters : Prop :=
  (∀ (s : State) (d : Reg),
     let done (t : State) (g : Group) := groupOnly s t ∧ (∀ r, r ≠ d → t.sr r = s.sr r) ∧
       t.grp = { g with sregs := t.grp.sregs, errs := t.grp.errs, prevSpc := s.grp.spc, spc := s.grp.spc + 4, scalCnt := s.grp.scalCnt + 1 }
     let time := s.reft + BitVec.ofNat 64 s.die.skew.val - 4
     let cycles := BitVec.ofNat 64 (s.die.ncyc / 2 ^ 16)
     (∀ x ∈ [((0x000 : BitVec 10), BitVec.ofNat 32 s.gix.val), (0x001, BitVec.ofNat 32 (s.team.slot s.gix)), (0x002, s.team.coord[0]),
         (0x003, s.team.coord[1]), (0x004, s.team.coord[2]), (0x005, s.team.dims[0]), (0x006, s.team.dims[1]), (0x007, s.team.dims[2]),
         (0x008, s.team.launchId), (0x009, BitVec.ofNat 32 s.team.core.val), (0x00A, BitVec.ofNat 32 (s.team.core.val / 4)),
         (0x00B, BitVec.ofNat 32 (s.team.core.val / 40)), (0x00D, s.grp.reftHi), (0x00F, s.grp.ccycHi), (0x011, s.grp.ncycHi),
         (0x012, s.grp.batchSeq.zeroExtend 32), (0x013, s.grp.cmdSeq), (0x014, if s.grp.handler then s.grp.priv.ecause &&& 0x1FF else 0),
         (0x015, BitVec.ofNat 32 s.team.spadBase), (0x016, BitVec.ofNat 32 s.team.spadSize), (0x017, s.grp.fflags), (0x018, s.grp.trapen),
         (0x019, s.grp.lticket), (0x01A, BitVec.ofNat 32 s.team.obj.groups)],
       ∃ t, exec (.srd d x.1) s = .next t ∧ t.sr d = x.2 ∧ done t s.grp) ∧
     (∃ t, exec (.srd d 0x00C) s = .next t ∧ t.sr d = time.extractLsb' 0 32 ∧ done t { s.grp with reftHi := time.extractLsb' 32 32 }) ∧
     (∃ t, exec (.srd d 0x00E) s = .next t ∧ t.sr d = s.die.ccyc.extractLsb' 0 32 ∧ done t { s.grp with ccycHi := s.die.ccyc.extractLsb' 32 32 }) ∧
     (∃ t, exec (.srd d 0x010) s = .next t ∧ t.sr d = cycles.extractLsb' 0 32 ∧ done t { s.grp with ncycHi := cycles.extractLsb' 32 32 }) ∧
     (∀ n : BitVec 10, 0x01B ≤ n.toNat → s.grp.chain = none → s.grp.handler = false →
       ∃ t, exec (.srd d n) s = .next t ∧ trapped s t (s.record 0x045) s.grp.spc 0xFFFFFFFF)) ∧
  (∀ (s : State) (a : Reg) (n : BitVec 10),
     (n = 0x017 → ∃ t, exec (.swr a n) s = .next t ∧ groupOnly s t ∧
       (∀ k, t.grp.fflags.getLsbD k = (decide (k < 5) && (s.sr a).getLsbD k)) ∧
       t.grp = { s.grp with fflags := t.grp.fflags, prevSpc := s.grp.spc, spc := s.grp.spc + 4, scalCnt := s.grp.scalCnt + 1 }) ∧
     (n = 0x018 → ∃ t, exec (.swr a n) s = .next t ∧ groupOnly s t ∧
       (∀ k, t.grp.trapen.getLsbD k = (decide (k < 6) && (s.sr a).getLsbD k)) ∧
       t.grp = { s.grp with trapen := t.grp.trapen, prevSpc := s.grp.spc, spc := s.grp.spc + 4, scalCnt := s.grp.scalCnt + 1 }) ∧
     (n ≠ 0x017 → n ≠ 0x018 → s.grp.chain = none → s.grp.handler = false →
       ∃ t, exec (.swr a n) s = .next t ∧ trapped s t (s.record (if n.toNat ≤ 0x01A then 0x046 else 0x045)) s.grp.spc 0xFFFFFFFF ∧
         t.grp.fflags = s.grp.fflags ∧ t.grp.trapen = s.grp.trapen))

/-- R317 and R325-R328 (spec/16): TRAP and BRK complete and then take their trap: EPC names the next word, INFO holds TRAP's code, and the group enters
its handler, or stops with the record on its way to the fatal lane. R326 (spec/16): every precise trap in handler mode is a double trap. The group stops, the record on its way to the fatal lane has cause 0x1E3 and the new
cause in INFO, and the privileged registers stay; what its scalar word waited with is dropped (notes/assumptions 100, the model's choice). R328 (spec/16): ERET in handler mode goes back to EPC, and the split that trapped back to ELPC; with ESTAT.FWD it sends the trap's record on with FWD
set, and stops the group. Outside handler mode it raises 0x04E. A split that waits at a barrier goes on waiting when it is sent back to its BAR, and one whose barrier completed during the handler
stays after it (notes/assumptions 104, the model's choice). -/
def Obligations.TrapsAndTheReturnFromThem : Prop :=
  (∀ (s : State) (c : BitVec 10), s.grp.chain = none → s.grp.handler = false →
     (∃ s' t, exec (.trap c) s = .next t ∧ scalarEnd s s' 4 [] ∧
       trapped s' t { s.record 0x04B with info := BitVec.ofNat 64 c.toNat } (s.grp.spc + 4) 0xFFFFFFFF) ∧
     (∃ s' t, exec .brk s = .next t ∧ scalarEnd s s' 4 [] ∧ trapped s' t (s.record 0x04C) (s.grp.spc + 4) 0xFFFFFFFF)) ∧
  (∀ s : State, s.grp.chain = none → s.grp.handler = true →
     let doubled (u t : State) (c : Cause) : Prop := t.grp = { u.grp.dropWaits with phase := .stopped } ∧ t.teams = (s.setGrp t.grp).teams ∧ t.mem = s.mem ∧
       t.hostMem = s.hostMem ∧ ∃ w r, t.ctxs[s.team.ctx].fring.waiting = s.ctxs[s.team.ctx].fring.waiting ++ w ++ [r] ∧ (causeHw c = false → w = []) ∧
         r.cause = 0x1E3 ∧ r.info = BitVec.ofNat 64 c.toNat
     (∀ (i : Instr) (c : Cause) (addr info : DWord), exec i s = s.scalarTrap c addr info → ∃ t, exec i s = .next t ∧ doubled s t c) ∧
     (∀ (d a : Reg) (m : BitVec 10), (∃ t, exec (.lrun d m) s = .next t ∧ doubled s t 0x04D) ∧ (∃ t, exec (.lwait a) s = .next t ∧ doubled s t 0x04D)) ∧
     (∀ (c : Cause) (addr : DWord), ∃ t, exec (.nonInstructionWord false c addr) s = .next t ∧ doubled s t c) ∧
     (s.grp.calls = [] → ∃ t, exec .sret s = .next t ∧ doubled s t 0x049) ∧
     (∀ (g : BitVec 4) (o : BitVec 22), s.guardQ g = true → s.grp.calls.length = 16 → ∃ t, exec (.scall g o) s = .next t ∧ doubled s t 0x048) ∧
     (∀ a : Reg, (s.sr a).extractLsb' 0 2 ≠ 0 → ∃ t, exec (.sjmp a) s = .next t ∧ doubled s t 0x047) ∧
     (∀ (d a : Reg) (n : BitVec 10), (0x01A < n.toNat → (∃ t, exec (.srd d n) s = .next t ∧ doubled s t 0x045) ∧ ∃ t, exec (.swr a n) s = .next t ∧ doubled s t 0x045) ∧
       (n.toNat ≤ 0x01A → n ≠ 0x017 → n ≠ 0x018 → ∃ t, exec (.swr a n) s = .next t ∧ doubled s t 0x046)) ∧
     (∀ (d a : Reg) (n : BitVec 9), (0x00F < n.toNat → ∃ t, exec (.srdp d n) s = .next t ∧ doubled s t 0x04F) ∧
       (n.toNat ∉ [0x000, 0x001, 0x00A, 0x00B, 0x00C, 0x00D, 0x00E] → ∃ t, exec (.swrp a n) s = .next t ∧ doubled s t 0x04F)) ∧
     (∀ (d a : Reg) (lo : BitVec 10) (c : Cause), s.scalarAccessFault (s.scalarAddr a (lo.signExtend 32)) 4 true = some c →
       ∃ t, exec (.slds d a lo) s = .next t ∧ doubled s t c) ∧
     (∀ (d a : Reg) (lo : BitVec 10) (c : Cause), s.scalarAccessFault (s.scalarAddr a (lo.signExtend 32)) 4 false = some c →
       ∃ t, exec (.ssts d a lo) s = .next t ∧ doubled s t c) ∧
     ∀ k : BitVec 10, (∃ u t, exec (.trap k) s = .next t ∧ scalarEnd s u 4 [] ∧ doubled u t 0x04B) ∧ ∃ u t, exec .brk s = .next t ∧ scalarEnd s u 4 [] ∧ doubled u t 0x04C) ∧
  (∀ s : State,
     (s.grp.handler = true → s.grp.priv.fwd = false →
       ∃ t, exec .eret s = .next t ∧ groupOnly s t ∧
         t.grp = { s.grp with handler := false, phase := .running, prevSpc := s.grp.spc, spc := s.grp.priv.epc, scalCnt := s.grp.scalCnt + 1,
                              priv := { s.grp.priv with split := none }, splits := t.grp.splits } ∧
         (∀ k : SplitIx, s.grp.priv.split ≠ some k → t.grp.splits[k] = s.grp.splits[k]) ∧
         (∀ (k : SplitIx) (p : Split), s.grp.priv.split = some k → s.grp.splits[k] = some p →
           t.grp.splits[k] = some (if p.atBar.isSome = true ∧ (s.grp.priv.elpc = p.lpc ∨ s.grp.priv.elpc + 1 = p.lpc) ∨ s.grp.priv.waited = true ∧ p.lpc = s.grp.priv.elpc + 1 then p
                                   else { p with lpc := s.grp.priv.elpc, atBar := none }))) ∧
     (s.grp.handler = true → s.grp.priv.fwd = true →
       ∃ t, exec .eret s = .next t ∧
         t.grp = { s.grp with handler := false, phase := .stopped, scalCnt := s.grp.scalCnt + 1, priv := { s.grp.priv with fwd := false } } ∧
         t.ctxs[s.team.ctx].fring.waiting = s.ctxs[s.team.ctx].fring.waiting ++ [{ s.grp.priv.record with fwd := true }] ∧
         t.teams = (s.setGrp t.grp).teams ∧ t.mem = s.mem) ∧
     (s.grp.handler = false → s.grp.chain = none → ∃ t, exec .eret s = .next t ∧ trapped s t (s.record 0x04E) s.grp.spc 0xFFFFFFFF))

/-- R327 and R328 (spec/16): in handler mode SRDP reads every privileged register of the table, and SWRP writes EPC, ELPC, FWD and the scratch words and
nothing else. Outside handler mode both raise 0x04E. -/
def Obligations.PrivilegedRegisters : Prop :=
  ∀ (s : State) (d a : Reg),
    let p := s.grp.priv
    (s.grp.handler = true → ∀ x ∈ [((0x000 : BitVec 9), p.epc), (0x001, p.elpc), (0x002, p.ecause), (0x003, p.eaddr.extractLsb' 0 32),
        (0x004, p.eaddr.extractLsb' 32 32), (0x005, p.ecmdseq), (0x006, p.eelem), (0x007, p.elane), (0x008, p.einfo.extractLsb' 0 32),
        (0x009, p.einfo.extractLsb' 32 32), (0x00A, if p.fwd then 3 else 2), (0x00B, p.hscr[0]), (0x00C, p.hscr[1]), (0x00D, p.hscr[2]),
        (0x00E, p.hscr[3]), (0x00F, BitVec.ofNat 32 s.grp.pend.length)],
      ∃ t, exec (.srdp d x.1) s = .next t ∧ t.sr d = x.2 ∧ scalarEnd s t 4 [d]) ∧
    (s.grp.handler = true → ∀ x ∈ [((0x000 : BitVec 9), { p with epc := s.sr a }), (0x001, { p with elpc := s.sr a }),
        (0x00A, { p with fwd := (s.sr a).getLsbD 0 }), (0x00B, { p with hscr := p.hscr.set 0 (s.sr a) }), (0x00C, { p with hscr := p.hscr.set 1 (s.sr a) }),
        (0x00D, { p with hscr := p.hscr.set 2 (s.sr a) }), (0x00E, { p with hscr := p.hscr.set 3 (s.sr a) })],
      ∃ t, exec (.swrp a x.1) s = .next t ∧ groupOnly s t ∧
        t.grp = { s.grp with priv := x.2, prevSpc := s.grp.spc, spc := s.grp.spc + 4, scalCnt := s.grp.scalCnt + 1 }) ∧
    (s.grp.handler = false → s.grp.chain = none → ∀ n : BitVec 9,
      (∃ t, exec (.srdp d n) s = .next t ∧ trapped s t (s.record 0x04E) s.grp.spc 0xFFFFFFFF) ∧
      (∃ t, exec (.swrp a n) s = .next t ∧ trapped s t (s.record 0x04E) s.grp.spc 0xFFFFFFFF))

/-- R308, R310 and R328: SNOP only passes; TREF reads the core's REFT as one value; TWAIT passes once (REFT - t) mod 2^64 is below 2^63, and the group
that waited resumes then; GEXIT, once the group's blocks are complete, ends the group. -/
def Obligations.TimeWordsAndTheEndOfAGroup : Prop :=
  ∀ (s : State) (d a : Reg),
    let time := s.reft + BitVec.ofNat 64 s.die.skew.val - 4
    (∃ t, exec .snop s = .next t ∧ scalarEnd s t 4 []) ∧
    (∃ t, exec (.tref d) s = .next t ∧ t.sr64 d = time ∧ scalarEnd s t 4 [d, d + 1]) ∧
    ((time - s.sr64 a).toNat < 2 ^ 63 →
      (∃ t, exec (.twait a) s = .next t ∧ scalarEnd s t 4 []) ∧
      (s.team.live = true → s.grp.phase = .running → s.grp.pend = [] → s.grp.stopReq = false → s.grp.stepping = false → s.scalarInstr = .twait a →
          ErrAt.sreg a ∉ s.grp.errs → ErrAt.sreg (a + 1) ∉ s.grp.errs →
        ∃ t, exec (.twaitExpiry s.cur s.gix) s = .next t ∧ scalarEnd s t 4 [])) ∧
    ((∀ b ∈ s.grp.blocks, b.done = true) →
      ∃ t, exec .gexit s = .next t ∧ t.grp = { s.grp with phase := .exited, blocks := [], prevSpc := s.grp.spc, spc := s.grp.spc + 4, scalCnt := s.grp.scalCnt + 1 } ∧
        t.team.spad = s.team.spad ∧ t.mem = s.mem ∧ ((∀ q, ¬ predWatched s q) → groupOnly s t))

/-- R75 (spec/04): an exact integer result is wrapped modulo 2^w, or clamped to the type's range, and the destination holds it extended by the type's
signedness, for the eight integer types. -/
def Obligations.IntegerResultsWrapOrSaturate : Prop :=
  ∀ (t : BitVec 4) (x : Int), t.toNat < 8 →
    let w := fmtBits t.toNat
    let lo : Int := if t.toNat % 2 = 1 then -(2 ^ (w - 1) : Int) else 0
    let hi : Int := if t.toNat % 2 = 1 then 2 ^ (w - 1) - 1 else 2 ^ w - 1
    lo ≤ intVal t (intResult t false x) ∧ intVal t (intResult t false x) ≤ hi ∧ (intVal t (intResult t false x) - x) % 2 ^ w = 0 ∧
    intVal t (intResult t true x) = max lo (min hi x) ∧
    (∀ sat, if t.toNat % 2 = 1 then signed (max w 32) (intResult t sat x) = intVal t (intResult t sat x)
            else (intResult t sat x : Int) = intVal t (intResult t sat x))

/-- R74 and R76 (spec/04): the integer arithmetic words write Wrap(x) or Sat(x) of the exact x in the executing lanes; VABSD writes its distance unsigned,
and VMADW a 64-bit sum of the signedness of its factors. -/
def Obligations.LaneIntegerArithmetic : Prop :=
  ∀ (s : State) (w : LaneWord) (p : Split), inHand s p →
    let a (l : Fin 64) : Int := intVal w.type ((opened s p).operand w w.srcA l)
    let b (l : Fin 64) : Int := intVal w.type ((opened s p).operand w w.srcB l)
    let c (l : Fin 64) : Int := intVal w.type ((opened s p).operand w w.srcC l)
    let sat := w.sub.getLsbD 3
    let is (t : State) (x : Fin 64 → Int) : Prop := laneFell s t p w 0 ∧ wrote s t p w fun l => intResult w.type sat (x l)
    (∃ t, exec (.vadd w) s = .next t ∧ is t fun l => a l + b l) ∧
    (∃ t, exec (.vsub w) s = .next t ∧ is t fun l => a l - b l) ∧
    (∃ t, exec (.vmul w) s = .next t ∧ is t fun l => a l * b l) ∧
    (∃ t, exec (.vmulh w) s = .next t ∧ is t fun l => a l * b l / 2 ^ fmtBits w.type.toNat) ∧
    (∃ t, exec (.vmad w) s = .next t ∧ is t fun l => a l * b l + c l) ∧
    (∃ t, exec (.vmin w) s = .next t ∧ is t fun l => min (a l) (b l)) ∧
    (∃ t, exec (.vmax w) s = .next t ∧ is t fun l => max (a l) (b l)) ∧
    (∃ t, exec (.vabsd w) s = .next t ∧ laneFell s t p w 0 ∧ wrote s t p w fun l => (a l - b l).natAbs) ∧
    (∃ t, exec (.vmadw w) s = .next t ∧ laneFell s t p w 0 ∧
      wrote64 s t p w fun l => BitVec.ofNat 64 (intResult (w.type + 2) sat
        (intVal w.type ((opened s p).srcN w w.srcA l).toNat * intVal w.type ((opened s p).srcN w w.srcB l).toNat +
         intVal (w.type + 2) ((opened s p).srcW (if w.type = 1 then .signed else immModeOf w.type) w w.srcC l).toNat)))

/-- R77 (spec/04): the bitwise words and the truth table bit by bit, and the shifts and the rotation by n = b[7:0] within the width of the type. -/
def Obligations.LaneLogicAndShifts : Prop :=
  ∀ (s : State) (w : LaneWord) (p : Split), inHand s p →
    let bits := fmtBits w.type.toNat
    let a (l : Fin 64) : Nat := (opened s p).operand w w.srcA l
    let b (l : Fin 64) : Nat := (opened s p).operand w w.srcB l
    let c (l : Fin 64) : Nat := (opened s p).operand w w.srcC l
    let n (l : Fin 64) : Nat := ((opened s p).srcN w w.srcB l).toNat % 256
    let is (t : State) (v : Fin 64 → Nat) : Prop := laneFell s t p w 0 ∧ wrote s t p w v
    let bit (x : Bool) : Nat := if x then 1 else 0
    (∃ (t : State) (v : Fin 64 → Nat), exec (.vand w) s = .next t ∧ is t v ∧ ∀ l k, (v l).testBit k = ((a l).testBit k && (b l).testBit k)) ∧
    (∃ (t : State) (v : Fin 64 → Nat), exec (.vor w) s = .next t ∧ is t v ∧ ∀ l k, (v l).testBit k = ((a l).testBit k || (b l).testBit k)) ∧
    (∃ (t : State) (v : Fin 64 → Nat), exec (.vxor w) s = .next t ∧ is t v ∧ ∀ l k, (v l).testBit k = ((a l).testBit k ^^ (b l).testBit k)) ∧
    (∃ (t : State) (v : Fin 64 → Nat), exec (.vlop3 w) s = .next t ∧ is t v ∧
      ∀ l k, (v l).testBit k = (decide (k < bits) && w.imm.getLsbD (4 * bit ((a l).testBit k) + 2 * bit ((b l).testBit k) + bit ((c l).testBit k)))) ∧
    (∃ t, exec (.vshl w) s = .next t ∧ is t fun l => fmtExtend w.type.toNat (a l * 2 ^ n l % 2 ^ bits)) ∧
    (∃ t, exec (.vshr w) s = .next t ∧ is t fun l => intResult w.type false (intVal w.type (a l) / 2 ^ n l)) ∧
    (∃ (t : State) (v : Fin 64 → Nat), exec (.vrot w) s = .next t ∧ is t (fun l => fmtExtend w.type.toNat (v l)) ∧
      ∀ l, v l < 2 ^ bits ∧ ∀ k < bits, (v l).testBit k = (a l).testBit ((k + bits - n l % bits) % bits))

/-- R78-R81 (spec/04): the bit counts, the reversal and the bit fields; VSEL and VMOV; VCMP and VPSET, which write one predicate in the executing lanes. -/
def Obligations.LaneBitsSelectsAndPredicates : Prop :=
  ∀ (s : State) (w : LaneWord) (p : Split), inHand s p →
    let bits := fmtBits w.type.toNat
    let o := opened s p
    let a (l : Fin 64) : Nat := o.operand w w.srcA l
    let x (l : Fin 64) : Int := intVal w.type (o.operand w w.srcA l)
    let y (l : Fin 64) : Int := intVal w.type (o.operand w w.srcB l)
    let f (l : Fin 64) : Nat := (o.srcN w w.srcB l).toNat % 32
    let n (l : Fin 64) : Nat := min ((o.srcN w w.srcB l).toNat / 256 % 64) (32 - f l)
    let is (t : State) (v : Fin 64 → Nat) : Prop := laneFell s t p w 0 ∧ wrote s t p w v
    let k := w.dst.toNat % 8
    let bit (i : Nat) (l : Fin 64) : Nat := if (s.grp.pred (w.imm.toNat / 2 ^ i % 8)).getLsbD l.val then 1 else 0
    (w.type = 0 ∨ w.type = 2 → ∃ (t : State) (v : Fin 64 → Nat), exec (.vclz w) s = .next t ∧ is t v ∧
      ∀ l, v l ≤ bits ∧ a l < 2 ^ (bits - v l) ∧ (v l < bits → (a l).testBit (bits - 1 - v l) = true)) ∧
    (∃ t, exec (.vpopc w) s = .next t ∧ is t fun l => ((List.range bits).filter fun i => (a l).testBit i).length) ∧
    (∃ (t : State) (v : Fin 64 → Nat), exec (.vbrev w) s = .next t ∧ is t v ∧ ∀ l i, (v l).testBit i = (decide (i < bits) && (a l).testBit (bits - 1 - i))) ∧
    (∃ (t : State) (v : Fin 64 → Word), exec (.vbfe w) s = .next t ∧ laneFell s t p w 0 ∧ wrote32 s t p w v ∧ ∀ l, ∀ i < 32, (v l).getLsbD i =
      if w.type = 1 then decide (0 < n l) && (o.srcN w w.srcA l).getLsbD (f l + min i (n l - 1))
      else decide (i < n l) && (o.srcN w w.srcA l).getLsbD (f l + i)) ∧
    (∃ (t : State) (v : Fin 64 → Word), exec (.vbfi w) s = .next t ∧ laneFell s t p w 0 ∧ wrote32 s t p w v ∧ ∀ l, ∀ i < 32, (v l).getLsbD i =
      if f l ≤ i ∧ i < f l + n l then (o.srcN w w.srcA l).getLsbD (i - f l) else (o.srcN w w.srcC l).getLsbD i) ∧
    (∃ t, exec (.vsel w) s = .next t ∧ is t fun l =>
      if (s.grp.pred (w.sub.toNat % 8)).getLsbD l.val != w.sub.getLsbD 3 then o.operand w w.srcA l else o.operand w w.srcB l) ∧
    (∃ t, exec (.vmov w) s = .next t ∧ is t a) ∧
    (w.sub.toNat < 6 → ∃ t, exec (.vcmp w) s = .next t ∧ laneFell s t p w 0 ∧ wrotePred s t p w k fun l =>
      match w.sub.toNat with
      | 0 => decide (x l = y l)
      | 1 => decide (x l ≠ y l)
      | 2 => decide (x l < y l)
      | 3 => decide (x l ≤ y l)
      | 4 => decide (x l > y l)
      | _ => decide (x l ≥ y l)) ∧
    (∃ t, exec (.vpset w) s = .next t ∧ laneFell s t p w 0 ∧ wrotePred s t p w k fun l => w.imm.getLsbD (4 * bit 8 l + 2 * bit 12 l + bit 16 l))

/-- R83-R90 (spec/04): the cross-lane words read every source lane before they write any, and only executing lanes give or take. VREDX and VSCAN fold the
executing lanes, and those up to or before each lane, by the six operations, whose identity an empty set gives. VVOTE and VREDX can also put their result with
the block, for LWAIT to apply (R88). -/
def Obligations.CrossLaneWords : Prop :=
  ∀ (s : State) (w : LaneWord) (p : Split), inHand s p →
    let o := opened s p
    let e := lanesOf s p w
    let a (l : Fin 64) : Nat := o.operand w w.srcA l
    let is (t : State) (v : Fin 64 → Nat) : Prop := laneFell s t p w 0 ∧ wrote s t p w v
    let result (t : State) (r : List (Reg × Word)) : Prop := storesNothing s t ∧ t.grp.vregs = s.grp.vregs ∧ t.grp.preds = s.grp.preds ∧
      t.grp.blocks = (s.grp.modBlock fun b => { b with results := b.results ++ r, flags := if w.hold then b.flags else b.flags ||| chainFlags s }).blocks
    let bits := fmtBits w.type.toNat
    let folded (ks : List (Fin 64)) (v : Nat) : Prop :=
      (w.sub.toNat % 8 = 1 → (∀ k ∈ ks, intVal w.type v ≤ intVal w.type (a k)) ∧
        ((ks = [] ∧ intVal w.type v = if w.type.toNat % 2 = 1 then 2 ^ (bits - 1) - 1 else 2 ^ bits - 1) ∨ ∃ k ∈ ks, intVal w.type v = intVal w.type (a k))) ∧
      (w.sub.toNat % 8 = 2 → (∀ k ∈ ks, intVal w.type (a k) ≤ intVal w.type v) ∧
        ((ks = [] ∧ intVal w.type v = if w.type.toNat % 2 = 1 then -2 ^ (bits - 1) else 0) ∨ ∃ k ∈ ks, intVal w.type v = intVal w.type (a k))) ∧
      (w.sub.toNat % 8 = 3 → ∀ i, v.testBit i = true ↔ i < bits ∧ ∀ k ∈ ks, (a k).testBit i = true) ∧
      (w.sub.toNat % 8 = 4 → ∀ i, v.testBit i = true ↔ ∃ k ∈ ks, (a k).testBit i = true) ∧
      (w.sub.toNat % 8 = 5 → ∀ i, v.testBit i = decide ((ks.filter fun k => (a k).testBit i).length % 2 = 1))
    let voted := e &&& s.grp.guardMask (w.imm.extractLsb' 0 4)
    (∃ (t : State) (v : Fin 64 → Nat), exec (.vshfl w) s = .next t ∧ is t v ∧ ∀ l : Fin 64, ∀ n : Int,
      n = (match w.sub.toNat % 4 with
           | 0 => ((o.srcN w w.srcB l).toNat : Int)
           | 1 => (l.val : Int) - (o.srcN w w.srcB l).toNat
           | 2 => (l.val : Int) + (o.srcN w w.srcB l).toNat
           | _ => ((l.val ^^^ (o.srcN w w.srcB l).toNat % 64 : Nat) : Int)) →
      (∀ m : Fin 64, n = m.val → e.getLsbD m.val = true → v l = a m) ∧
      ((∀ m : Fin 64, n = m.val → e.getLsbD m.val = false) → v l = o.operand w w.srcC l)) ∧
    (∃ (t : State) (v : Fin 64 → Nat), exec (.vbcst w) s = .next t ∧ is t v ∧ ∀ j : Fin 64, e.getLsbD j.val = true →
      ((w.sub.toNat % 4 = 1 ∧ ∀ i : Fin 64, e.getLsbD i.val = true → j ≤ i) ∨ (w.sub.toNat % 4 = 2 ∧ ∀ i : Fin 64, e.getLsbD i.val = true → i ≤ j) ∨
       (w.sub.toNat % 4 = 0 ∧ ∃ i : Fin 64, e.getLsbD i.val = true ∧ (∀ h : Fin 64, e.getLsbD h.val = true → i ≤ h) ∧ (o.srcN w w.srcB i).toNat = j.val)) →
      ∀ l, v l = a j) ∧
    (w.sub.toNat % 4 = 0 → ∃ (t : State) (v : Fin 64 → Nat), exec (.vbcst w) s = .next t ∧ is t v ∧ ∀ i : Fin 64, e.getLsbD i.val = true →
      (∀ h : Fin 64, e.getLsbD h.val = true → i ≤ h) → e.getLsbD (o.srcN w w.srcB i).toNat = false → ∀ l, v l = o.operand w w.srcC l) ∧
    (w.sub.getLsbD 3 = true → ∃ t, exec (.vvote w) s = .next t ∧ laneFell s t p w 0 ∧
      (w.sub.toNat % 4 = 0 → wrote64 s t p w fun _ => voted) ∧
      (w.sub.toNat % 4 = 1 → wrote32 s t p w fun _ => if voted = 0 then 0 else 1) ∧
      (w.sub.toNat % 4 = 2 → wrote32 s t p w fun _ => if voted = e then 1 else 0) ∧
      (w.sub.toNat % 4 = 3 → wrote32 s t p w fun _ => BitVec.ofNat 32 (maskLanes voted).length)) ∧
    (w.sub.getLsbD 3 = false → ∃ t, exec (.vvote w) s = .next t ∧
      (w.sub.toNat % 4 = 0 → result t [(w.dst, voted.extractLsb' 0 32), (w.dst + 1, voted.extractLsb' 32 32)]) ∧
      (w.sub.toNat % 4 = 1 → result t [(w.dst, if voted = 0 then 0 else 1)]) ∧
      (w.sub.toNat % 4 = 2 → result t [(w.dst, if voted = e then 1 else 0)]) ∧
      (w.sub.toNat % 4 = 3 → result t [(w.dst, BitVec.ofNat 32 (maskLanes voted).length)])) ∧
    (∃ (t : State) (v : Nat), exec (.vredx w) s = .next t ∧
      result t ((w.dst, BitVec.ofNat 32 v) :: if wideType w.type then [(w.dst + 1, BitVec.ofNat 32 (v / 2 ^ 32))] else []) ∧
      (w.type.toNat < 4 → w.sub.toNat % 8 = 0 →
        ∀ x : Int, x = ((maskLanes e).map fun l => intVal w.type (a l)).sum → v = intResult w.type (w.sub.getLsbD 3) x) ∧
      (w.type.toNat < 4 → folded (maskLanes e) v)) ∧
    (∃ (t : State) (v : Fin 64 → Nat), exec (.vscan w) s = .next t ∧ is t v ∧ (w.type.toNat < 4 → ∀ l,
      let before := (maskLanes e).filter fun k => decide (k.val < l.val) || (!w.sub.getLsbD 3 && k == l)
      (w.sub.toNat % 8 = 0 → v l = before.foldl (fun x k => (x + a k) % 2 ^ fmtBits w.type.toNat) 0) ∧ folded before (v l))) ∧
    (∃ t, exec (.vmatch w) s = .next t ∧ laneFell s t p w 0 ∧
      (w.sub = 0 → ∃ v : Fin 64 → DWord, wrote64 s t p w v ∧ ∀ l m : Fin 64, (v l).getLsbD m.val = (e.getLsbD m.val && decide (a m = a l))) ∧
      (w.sub = 1 → wrote s t p w fun l => ((maskLanes e).filter fun m => decide (m.val < l.val) && decide (a m = a l)).length) ∧
      (w.sub = 2 → wrote s t p w fun l => ((maskLanes e).filter fun m => decide (a m = a l)).length))

/-- R114-R118 (spec/06): FADD, FSUB, FMUL and FFMA write the exact result rounded once in the selected mode, FMIN and FMAX one operand or the canonical
NaN, and FCMP its predicate; the flags that the executing lanes raise are joined. With no flag enabled (R126) each completes on every operand. -/
def Obligations.FloatArithmeticWords : Prop :=
  ∀ (s : State) (w : LaneWord) (p : Split), inHand s p →
    let f := if w.type = 9 then fp64 else fp32
    let m := rmodeOf (w.sub.toNat % 8)
    let a (l : Fin 64) : Nat := (opened s p).operand w w.srcA l
    let b (l : Fin 64) : Nat := (opened s p).operand w w.srcB l
    let x (l : Fin 64) : Machine.Num := f.decode (a l)
    let y (l : Fin 64) : Machine.Num := f.decode (b l)
    let z (l : Fin 64) : Machine.Num := f.decode ((opened s p).operand w w.srcC l)
    let is (t : State) (r : Fin 64 → Nat × BitVec 5) : Prop :=
      laneFell s t p w (joinFlags (raisedFlags (lanesOf s p w) fun l => (r l).2)) ∧ wrote s t p w fun l => (r l).1
    (∃ t, exec (.fadd w) s = .next t ∧ is t fun l => f.finish m (numAdd m (x l) (y l))) ∧
    (∃ t, exec (.fsub w) s = .next t ∧ is t fun l => f.finish m (numAdd m (x l) (y l).neg)) ∧
    (∃ t, exec (.fmul w) s = .next t ∧ is t fun l => f.finish m (numMul (x l) (y l))) ∧
    (∃ t, exec (.ffma w) s = .next t ∧ is t fun l => f.finish m (numFma m (x l) (y l) (z l))) ∧
    (∃ (t : State) (r : Fin 64 → Nat × BitVec 5), exec (.fmin w) s = .next t ∧ is t r ∧ ∀ l, (x l).isNan = false → (y l).isNan = false →
      (r l).1 = (if numLt (y l) (x l) ∨ (numLt (x l) (y l) = false ∧ (numNeg (x l) = false ∨ numNeg (y l) = true)) then b l else a l) ∧ (r l).2 = 0) ∧
    (∃ (t : State) (r : Fin 64 → Nat × BitVec 5), exec (.fmax w) s = .next t ∧ is t r ∧ ∀ l, (x l).isNan = false → (y l).isNan = false →
      (r l).1 = (if numLt (y l) (x l) ∨ (numLt (x l) (y l) = false ∧ (numNeg (x l) = false ∨ numNeg (y l) = true)) then a l else b l) ∧ (r l).2 = 0) ∧
    (∃ (t : State) (r : Fin 64 → Bool × BitVec 5), exec (.fcmp w) s = .next t ∧
      laneFell s t p w (joinFlags (raisedFlags (lanesOf s p w) fun l => (r l).2)) ∧ wrotePred s t p w (w.dst.toNat % 8) (fun l => (r l).1) ∧
      ∀ l, let n := (x l).isNan || (y l).isNan
        (r l).1 = (match w.sub.toNat % 8 with
          | 0 => !n && !numLt (x l) (y l) && !numLt (y l) (x l)
          | 1 => n || numLt (x l) (y l) || numLt (y l) (x l)
          | 2 => !n && numLt (x l) (y l)
          | 3 => !n && !numLt (y l) (x l)
          | 4 => !n && numLt (y l) (x l)
          | 5 => !n && !numLt (x l) (y l)
          | 6 => n
          | _ => !n) ∧
        (r l).2 = if (x l).isSnan ∨ (y l).isSnan ∨ (w.sub.getLsbD 3 = true ∧ n = true) then flagNV else 0) ∧
    (s.grp.enables.extractLsb' 0 5 = 0 → ∀ i ∈ [Instr.fadd w, .fsub w, .fmul w, .ffma w, .fmin w, .fmax w, .fcmp w],
      ∃ t fl, exec i s = .next t ∧ groupOnly s t ∧ laneMoved s t p w fl)

/-- R97, R101, R116 and R117 (spec/05, spec/06): a NaN operand gives the canonical NaN, with NV for a signalling one; infinity minus infinity and zero times
infinity give it with NV. -/
def Obligations.FloatNaNRules : Prop :=
  ∀ (f : FloatFmt) (m : RMode) (a b c : Nat), f = fp32 ∨ f = fp64 →
    let nv : BitVec 5 := if (f.decode a).isSnan ∨ (f.decode b).isSnan then 16 else 0
    ((f.decode a).isNan = true ∨ (f.decode b).isNan = true →
      f.add m a b = (f.nan, nv) ∧ f.sub m a b = (f.nan, nv) ∧ f.mul m a b = (f.nan, nv) ∧ f.minmax true false a b = (f.nan, nv) ∧
      f.minmax false false a b = (f.nan, nv)) ∧
    (∀ n, f.decode a = .inf n → f.decode b = .inf (!n) → f.add m a b = (f.nan, 16)) ∧
    (∀ n k e q, f.decode a = .fin n 0 e → f.decode b = .inf k → f.mul m a b = (f.nan, 16) ∧ (f.decode c = .nan q → f.fma m a b c = (f.nan, 16))) ∧
    (∀ n x e k y g, f.decode a = .fin n x e → f.decode b = .fin k y g → n ≠ k → x = 0 → y = 0 →
      (f.add m a b).1 = (if m = .rdn then f.withSign true 0 else 0) ∧ (f.add m a b).2 = 0)

/-- R101-R103 and R116: a nonzero sum, difference, product or fused sum of finite FP32 or FP64 values is the exact result rounded once, with its overflow and
its flags, and so exact and without a flag where the format can represent it; an exact zero sum has the sign of R116. -/
def Obligations.FloatExactSumsAndProducts : Prop :=
  ∀ (f : FloatFmt) (mode : RMode) (a b c : Nat) (x y z : ℝ), f = fp32 ∨ f = fp64 →
    isReal (f.decode a) x → isReal (f.decode b) y → isReal (f.decode c) z →
    (x + y ≠ 0 → roundsTo f mode false (x + y) (f.add mode a b)) ∧ (x - y ≠ 0 → roundsTo f mode false (x - y) (f.sub mode a b)) ∧
    (x * y ≠ 0 → roundsTo f mode false (x * y) (f.mul mode a b)) ∧ (x * y + z ≠ 0 → roundsTo f mode false (x * y + z) (f.fma mode a b c)) ∧
    (x + y = 0 → f.add mode a b = (f.withSign (if numNeg (f.decode a) = numNeg (f.decode b) then numNeg (f.decode a) else decide (mode = .rdn)) 0, 0)) ∧
    (x * y = 0 → f.mul mode a b = (f.withSign (numNeg (f.decode a) != numNeg (f.decode b)) 0, 0)) ∧
    (x + y = z → x + y ≠ 0 → isReal (f.decode (f.add mode a b).1) z ∧ (f.add mode a b).2 = 0) ∧
    (x * y = z → x * y ≠ 0 → isReal (f.decode (f.mul mode a b).1) z ∧ (f.mul mode a b).2 = 0)

/-- R119-R124 (spec/06) and R372 (spec/19): the classes, the integral part and the fraction, the scaling by an integer and by a value of the type, the exponent
words, the square root correctly rounded, and the approximate words: the exact cases, the special inputs and the three FEXF inputs that the spec fixes, and
elsewhere a value within the bound of R123, the same for the same input. NX, OF and UF are raised as R123 says. With no flag enabled (R126) each completes on
every operand.
Model's choices in it: notes/assumptions 12. -/
def Obligations.FloatClassScaleAndApproximateWords : Prop :=
  ∀ (s : State) (w : LaneWord) (p : Split), inHand s p → w.type = 8 ∨ w.type = 9 →
    let f := if w.type = 9 then fp64 else fp32
    let m := rmodeOf (w.sub.toNat % 8)
    let a (l : Fin 64) : Nat := (opened s p).operand w w.srcA l
    let x (l : Fin 64) : Machine.Num := f.decode (a l)
    let y (l : Fin 64) : Machine.Num := f.decode ((opened s p).operand w w.srcB l)
    let n (l : Fin 64) : Int := ((opened s p).srcN w w.srcB l).toInt
    let fell (t : State) (r : Fin 64 → Nat × BitVec 5) : Prop := laneFell s t p w (joinFlags (raisedFlags (lanesOf s p w) fun l => (r l).2))
    let is (t : State) (r : Fin 64 → Nat × BitVec 5) : Prop := fell t r ∧ wrote s t p w fun l => (r l).1
    let nan (r : Fin 64 → Nat × BitVec 5) : Prop := ∀ l, (x l).isNan = true → r l = (f.nan, if (x l).isSnan then 16 else 0)
    let same (r : Fin 64 → Nat × BitVec 5) : Prop := ∀ l k, a l = a k → r l = r k
    let invalid : Nat × BitVec 5 := (f.nan, 16)
    let inf (neg : Bool) : Nat := f.withSign neg (f.maxFin + 1)
    let scaled (c : Machine.Num) (k : Int) (r : Nat × BitVec 5) : Prop :=
      (∀ v, isReal c v → v ≠ 0 → roundsTo f m false (v * (2 : ℝ) ^ k) r) ∧ (∀ g e, c = .fin g 0 e → r = (f.withSign g 0, 0)) ∧
      (∀ g, c = .inf g → r = (inf g, 0))
    (∃ (t : State) (v : Fin 64 → Word), exec (.fclass w) s = .next t ∧ laneFell s t p w 0 ∧ wrote32 s t p w v ∧
      ∀ l, (∀ q, x l = .nan q → v l = if q then 0x100 else 0x200) ∧ (∀ g, x l = .inf g → v l = if g then 0x001 else 0x080) ∧
        (∀ g e, x l = .fin g 0 e → v l = if g then 0x008 else 0x010) ∧
        (∀ g k e, x l = .fin g k e → k ≠ 0 → v l = if k < 2 ^ f.mbits then (if g then 0x004 else 0x020) else (if g then 0x002 else 0x040))) ∧
    (∃ (t : State) (r : Fin 64 → Nat × BitVec 5), exec (.frnd w) s = .next t ∧ is t r ∧ nan r ∧ ∀ l, (∀ g, x l = .inf g → r l = (inf g, 0)) ∧
      ∀ v, isReal (x l) v → (r l).2 = 0 ∧ ∃ k : ℤ, roundsInt m v k ∧ isReal (f.decode (r l).1) k ∧ (k = 0 → (r l).1 = f.withSign (numNeg (x l)) 0)) ∧
    (∃ (t : State) (r : Fin 64 → Nat × BitVec 5), exec (.ffrc w) s = .next t ∧ is t r ∧ nan r ∧ ∀ l, (∀ g, x l = .inf g → r l = invalid) ∧
      ∀ v, isReal (x l) v → (v - ⌊v⌋ = 0 → r l = (0, 0)) ∧ (v - ⌊v⌋ ≠ 0 → roundsTo f .rdn false (v - ⌊v⌋) (r l))) ∧
    (w.sub.getLsbD 3 = true → ∃ (t : State) (r : Fin 64 → Nat × BitVec 5), exec (.finsx w) s = .next t ∧ is t r ∧ nan r ∧ ∀ l, scaled (x l) (n l) (r l)) ∧
    (w.sub.getLsbD 3 = false → ∃ (t : State) (r : Fin 64 → Nat × BitVec 5), exec (.finsx w) s = .next t ∧ is t r ∧ ∀ l,
      let nv : BitVec 5 := if (x l).isSnan ∨ (y l).isSnan then 16 else 0
      ((y l).isNan = true → r l = (f.nan, nv)) ∧
      (∀ v : ℝ, isReal (y l) v → (∀ k : ℤ, v ≠ k) → r l = invalid) ∧
      (∀ k : ℤ, isReal (y l) k → ((x l).isNan = true → r l = (f.nan, nv)) ∧ scaled (x l) k (r l)) ∧
      (∀ g, y l = .inf g → ((x l).isNan = true → r l = (f.nan, nv)) ∧
        (∀ e h, x l = .fin h 0 e → r l = if g then (f.withSign h 0, 0) else invalid) ∧
        (∀ e k h, x l = .fin h k e → k ≠ 0 → r l = (if g then f.withSign h 0 else inf h, 0)) ∧
        (∀ h, x l = .inf h → r l = if g then invalid else (inf h, 0)))) ∧
    (∃ (t : State) (r : Fin 64 → Nat × BitVec 5), exec (.fexpx w) s = .next t ∧ fell t r ∧ wrote32 s t p w (fun l => BitVec.ofNat 32 (r l).1) ∧
      ∀ l, (∀ v k, isReal (x l) v → isLog2 v k → (BitVec.ofNat 32 (r l).1).toInt = k ∧ (r l).2 = 0) ∧
        (∀ g e, x l = .fin g 0 e → r l = (0x80000000, 16)) ∧ (∀ g, x l = .inf g → r l = (0x7FFFFFFF, 16)) ∧ (∀ q, x l = .nan q → r l = (0x80000000, 16))) ∧
    (∃ (t : State) (r : Fin 64 → Nat × BitVec 5), exec (.fsqrt w) s = .next t ∧ is t r ∧ nan r ∧
      ∀ l, (∀ v, isReal (x l) v → 0 < v → roundsTo f m false (Real.sqrt v) (r l)) ∧ (∀ v, isReal (x l) v → v < 0 → r l = invalid) ∧
        (∀ g e, x l = .fin g 0 e → r l = (f.withSign g 0, 0)) ∧ (∀ g, x l = .inf g → r l = if g then invalid else (inf false, 0))) ∧
    (∃ (t : State) (r : Fin 64 → Nat × BitVec 5), exec (.frcp w) s = .next t ∧ is t r ∧ nan r ∧ same r ∧
      ∀ l, (∀ g e, x l = .fin g 0 e → r l = (inf g, 8)) ∧ (∀ g, x l = .inf g → r l = (f.withSign g 0, 0)) ∧
        (∀ v (k : ℤ), isReal (x l) v → |v| = (2 : ℝ) ^ (-k) → 1 - (f.bias : ℤ) ≤ k → k ≤ f.bias → isReal (f.decode (r l).1) (1 / v) ∧ (r l).2 = 0) ∧
        (∀ v ρ, isReal (x l) v → v ≠ 0 → roundsTo f .rne false (1 / v) ρ → (∀ k : ℤ, 1 - (f.bias : ℤ) ≤ k → k ≤ f.bias → |v| ≠ (2 : ℝ) ^ (-k)) →
          (ρ.2.getLsbD 2 = true → r l = (inf (numNeg (x l)), flagOF ||| flagNX)) ∧
          (ρ.2.getLsbD 2 = false → withinUlps f 1 (1 / v) (r l).1 ∧
            (r l).2 = if ρ.2.getLsbD 1 = true ∨ ρ.1 % 2 ^ f.signBit < 2 ^ f.mbits then flagNX ||| flagUF else flagNX))) ∧
    (∃ (t : State) (r : Fin 64 → Nat × BitVec 5), exec (.frsq w) s = .next t ∧ is t r ∧ nan r ∧ same r ∧
      ∀ l, (∀ g e, x l = .fin g 0 e → r l = (inf g, 8)) ∧ (∀ g, x l = .inf g → r l = if g then invalid else (0, 0)) ∧
        (∀ v, isReal (x l) v → v < 0 → r l = invalid) ∧
        (∀ k : ℤ, isReal (x l) ((2 : ℝ) ^ (2 * k)) → isReal (f.decode (r l).1) ((2 : ℝ) ^ (-k)) ∧ (r l).2 = 0) ∧
        (∀ v, isReal (x l) v → 0 < v → (∀ k : ℤ, v ≠ (2 : ℝ) ^ (2 * k)) → withinUlps f 1 (1 / Real.sqrt v) (r l).1 ∧ (r l).2 = flagNX)) ∧
    (w.type = 8 → ∃ (t : State) (r : Fin 64 → Nat × BitVec 5), exec (.fexf w) s = .next t ∧ is t r ∧ nan r ∧ same r ∧
      ∀ l, (∀ g, x l = .inf g → r l = invalid) ∧ (∀ v, isReal (x l) v → 1 < |v| → r l = invalid) ∧
        (∀ v, isReal (x l) v → v = 0 → r l = (0x3F800000, 0)) ∧ (∀ v, isReal (x l) v → v = 1 → r l = (0x40000000, 0)) ∧
        (∀ v, isReal (x l) v → v = -1 → r l = (0x3F000000, 0)) ∧ (a l = 0x3F000000 → r l = (0x3FB504F3, flagNX)) ∧
        (a l = 0xBF000000 → r l = (0x3F3504F3, flagNX)) ∧ (a l = 0xBA830000 → r l = (0x3F7FD29D, flagNX)) ∧
        (∀ v, isReal (x l) v → v ≠ 0 → |v| < 1 → withinUlps fp32 1 ((2 : ℝ) ^ v) (r l).1 ∧ (r l).2 = flagNX)) ∧
    (w.type = 8 → ∃ (t : State) (r : Fin 64 → Nat × BitVec 5), exec (.flg2 w) s = .next t ∧ is t r ∧ nan r ∧ same r ∧
      ∀ l, (∀ g e, x l = .fin g 0 e → r l = (inf true, 8)) ∧ (∀ g, x l = .inf g → r l = if g then invalid else (inf false, 0)) ∧
        (∀ v, isReal (x l) v → v < 0 → r l = invalid) ∧ (∀ v, isReal (x l) v → v = 1 → r l = (0, 0)) ∧
        (∀ k : ℤ, isReal (x l) ((2 : ℝ) ^ k) → isReal (f.decode (r l).1) k ∧ (r l).2 = 0) ∧
        (∀ v, isReal (x l) v → 0 < v → (∀ k : ℤ, v ≠ (2 : ℝ) ^ k) → withinUlps fp32 2 (Real.logb 2 v) (r l).1 ∧ (r l).2 = flagNX)) ∧
    (s.grp.enables.extractLsb' 0 5 = 0 →
      ∀ i ∈ [Instr.fclass w, .frnd w, .ffrc w, .fexf w, .flg2 w, .frcp w, .frsq w, .fsqrt w, .finsx w, .fexpx w],
        ∃ t fl, exec i s = .next t ∧ groupOnly s t ∧ laneMoved s t p w fl)

/-- R94-R111 (spec/05): CVT converts each executing lane's value between the formats in IMM32; PK2 and UPK2 convert two; CVTD gives a block element times
its scale; CVTQ gives each block of executing lanes one record with the special lane and the codes of R109, or the NaN record where a value of the block is not
finite. With no flag enabled (R126, spec/06) each completes on every operand. Convert itself: the value of each format's codes (R96, R98, R100), one rounding to
a format (R101-R103), and the integer destinations of R106, wrapped or saturated.
Model's choices in it: notes/assumptions 11, 18. -/
def Obligations.ConversionWords : Prop :=
  (∀ (s : State) (w : LaneWord) (p : Split), inHand s p →
    let fs := w.imm.toNat % 32
    let fd := w.imm.toNat / 256 % 32
    let mode := rmodeOf (w.sub.toNat % 8)
    let len : Nat := if w.imm.getLsbD 16 then 32 else 16
    let o := opened s p
    let a (l : Fin 64) : Nat := o.fmtOperand w w.srcA l
    let b (l : Fin 64) : Nat := o.fmtOperand w w.srcB l
    let c (v : Nat) : Nat × BitVec 5 := convert fs fd mode (w.sub.getLsbD 3) v
    let e := lanesOf s p w
    let fell (t : State) (fl : Fin 64 → BitVec 5) : Prop := laneFell s t p w (joinFlags (raisedFlags e fl))
    let wide (t : State) (v : Fin 64 → Nat) : Prop :=
      if fmtBits fd = 64 then wrote64 s t p w fun l => BitVec.ofNat 64 (v l) else wrote32 s t p w fun l => BitVec.ofNat 32 (v l)
    (∃ t, exec (.cvt w) s = .next t ∧ fell t (fun l => (c (a l)).2) ∧ wide t fun l => fmtExtend fd (c (a l)).1) ∧
    (∃ t, exec (.pk2 w) s = .next t ∧ fell t (fun l => (c (a l)).2 ||| (c (b l)).2) ∧
      wrote32 s t p w fun l => BitVec.ofNat 32 ((c (a l)).1 + 2 ^ fmtBits fd * (c (b l)).1)) ∧
    (∃ t, let x (l : Fin 64) : Nat := (o.srcN w w.srcA l).toNat
      exec (.upk2 w) s = .next t ∧ fell t (fun l => (c (x l % 2 ^ fmtBits fs)).2 ||| (c (x l / 2 ^ fmtBits fs % 2 ^ fmtBits fs)).2) ∧
      wrote64 s t p w fun l => BitVec.ofNat 64 (fmtExtend fd (c (x l % 2 ^ fmtBits fs)).1 + 2 ^ 32 * fmtExtend fd (c (x l / 2 ^ fmtBits fs % 2 ^ fmtBits fs)).1)) ∧
    (∀ f, floatFmt fd = some f → ∃ t, let x (l : Fin 64) : Nat := (o.srcN w w.srcA l).toNat
      let r (l : Fin 64) := f.ofNum mode (w.sub.getLsbD 3) (blockValue fs (if fs = 14 then x l % 16 else x l % 256) (x l / 256 % 256) (x l / 65536 % 256))
      exec (.cvtd w) s = .next t ∧ fell t (fun l => (r l).2) ∧ wide t fun l => (r l).1) ∧
    (fs = 8 ∨ fs = 10 ∨ fs = 11 → 12 ≤ fd → fd ≤ 14 → ∃ (t : State) (v : Fin 64 → Word) (g : Fin 64 → BitVec 5), exec (.cvtq w) s = .next t ∧ fell t g ∧ wrote32 s t p w v ∧
      ∀ (j : Nat), let E (l : Fin 64) : Prop := e.getLsbD l.val = true ∧ l.val / len = j
        ((∃ k, E k ∧ numFinite (fmtDecode fs (a k)) = false) → ∀ l, E l → v l = 0xFF00 ∧ g l = if numFinite (fmtDecode fs (a l)) then 0 else 16) ∧
        ∀ (x : Fin 64 → ℝ) (f : FloatFmt), floatFmt fd = some f → (∀ l, E l → isReal (fmtDecode fs (a l)) (x l)) →
          ((∀ l, E l → x l = 0) → ∀ l, E l → (v l).toNat = 127 * 256 + (if fd = 14 then 0 else f.withSign (numNeg (fmtDecode fs (a l))) 0) ∧ g l = 0) ∧
          ∀ m, E m → x m ≠ 0 → (∀ l, E l → |x l| ≤ |x m| ∧ (|x l| = |x m| → m ≤ l)) →
            ∃ (k : ℤ) (special : Nat × BitVec 5),
              let lower (l : Fin 64) : ℤ := if fd = 14 then (if l = m then 8 else 2) else if fd = 13 then 8 else 15
              (-127 ≤ k ∧ ∀ l i, E l → isLog2 (x l) i → i - lower l ≤ k) ∧ (k = -127 ∨ ∃ l i, E l ∧ isLog2 (x l) i ∧ k = i - lower l) ∧
              (if fd = 14 then roundsTo e4m3 mode true (x m * (2 : ℝ) ^ (-k)) special else special = (0, 0)) ∧
              ∀ l, E l → ∃ q : Nat × BitVec 5,
                (if fd = 14 ∧ l = m then q = (8, special.2)
                 else if x l = 0 then q = (f.withSign (numNeg (fmtDecode fs (a l))) 0, 0) else roundsTo f mode true (x l * (2 : ℝ) ^ (-k)) q) ∧
                (v l).toNat = special.1 * 65536 + (k + 127).toNat * 256 + (if fd = 14 ∧ q.1 = 8 ∧ l ≠ m then 0 else q.1) ∧ g l = q.2) ∧
    (s.grp.enables.extractLsb' 0 5 = 0 → ∀ i ∈ [Instr.cvt w, .cvtq w, .cvtd w, .pk2 w, .upk2 w],
      ∃ t fl, exec i s = .next t ∧ groupOnly s t ∧ laneMoved s t p w fl)) ∧
  (∀ (fs fd : Nat) (mode : RMode) (sat : Bool) (v : Nat), fs ≤ 17 → fd ≤ 16 → fd ≠ 14 →
     let r := convert fs fd mode sat v
     let whole (c : Nat) : Prop := c ≤ 7 ∨ c = 15 ∨ c = 16
     let least : Int := if fmtSigned fd then -2 ^ (fmtBits fd - 1) else 0
     let most : Int := if fmtSigned fd then 2 ^ (fmtBits fd - 1) - 1 else 2 ^ fmtBits fd - 1
     let bad : Int := if fmtSigned fd then least else most
     let gives (x : Int) (fl : BitVec 5) : Prop := r.1 < 2 ^ fmtBits fd ∧ ((r.1 : Int) - x) % 2 ^ fmtBits fd = 0 ∧ r.2 = fl
     (whole fs → isReal (fmtDecode fs v) (if fmtSigned fs then (signed (fmtBits fs) v : Int) else ((v % 2 ^ fmtBits fs : Nat) : Int))) ∧
     (fs = 17 → if v % 256 = 255 then fmtDecode fs v = .nan false else isReal (fmtDecode fs v) ((2 : ℝ) ^ ((v % 256 : Nat) - 127 : ℤ))) ∧
     (∀ f, floatFmt fs = some f →
       let neg : ℝ := if v.testBit f.signBit then -1 else 1
       let e := v / 2 ^ f.mbits % 2 ^ f.ebits
       let frac := v % 2 ^ f.mbits
       (v % 2 ^ f.signBit ≤ f.maxFin → isReal (fmtDecode fs v)
         (if e = 0 then neg * ((frac : ℝ) / 2 ^ f.mbits) * (2 : ℝ) ^ (1 - (f.bias : ℤ)) else neg * (1 + (frac : ℝ) / 2 ^ f.mbits) * (2 : ℝ) ^ ((e : ℤ) - f.bias))) ∧
       (f.maxFin < v % 2 ^ f.signBit → fmtDecode fs v = if f.hasInf ∧ frac = 0 then .inf (v.testBit f.signBit)
         else .nan (decide (7 ≤ f.mbits) && !v.testBit (f.mbits - 1)))) ∧
     (∀ f, floatFmt fd = some f →
       (∀ x, isReal (fmtDecode fs v) x → x ≠ 0 → roundsTo f mode sat x r) ∧
       (∀ n e, fmtDecode fs v = .fin n 0 e → r = (f.withSign n 0, 0)) ∧ (∀ q, fmtDecode fs v = .nan q → r = (f.nan, if q then 16 else 0)) ∧
       (∀ n, fmtDecode fs v = .inf n → r = if fd = 13 then (if sat then f.withSign n f.maxFin else f.nan, 16) else (f.withSign n (f.maxFin + 1), 0))) ∧
     (whole fs → whole fd → ∀ x : Int, isReal (fmtDecode fs v) x → gives (if sat then max least (min most x) else x) 0) ∧
     (¬ whole fs → whole fd →
       (∀ q, fmtDecode fs v = .nan q → gives (if sat then 0 else bad) 16) ∧
       (∀ n, fmtDecode fs v = .inf n → gives (if sat then (if n then least else most) else bad) 16) ∧
       (∀ (x : ℝ) (k : ℤ), isReal (fmtDecode fs v) x → roundsInt mode x k →
         (k < least → gives (if sat then least else bad) 16) ∧ (most < k → gives (if sat then most else bad) 16) ∧
         (least ≤ k → k ≤ most → gives k r.2 ∧ (x = k → r.2 = 0) ∧ (x ≠ k → r.2 = flagNX))))) ∧
  (∀ (fs c sb tb : Nat) (f : FloatFmt), floatFmt fs = some f → 12 ≤ fs → fs ≤ 14 →
     (sb = 255 → blockValue fs c sb tb = .nan false) ∧
     (sb < 255 → fs = 14 → c = 8 → ((e4m3.decode tb).isNan = true → (blockValue fs c sb tb).isNan = true) ∧
       ∀ x, isReal (e4m3.decode tb) x → isReal (blockValue fs c sb tb) (x * (2 : ℝ) ^ ((sb : ℤ) - 127))) ∧
     (sb < 255 → (fs = 14 → c ≠ 8) → (∀ n, f.decode c = .inf n → blockValue fs c sb tb = .inf n) ∧
       ∀ x, isReal (f.decode c) x → isReal (blockValue fs c sb tb) (x * (2 : ℝ) ^ ((sb : ℤ) - 127))))

/-- R35, R137, R138 and R140 (spec/02, spec/07): a branch that all lanes of the split take, or none, moves the whole split; only VBR changes the history.
VCALL pushes the next lane PC unless eight are there, and VRET pops it. R132, R137 and R138 (spec/07): a VBR whose lanes disagree divides its split: the taken lanes go on in the split's own entry, the others in a free one, and
a new join of the lowest free index waits for both at the reconvergence PC (an index from 16 up lies in the team's scratchpad, R134). Lanes whose path starts
there arrive at once, for VBR and VBRK alike, which is the skipped block and the early exit of a loop. The lanes that a dividing VBRK takes elsewhere wait in a
deferred path entry; a split whose own join stands at the reconvergence PC opens no other; and where no entry is free the word raises 0x021. R143 and R144
(spec/07): a VBR whose guard is not p7 trains its entry of the Guidon table of 1,024 entries, and nothing else in the table. -/
def Obligations.LaneBranches : Prop :=
  (∀ (s : State) (w : LaneWord) (p : Split), inHand s p →
     let target := p.lpc + (w.imm.extractLsb' 16 16).signExtend 32
     let taken := lanesOf s p w
     let goes (t : State) (q : Split) : Prop := branched s t p ∧ t.grp.splits = s.grp.splits.set s.spl (some q)
     (taken = p.mask → ∃ t, exec (.vbr w) s = .next t ∧ goes t { p with lpc := target, hist := p.hist.rotateLeft 2 ^^^ 1 }) ∧
     (taken = 0 → p.mask ≠ 0 → ∃ t, exec (.vbr w) s = .next t ∧ goes t { p with lpc := p.lpc + 1, hist := p.hist.rotateLeft 2 }) ∧
     (taken = p.mask → ∃ t, exec (.vbrk w) s = .next t ∧ goes t { p with lpc := target }) ∧
     (taken = 0 → p.mask ≠ 0 → ∃ t, exec (.vbrk w) s = .next t ∧ goes t { p with lpc := p.lpc + 1 }) ∧
     (∃ t, exec (.vjmp w) s = .next t ∧ goes t { p with lpc := target } ∧ (noFlagTrap s w 0 → groupOnly s t)) ∧
     (p.cstack.length < 8 → ∃ t, exec (.vcall w) s = .next t ∧ goes t { p with lpc := target, cstack := p.cstack ++ [p.lpc + 1] } ∧
       (noFlagTrap s w 0 → groupOnly s t)) ∧
     (∀ r x, p.cstack = r ++ [x] → ∃ t, exec (.vret w) s = .next t ∧ goes t { p with lpc := x, cstack := r } ∧ (noFlagTrap s w 0 → groupOnly s t))) ∧
  (∀ (s : State) (w : LaneWord) (p : Split) (j : Nat), inHand s p →
     let target := p.lpc + (w.imm.extractLsb' 16 16).signExtend 32
     let rpc := p.lpc + (w.imm.extractLsb' 0 16).signExtend 32
     let taken := lanesOf s p w
     let rest := p.mask &&& ~~~taken
     taken ≠ 0 → taken ≠ p.mask → s.freeEntry = some j →
     (∀ i o pc x a h c, p.join = some i → s.stackEntry i = .join o pc x a h c → pc ≠ rpc) → p.lpc + 1 ≠ rpc →
     (∀ k : SplitIx, target ≠ rpc → s.grp.splits[k] = none → (∀ i : SplitIx, i < k → s.grp.splits[i] ≠ none) →
       ∃ t, exec (.vbr w) s = .next t ∧ (j < 16 → branched s t p) ∧ t.mem = s.mem ∧ t.stackEntry j = .join p.join rpc p.mask 0 p.hist p.cstack ∧
         t.grp.splits[s.spl] = some { p with lpc := target, mask := taken, join := some j, hist := p.hist.rotateLeft 2 ^^^ 3, dbgSkip := none } ∧
         t.grp.splits[k] = some { p with lpc := p.lpc + 1, mask := rest, rank := p.rank + 1, join := some j, hist := p.hist.rotateLeft 2 ^^^ 2, dbgSkip := none }) ∧
     (target = rpc →
       (∃ t, exec (.vbr w) s = .next t ∧ (j < 16 → branched s t p) ∧ t.mem = s.mem ∧ t.stackEntry j = .join p.join rpc p.mask taken p.hist p.cstack ∧
         t.grp.splits[s.spl] = some { p with lpc := p.lpc + 1, mask := rest, join := some j, hist := p.hist.rotateLeft 2 ^^^ 2, dbgSkip := none }) ∧
       (∃ t, exec (.vbrk w) s = .next t ∧ (j < 16 → branched s t p) ∧ t.mem = s.mem ∧ t.stackEntry j = .join p.join rpc p.mask taken p.hist p.cstack ∧
         t.grp.splits[s.spl] = some { p with lpc := p.lpc + 1, mask := rest, join := some j, dbgSkip := none }))) ∧
  (∀ (s : State) (w : LaneWord) (p : Split), inHand s p →
     let target := p.lpc + (w.imm.extractLsb' 16 16).signExtend 32
     let rpc := p.lpc + (w.imm.extractLsb' 0 16).signExtend 32
     let taken := lanesOf s p w
     let rest := p.mask &&& ~~~taken
     let opens := StackEntry.join p.join rpc p.mask 0 p.hist p.cstack
     let outside : Prop := ∀ i o pc x a h c, p.join = some i → s.stackEntry i = .join o pc x a h c → pc ≠ rpc
     taken ≠ 0 → taken ≠ p.mask →
     (∀ (j m : Nat), s.freeEntry = some j → outside → target ≠ rpc → (s.setStack j opens).freeEntry = some m →
       (∀ i d h c x, s.stackEntry i ≠ .path j d target x h c) →
       (p.lpc + 1 ≠ rpc → ∃ t, exec (.vbrk w) s = .next t ∧ (j < 16 → m < 16 → branched s t p) ∧ t.mem = s.mem ∧ t.stackEntry j = opens ∧
         t.stackEntry m = .path j true target taken p.hist p.cstack ∧
         t.grp.splits[s.spl] = some { p with lpc := p.lpc + 1, mask := rest, join := some j, dbgSkip := none } ∧ ∀ k : SplitIx, k ≠ s.spl → t.grp.splits[k] = s.grp.splits[k]) ∧
       (p.lpc + 1 = rpc → ∃ t, exec (.vbrk w) s = .next t ∧ t.mem = s.mem ∧ t.stackEntry j = .join p.join rpc p.mask rest p.hist p.cstack ∧
         t.stackEntry m = .path j true target taken p.hist p.cstack ∧ t.grp.splits[s.spl] = none)) ∧
     (∀ (i : Nat) o x a h c (k : SplitIx), p.join = some i → s.stackEntry i = .join o rpc x a h c → a ≠ x → target ≠ rpc → p.lpc + 1 ≠ rpc →
       s.grp.splits[k] = none → (∀ n : SplitIx, n < k → s.grp.splits[n] ≠ none) →
       ∃ t, exec (.vbr w) s = .next t ∧ branched s t p ∧ t.grp.stack = s.grp.stack ∧ t.team.pool = s.team.pool ∧
         t.grp.splits[s.spl] = some { p with lpc := target, mask := taken, hist := p.hist.rotateLeft 2 ^^^ 3, dbgSkip := none } ∧
         t.grp.splits[k] = some { p with lpc := p.lpc + 1, mask := rest, rank := p.rank + 1, hist := p.hist.rotateLeft 2 ^^^ 2, dbgSkip := none }) ∧
     (s.grp.handler = false → outside → s.freeEntry = none →
       (∃ t, exec (.vbr w) s = .next t ∧ laneTrapped s t p 0x021 0xFF 0) ∧ ∃ t, exec (.vbrk w) s = .next t ∧ laneTrapped s t p 0x021 0xFF 0) ∧
     (∀ j, s.grp.handler = false → outside → target ≠ rpc → s.freeEntry = some j → (s.setStack j opens).freeEntry = none →
       (∀ i d h c x, s.stackEntry i ≠ .path j d target x h c) → ∃ t, exec (.vbrk w) s = .next t ∧ laneTrapped s t p 0x021 0xFF 0)) ∧
  (∀ (s : State) (w : LaneWord) (p : Split), inHand s p → let taken := lanesOf s p w
     taken = p.mask ∨ taken = 0 ∧ p.mask ≠ 0 → ∃ t, exec (.vbr w) s = .next t ∧
       (w.guard = 7 → ∀ c : CoreIx, t.cores[c].guidon = s.cores[c].guidon) ∧
       (w.guard ≠ 7 → let ix := guidonIx p.lpc p.hist
         let e := s.core.guidonEntry ix
         t.core.guidonEntry ix = (taken, if e.1 &&& p.mask = taken then min 3 (e.2 + 1) else e.2 - 1) ∧
         (∀ i, i ≠ ix → t.core.guidonEntry i = s.core.guidonEntry i) ∧ ∀ c : CoreIx, c ≠ s.team.core → t.cores[c].guidon = s.cores[c].guidon)) ∧
  ∀ c : CoreSt, ∀ pc : Word, ∀ h : BitVec 10, guidonIx pc h < 1024 ∧ (c.guidon = [] → c.guidonEntry (guidonIx pc h) = (0, 0))

/-- R139 (spec/07): every lane of a VSWITCH goes to the target of the first case word that its A matches, or to the default. One target moves the split;
several divide it, and every lane then lies in a split that stands at its target, as far as split entries are free. -/
def Obligations.SwitchSendsEachLaneToItsCase : Prop :=
  ∀ (s : State) (w : LaneWord) (p : Split) (bits : List (BitVec 96)), inHand s p → s.caseBits (p.lpc + 1) w.sub.toNat = .ok bits →
    (∀ b ∈ bits, b.extractLsb' 0 32 = 0) →
    let cases : List (Word × Word) := bits.map fun b => (b.extractLsb' 64 32, p.lpc + b.extractLsb' 32 32)
    let rpc := p.lpc + (w.imm.extractLsb' 0 16).signExtend 32
    let target (l : Fin 64) : Word :=
      match cases.find? fun c => c.1 == (opened s p).srcN w w.srcA l with
      | some c => c.2
      | none => p.lpc + (w.imm.extractLsb' 16 16).signExtend 32
    (∀ pc, p.mask ≠ 0 → (∀ l : Fin 64, p.mask.getLsbD l.val = true → target l = pc) →
      ∃ t, exec (.vswitch w) s = .next t ∧ branched s t p ∧ t.grp.splits = s.grp.splits.set s.spl (some { p with lpc := pc })) ∧
    (∀ j, s.freeEntry = some j → (∃ l m : Fin 64, p.mask.getLsbD l.val = true ∧ p.mask.getLsbD m.val = true ∧ target l ≠ target m) →
      (∀ i o pc x a h c, p.join = some i → s.stackEntry i = .join o pc x a h c → pc ≠ rpc) →
      (∀ l : Fin 64, p.mask.getLsbD l.val = true → target l ≠ rpc) →
      ((maskLanes p.mask).map target).eraseDups.length ≤ 1 + ((List.finRange 4).filter fun k => s.grp.splits[k].isNone).length →
      ∃ t, exec (.vswitch w) s = .next t ∧ (j < 16 → branched s t p) ∧ t.mem = s.mem ∧ t.stackEntry j = .join p.join rpc p.mask 0 p.hist p.cstack ∧
        ∀ l : Fin 64, p.mask.getLsbD l.val = true → ∃ (k : SplitIx) (q : Split), t.grp.splits[k] = some q ∧ q.mask.getLsbD l.val = true ∧
          q.lpc = target l ∧ q.join = some j ∧ q.cstack = p.cstack ∧ q.hist = p.hist)

/-- R133 and R141 (spec/07): VEXIT retires the executing lanes and the split goes on with the rest; VSTOP retires them all and the split ends. The block is
complete once every lane of the group has retired. Stated for a split outside every join. R69, R133, R145 and R147 (spec/03, spec/07): a queued block starts once no block runs, with every lane active at its lane PC; a split that stands at its
innermost join's PC arrives there and ends, and the merged split goes on once all have arrived; a loadable path entry takes a free split entry; and a
predicted VBR resolves to what the VBR does.
Model's choices in it: notes/assumptions 87. -/
def Obligations.LanesRetireAndSplitsMeet : Prop :=
  (∀ (s : State) (w : LaneWord) (p : Split), inHand s p → p.join = none →
     let e := lanesOf s p w
     let ended (t : State) (m : Mask) : Prop := branched s t p ∧ t.grp.retired = s.grp.retired ||| m ∧
       (s.grp.retired ||| m = BitVec.allOnes 64 → ∀ b ∈ t.grp.blocks, b.started = true → b.done = true) ∧
       (s.grp.retired ||| m ≠ BitVec.allOnes 64 → t.grp.blocks.map (fun b => b.done) = s.grp.blocks.map fun b => b.done)
     (p.mask &&& ~~~e ≠ 0 → ∃ t, exec (.vexit w) s = .next t ∧ ended t e ∧
       t.grp.splits = s.grp.splits.set s.spl (some { p with lpc := p.lpc + 1, mask := p.mask &&& ~~~e, atBar := none })) ∧
     (p.mask &&& ~~~e = 0 → ∃ t, exec (.vexit w) s = .next t ∧ ended t p.mask ∧ t.grp.splits[s.spl] = none) ∧
     (∃ t, exec (.vstop w) s = .next t ∧ ended t p.mask ∧ t.grp.splits[s.spl] = none ∧
       ∀ (k : SplitIx) (q : Split), k ≠ s.spl → s.grp.splits[k] = some q → t.grp.splits[k] = some { q with rank := if p.rank < q.rank then q.rank - 1 else q.rank })) ∧
  (∀ s : State, s.team.live = true → s.grp.phase = .running → s.grp.handler = false → s.grp.chain = none →
     (∀ (b : Block) (r : List Block), s.grp.blocks = b :: r → b.started = false → (∀ x ∈ r, x.started = false) →
       ∃ t, exec (.laneBlockStart s.cur s.gix) s = .next t ∧ t.grp.blocks = { b with started := true } :: r ∧ t.grp.retired = 0 ∧
         t.grp.splits = #v[some { lpc := b.pc, mask := BitVec.allOnes 64, rank := 0, join := none, cstack := [], hist := 0, atBar := none, dbgSkip := none },
                           none, none, none] ∧ groupPast s t) ∧
     (∀ (k : SplitIx) (p : Split) (j : Nat) o x a h c, s.grp.splits[k] = some p → p.atBar = none → p.join = some j → j < 16 → s.stackEntry j = .join o p.lpc x a h c →
       (s.splitErr k p = false → a ||| p.mask ≠ x → ∃ t, exec (.splitArrival s.cur s.gix k) s = .next t ∧ t.grp.splits[k] = none ∧
         t.stackEntry j = .join o p.lpc x (a ||| p.mask) h c ∧ groupOnly s t) ∧
       (s.splitErr k p = true → ∃ t, exec (.splitArrival s.cur s.gix k) s = .next t ∧ recorded s t { s.record 0x100 with spc := s.blockSpc, lpc := p.lpc, lane := 0xFF } s.grp.spc p.lpc) ∧
       (s.splitErr k p = false → a ||| p.mask = x → x ≠ 0 → ∃ t, exec (.splitArrival s.cur s.gix k) s = .next t ∧ t.stackEntry j = .free ∧ groupOnly s t ∧
         ∃ (i : SplitIx) (q : Split), t.grp.splits[i] = some q ∧ q.lpc = p.lpc ∧ q.mask = x ∧ q.join = o ∧ q.cstack = c ∧ q.hist = h)) ∧
     (∀ (i j : Nat) (pc : Word) (m : Mask) h c, i < 16 → s.stackEntry i = .path j false pc m h c → (∀ n, i < n → n < 48 → s.owns n = true → s.loadable n = false) →
       (∃ k : SplitIx, s.grp.splits[k] = none) → ErrAt.stack i ∉ s.grp.errs →
       ∃ t, exec (.pathEntryLoad s.cur s.gix) s = .next t ∧ t.stackEntry i = .free ∧ groupOnly s t ∧
         ∃ (k : SplitIx) (q : Split), s.grp.splits[k] = none ∧ t.grp.splits[k] = some q ∧ q.lpc = pc ∧ q.mask = m ∧ q.join = some j ∧ q.cstack = c ∧ q.hist = h) ∧
     (∀ (k : SplitIx) (p : Split) (w : LaneWord), s.grp.stepping = false → s.grp.splits[k] = some p →
       ({ s with spl := k } : State).lanePick k = some (.vbr w) → s.predicts w p = true →
       (s.core.guidonEntry (guidonIx p.lpc p.hist)).1 &&& p.mask = p.mask → lanesOf s p w = 0 → p.mask ≠ 0 →
       ∃ t, exec (.guidonResolution s.cur s.gix k 0 0) s = .next t ∧
         t.grp.splits[k] = some { p with lpc := p.lpc + 1, hist := p.hist.rotateLeft 2 } ∧ t.mem = s.mem ∧ t.grp.vregs = s.grp.vregs) ∧
     (∀ (k : SplitIx) (p : Split) (w : LaneWord) (n m : Nat) (l : List Issued), s.grp.stepping = false → s.grp.splits[k] = some p →
       ({ s with spl := k } : State).lanePick k = some (.vbr w) → s.predicts w p = true →
       let b : State := { s with spl := k }
       let guess := (s.core.guidonEntry (guidonIx p.lpc p.hist)).1 &&& p.mask
       let truth := lanesOf s p w
       let issue := List.replicate (min 25 n) true ++ List.replicate (min 25 m) false
       let undone := (l.filter fun x => x.entry && !(x.lanes &&& (guess ^^^ truth) == 0)).length
       let replayed := (if truth &&& ~~~guess = 0 then 0 else (l.filter fun x => x.taken).length) +
         (if guess &&& ~~~truth = 0 then 0 else (l.filter fun x => !x.taken).length)
       b.speculate w p guess issue = some l → l.length ≤ 24 → ∀ u, exec (.vbr w) (b.recordPred p.lpc guess truth undone replayed) = .next u → u.trapped = false →
         let v := (u.windowRun p.mask truth (issue.filter fun x => (u.splitWith (if x then p.mask &&& truth else p.mask &&& ~~~truth)).isSome)).1
         ∃ t, exec (.guidonResolution s.cur s.gix k n m) s = .next t ∧ t.mem = v.mem ∧ t.hostMem = v.hostMem ∧ t.grp.vregs = v.grp.vregs ∧ t.grp.preds = v.grp.preds ∧
           t.grp.splits = v.grp.splits ∧ t.grp.stack = v.grp.stack ∧ t.grp.sregs = v.grp.sregs ∧ t.grp.blocks = v.grp.blocks ∧ t.team.spad = v.team.spad ∧
           t.grp.guessed = if guess = truth then none else some p.lpc)) ∧
  (∀ (i : Instr) (f : State → Host.Outcome State Fault Refusal), windowWord i = some f → ∀ s : State, f s = exec i s) ∧
  (∀ w : LaneWord, ∀ i ∈ [Instr.sts w, .stsh w, .sttr w, .hins w, .hprb w, .hdel w, .hacc w, .qpush w, .qpop w, .bar w, .vvote w, .vredx w, .vscan w, .vshfl w, .cvtq w, .vbr w, .vbrk w,
     .vswitch w, .vcall w, .vret w, .vexit w, .vstop w, .lanePmark w, .lanePcnt w, .laneRace w, .laneDstop w, .ats w, .atm w, .adcas w, .axmv w,
     .ared w, .laneFence w, .vbcst w, .vmatch w, .qtryPop w, .qtryPush w, .qallow w], windowWord i = none) ∧
  (∀ (s u v : State) (m truth : Mask) (side : Bool) (k : SplitIx) (q : Split) (i : Instr) (opc : Nat) (w : LaneWord),
     s.splitWith (if side then m &&& truth else m &&& ~~~truth) = some k → s.grp.splits[k] = some q → s.laneInstrAt q.lpc = i → laneParts i = some (opc, w) → w.hold = false →
     (windowWord i).isSome = true → s.arrived q = false → s.grp.chainFault i = false → s.laneErrOf k i = none → u = ({ s with spl := k } : State).readPreds (some i) →
     exec i u = .next v → let x := u.issuedTo true i v
     x.trapped = false → x.blocked = false → (s.windowRun m truth [side]).1 = x)

/-- R151 and R153 (spec/08): LDS and STS access s[A] + IMM32 of each executing lane, where every address is aligned to the access, within SPADSIZE and clear
of pool entries in use, and no loaded word is poisoned. A load writes 4, 8 or 16 bytes, or a narrow value extended by its type; of several lanes that store
to one byte, the highest wins. A load finds each 4-byte word as it stands, or as it stood before a store that its stream need not see yet (R154;
notes/assumptions 110). The frames are stated for a team without race checking.
Model's choices in it: notes/assumptions 110. -/
def Obligations.LaneScratchpadWords : Prop :=
  ∀ (s : State) (w : LaneWord) (p : Split), inHand s p →
    let o := opened s p
    let e := lanesOf s p w
    let n := accessBytes w.type
    let a (l : Fin 64) : Nat := (o.srcN w w.srcA l + w.imm).toNat
    (∀ l : Fin 64, e.getLsbD l.val = true → padFree s (a l) n) →
    ((∀ l : Fin 64, e.getLsbD l.val = true → poisoned s.team.spadPoison (a l) n = false) →
      ∃ (t : State) (f : Nat → Word), exec (.lds w) s = .next t ∧ (s.team.race = false → laneFellPast s t p w 0) ∧ lanesFind s f ∧
        loaded s t p w fun l => wordsNum f (a l) n) ∧
    (teamStores s.team = true → ∃ t, exec (.sts w) s = .next t ∧ t.mem = s.mem ∧ t.grp.vregs = s.grp.vregs ∧ t.grp.preds = s.grp.preds ∧
      t.grp.sregs = s.grp.sregs ∧ t.team.tiles = s.team.tiles ∧
      (∀ y, padByte t y = afterStores ((maskLanes e).map fun l => (a l, o.storeData w w.srcB l)) (padByte s y) y) ∧
      (s.team.race = false → noFlagTrap s w 0 → padOnly s t ∧ laneMoved s t p w 0))

/-- R156, R157 and R160 (spec/08): LDSH and STSH access a buffer through its 8-byte handle, at its base plus B + IMM32, where the handle is valid, the buffer
is not filling, and the access is aligned, within the buffer and clear of pool entries; LDTR and STTR access a tile register at a row and a byte column.
Model's choices in it: notes/assumptions 22, 110. -/
def Obligations.BufferAndTileWords : Prop :=
  ∀ (s : State) (w : LaneWord) (p : Split) (base len : Fin 64 → Nat), inHand s p →
    let o := opened s p
    let e := lanesOf s p w
    let n := accessBytes w.type
    let h (l : Fin 64) : Nat := (o.srcN w w.srcA l).toNat
    let off (l : Fin 64) : Nat := (o.srcN w w.srcB l + w.imm).toNat
    let a (l : Fin 64) : Nat := base l + off l
    let k := w.imm.toNat % 32
    let sh := (s.team.tile k).shape
    let row (l : Fin 64) : Nat := (o.srcN w w.srcA l).toNat
    let col (l : Fin 64) : Nat := (o.srcN w w.srcB l).toNat
    ((∀ l : Fin 64, e.getLsbD l.val = true → h l < 64 ∧ 8 * h l + 8 ≤ s.team.spadSize ∧ padNum s (8 * h l) 4 = base l ∧ padNum s (8 * h l + 4) 4 = len l ∧
        poisoned s.team.spadPoison (8 * h l) 8 = false ∧ base l % 16 = 0 ∧ len l % 16 = 0 ∧ len l ≠ 0 ∧ base l + len l ≤ s.team.spadSize ∧ s.team.filling.getLsbD (h l) = false ∧ off l + n ≤ len l ∧
        a l % n = 0 ∧ s.team.poolTouched (a l) n = false) →
      ((∀ l : Fin 64, e.getLsbD l.val = true → poisoned s.team.spadPoison (a l) n = false) →
        ∃ (t : State) (f : Nat → Word), exec (.ldsh w) s = .next t ∧ (s.team.race = false → laneFellPast s t p w 0) ∧ lanesFind s f ∧
          loaded s t p w fun l => wordsNum f (a l) n) ∧
      (teamStores s.team = true → ∃ t, exec (.stsh w) s = .next t ∧ t.mem = s.mem ∧ t.grp.vregs = s.grp.vregs ∧
        (∀ y, padByte t y = afterStores ((maskLanes e).map fun l => (a l, o.storeData w w.srcC l)) (padByte s y) y) ∧
        (s.team.race = false → noFlagTrap s w 0 → padOnly s t ∧ laneMoved s t p w 0))) ∧
    (k < s.team.obj.tiles → (∀ l : Fin 64, e.getLsbD l.val = true → col l % n = 0 ∧ row l < sh.rows ∧ col l + n ≤ sh.rb) →
      ((∀ l : Fin 64, e.getLsbD l.val = true → (s.team.tile k).poisonedAt (row l) (col l) n = false) →
        ∃ t, exec (.ldtr w) s = .next t ∧ laneFell s t p w 0 ∧
          loaded s t p w fun l => ofBytes ((List.range n).map fun i => Memory.read (s.team.tile k).bytes (sh.offset (row l) (col l + i)))) ∧
      (teamStores s.team = true → ∃ t, exec (.sttr w) s = .next t ∧ t.mem = s.mem ∧ t.team.spad = s.team.spad ∧ t.grp.vregs = s.grp.vregs ∧
        (t.team.tile k).shape = sh ∧ (noFlagTrap s w 0 → laneMoved s t p w 0) ∧ (∀ i, i ≠ k → t.team.tile i = s.team.tile i) ∧
        ∀ y, Memory.read (t.team.tile k).bytes y =
          afterStores ((maskLanes e).flatMap fun l => (List.range n).map fun i => (sh.offset (row l) (col l + i), [(o.storeData w w.srcC l).getD i 0]))
            (Memory.read (s.team.tile k).bytes y) y))

/-- R161 and R162 (spec/08): with room and allowance a push appends the executing lanes' handles in ascending order, and with enough items a pop gives them out in
ascending order and raises the race epoch; the TRY forms say in a predicate whether they acted; QALLOW adds to the allowance. R163 (spec/08): BAR b, n is the arrival of one split; with n 0 the barrier expects one from each group. Before the last arrival the split waits, standing
at the word after its BAR; the last one releases every split of the team that waits at b to that word, and the barrier's generation and the race epoch rise.
Model's choices in it: notes/assumptions 23, 104. -/
def Obligations.HoistQueuesAndBarriers : Prop :=
  (∀ (s : State) (w : LaneWord) (p : Split), inHand s p → lanesOf s p w ≠ 0 →
     let o := opened s p
     let e := lanesOf s p w
     let n := (maskLanes e).length
     let q := w.imm.toNat % 16
     let h := s.team.hoist q
     let fits := n + h.items.length + h.resv ≤ h.cap ∧ n ≤ h.allow
     let put : Hoist := { h with items := h.items ++ (maskLanes e).map fun l => o.srcN w w.srcA l, allow := h.allow - n }
     let got : Hoist := { h with items := h.items.drop n }
     let given (l : Fin 64) : Word := h.items.getD ((maskLanes e).filter fun k => decide (k < l)).length 0
     let same (t : State) : Prop := t.mem = s.mem ∧ t.team.spad = s.team.spad ∧ t.grp.sregs = s.grp.sregs ∧
       (∀ i, i ≠ q → t.team.hoist i = { s.team.hoist i with waiters := (t.team.hoist i).waiters }) ∧
       (noFlagTrap s w 0 → laneMoved s t p w 0 ∧ ∀ i, (t.team.hoist i).waiters = (s.team.hoist i).waiters)
     let is (t : State) (x : Hoist) : Prop := t.team.hoist q = { x with waiters := (t.team.hoist q).waiters } ∧
       t.team = { s.team with groups := t.team.groups, hoists := t.team.hoists, epoch := t.team.epoch, past := t.team.past }
     let tried (t : State) (v : Bool) : Prop := ∀ (j : Nat) (l : Fin 64), (t.grp.pred j).getLsbD l.val =
       if j = w.imm.toNat / 256 % 8 ∧ j < 7 ∧ e.getLsbD l.val = true then v else (s.grp.pred j).getLsbD l.val
     q < s.team.obj.hoists → n ≤ h.cap →
       (fits → h.waiters = [] → ∃ t, exec (.qpush w) s = .next t ∧ is t put ∧ same t ∧ t.grp.vregs = s.grp.vregs ∧ t.team.epoch = s.team.epoch) ∧
       (n ≤ h.items.length → h.waiters = [] → ∃ t, exec (.qpop w) s = .next t ∧ is t got ∧ same t ∧ wrote32 s t p w given ∧
         t.team.epoch = s.team.epoch + 1) ∧
       (n ≤ h.items.length → ∃ t, exec (.qtryPop w) s = .next t ∧ is t got ∧ same t ∧ tried t true ∧ t.team.epoch = s.team.epoch + 1 ∧
         (w.nowb = false → ∀ l : Fin 64, e.getLsbD l.val = true → t.grp.vregs[w.dst.toNat][l] = given l)) ∧
       (h.items.length < n → ∃ t, exec (.qtryPop w) s = .next t ∧ is t h ∧ same t ∧ tried t false ∧
         t.grp.vregs = s.grp.vregs ∧ t.team.epoch = s.team.epoch) ∧
       (fits → ∃ t, exec (.qtryPush w) s = .next t ∧ is t put ∧ same t ∧ tried t true ∧ t.grp.vregs = s.grp.vregs) ∧
       (¬ fits → ∃ t, exec (.qtryPush w) s = .next t ∧ is t h ∧ same t ∧ tried t false ∧
         t.grp.vregs = s.grp.vregs ∧ t.team.epoch = s.team.epoch) ∧
       (∀ l : Fin 64, e.getLsbD l.val = true → (∀ k : Fin 64, e.getLsbD k.val = true → l ≤ k) → h.allow + (o.srcN w w.srcA l).toNat < 65536 →
         ∃ t, exec (.qallow w) s = .next t ∧ is t { h with allow := h.allow + (o.srcN w w.srcA l).toNat } ∧ same t ∧ t.grp.vregs = s.grp.vregs)) ∧
  (∀ (s : State) (w : LaneWord) (p : Split), inHand s p → lanesOf s p w ≠ 0 →
     let b := w.imm.toNat % 16
     let f := w.imm.toNat / 256 % 32
     let n := if f = 0 then s.team.obj.groups else f
     let x := s.team.barrier b
     b < s.team.obj.bars → f ≤ 16 → (x.count ≠ 0 → x.n = n) →
       (x.count + 1 < n → ∃ t, exec (.bar w) s = .next t ∧ t.team.barrier b = { x with count := x.count + 1, n := n } ∧
         t.grp.splits = s.grp.splits.set s.spl (some { p with lpc := p.lpc + 1, atBar := some (b, x.gen) }) ∧ t.team.epoch = s.team.epoch ∧
         t.mem = s.mem ∧ t.team.spad = s.team.spad ∧ t.grp.vregs = s.grp.vregs ∧ t.grp.preds = s.grp.preds) ∧
       (n ≤ x.count + 1 → ∃ t, exec (.bar w) s = .next t ∧ t.team.barrier b = { count := 0, n := 0, gen := x.gen + 1 } ∧
         t.grp.splits[s.spl] = some { p with lpc := p.lpc + 1, atBar := none } ∧ t.team.epoch = s.team.epoch + 1 ∧
         (∀ (g : GrpIx) (k : SplitIx) (q : Split) (i : BitVec 16), s.team.groups[g].splits[k] = some q → q.atBar = some (b, i) → (g, k) ≠ (s.gix, s.spl) →
           t.team.groups[g].splits[k] = some { q with atBar := none }) ∧
         t.mem = s.mem ∧ t.team.spad = s.team.spad ∧ t.grp.vregs = s.grp.vregs ∧ t.grp.preds = s.grp.preds))

/-- R174, R175 and R178 (spec/09): the hash of a key, the fold of a 64-bit key, the home bucket and the probe order; a lookup finds the first slot of the probe
order that holds the key and never misses it in the home bucket; the room it finds is an empty or deleted slot of the probe order. -/
def Obligations.HashLookups : Prop :=
  (∀ k hi lo : Word, hash32 k.toNat = ((k * 0x2C1B3C6D).rotateLeft 13 ^^^ (k * 0x297A2D39)).toNat ∧
    foldKey (hi ++ lo).toNat = (lo ^^^ (hi * 0x2C1B3C6D).rotateLeft 7).toNat) ∧
  ∀ (t : Team) (h : HashTab) (key : Nat),
    let home := hash32 (if h.wideKey then foldKey key else key) / 2 ^ (32 - h.logb)
    let order := ((List.range h.span).map fun j => (home + j) % 2 ^ h.logb).flatMap fun b => (List.range 8).map fun i => h.slotAt b i
    (∀ a, (t.lookup h key).found = some a → order.find? (fun y => t.spadRead y h.keyBytes == key) = some a) ∧
    (∀ a, (t.lookup h key).room = some a → a ∈ order ∧
      (t.spadRead a h.keyBytes = 2 ^ (8 * h.keyBytes) - 1 ∨ t.spadRead a h.keyBytes = 2 ^ (8 * h.keyBytes) - 2)) ∧
    ((t.lookup h key).found = none → ∀ i < 8, t.spadRead (h.slotAt (home % 2 ^ h.logb) i) h.keyBytes ≠ key) ∧
    ((t.lookup h key).found = none → (t.lookup h key).room = none → ∀ a ∈ order, t.spadRead a h.keyBytes ≠ key)

/-- R176-R180 and R183 (spec/09): the hash words on a usable table, of a group with no other hash word between its steps, where no operand holds an error and none
of their destinations was read earlier in their chain (R32). HPRB is stated for lanes whose keys, sentinels apart, are one key, the words that change the table
for executing lanes that share one key that is no sentinel, where a lookup finds it, finds room, or finds neither: then the word is FULL without a spill ring,
SPILLED with a record appended to the ring, or LOST where the consumed count it reads leaves no room (notes/assumptions 31, 34). HashWordsRunKeyByKey has lanes of
several keys.
Model's choices in it: notes/assumptions 31, 34, 38, 114. -/
def Obligations.HashWords : Prop :=
  ∀ (s : State) (w : LaneWord) (p : Split) (h : HashTab), inHand s p → s.grp.parked = [] → w.hold = false →
    (∀ c, s.grp.chain = some c → ∀ r ∈ hashWrites w h, r ∉ c.reads) → (∀ c ∈ [0x1C0, 0x1C1, 0x1C2, 0x1C3], (opened s p).sourceErr p c w = none) →
    let o := opened s p
    let e := lanesOf s p w
    let tbl := w.imm.toNat / 4096 % 4
    let vs : Reg := w.imm.extractLsb' 0 8
    let k := w.imm.toNat / 256 % 8
    let key (l : Fin 64) : Nat := o.hashSource w h.wideKey w.srcA l
    let b (l : Fin 64) : Nat := o.hashSource w h.wideVal w.srcB l
    let sentinel (x : Nat) : Prop := x = h.empty ∨ x = h.tombstone
    let val (a : Nat) : Nat := padNum s (a + h.valAt) h.valBytes
    let absent : Nat := if h.spilled = 0 then 2 else 3
    let got (t : State) (code v : Fin 64 → Nat) : Prop :=
      t.grp.sregs = s.grp.sregs ∧
      (∀ l : Fin 64, e.getLsbD l.val = true →
        t.grp.vregs[vs.toNat][l] = BitVec.ofNat 32 (code l) ∧ (w.nowb = false → vs ≠ w.dst → t.grp.vregs[w.dst.toNat][l] = BitVec.ofNat 32 (v l)) ∧
        (w.nowb = false → h.wideVal = true → vs ≠ w.dst + 1 → t.grp.vregs[(w.dst + 1).toNat][l] = BitVec.ofNat 32 (v l / 2 ^ 32)) ∧
        (k < 7 → (t.grp.pred k).getLsbD l.val = decide (code l ≤ 1)) ∧ (k < 6 → (t.grp.pred (k + 1)).getLsbD l.val = decide (3 ≤ code l))) ∧
      (∀ (r : Reg) (l : Fin 64), e.getLsbD l.val = false ∨ (r ≠ vs ∧ r ≠ w.dst ∧ r ≠ w.dst + 1) → t.grp.vregs[r.toNat][l] = s.grp.vregs[r.toNat][l]) ∧
      (noFlagTrap s w 0 → t.grp.chain = none ∧ t.grp.splits = s.grp.splits.set s.spl (some { p with lpc := p.lpc + 1, atBar := none }))
    let gives (t : State) (code v : Fin 64 → Nat) : Prop := t.mem = s.mem ∧ got t code v
    s.team.table tbl = some h → h.dstate = false →
      (hashOdd w h .prb = false → (∀ l : Fin 64, e.getLsbD l.val = true → ¬ sentinel (key l) → (s.team.lookup h (key l)).bad = none) →
        (∀ l m : Fin 64, e.getLsbD l.val = true → e.getLsbD m.val = true → ¬ sentinel (key l) → ¬ sentinel (key m) → key l = key m) →
        ∃ t code v, exec (.hprb w) s = .next t ∧ laneFell s t p w 0 ∧ gives t code v ∧ ∀ l : Fin 64, e.getLsbD l.val = true →
          (sentinel (key l) → code l = 7 ∧ v l = 0) ∧
          (¬ sentinel (key l) → (s.team.lookup h (key l)).found = none → code l = absent ∧ v l = 0) ∧
          (∀ a, ¬ sentinel (key l) → (s.team.lookup h (key l)).found = some a → code l = 1 ∧ v l = val a)) ∧
      (∀ (x : Nat) (l0 : Fin 64), teamStores s.team = true → ¬ sentinel x → (∀ l : Fin 64, e.getLsbD l.val = true → key l = x ∧ l0 ≤ l) →
        e.getLsbD l0.val = true → (s.team.lookup h x).bad = none →
        let first (l : Fin 64) (c d : Nat) : Nat := if l = l0 then c else d
        let wrote (t : State) (a : Nat) (bs : List Byte) (h2 : HashTab) : Prop :=
          (∀ y, padByte t y = afterStores [(a, bs)] (padByte s y) y) ∧ t.team.table tbl = some h2
        let keeps (t : State) : Prop := t.team.spad = s.team.spad ∧ t.team.table tbl = some h
        let room := (h.ring.ext.headD 1 - 64) / 24
        let full (i : Instr) (op v : Nat) : Prop :=
          (s.team.lookup h x).found = none → (s.team.lookup h x).room = none →
            (h.spills = false → ∃ t, exec i s = .next t ∧ gives t (fun _ => 5) (fun _ => 0) ∧ keeps t) ∧
            (h.spills = true → (h.ringP - h.ringC).toNat < room →
              ∃ t c, exec i s = .next t ∧ gives t (fun _ => 4) (fun _ => 0) ∧ t.team.spad = s.team.spad ∧
                t.team.table tbl = some { h with ringP := h.ringP + 1, spilled := if h.spilled = 0xFFFFFFFF then h.spilled else h.spilled + 1 } ∧
                t.team.cmds = s.team.cmds ++ [c] ∧ c.gix = s.gix ∧ c.op = .spill ∧ c.shape = h.ring ∧ c.seq = s.grp.cmdSeq ∧
                c.writes = [(h.ring.base + BitVec.ofNat 64 (0x40 + 24 * (h.ringP.toNat % room)),
                             toBytes 8 x ++ toBytes 8 v ++ [BitVec.ofNat 8 op, BitVec.ofNat 8 h.vt, BitVec.ofNat 8 tbl, BitVec.ofNat 8 h.fmt] ++ toBytes 4 h.ringP.toNat),
                            (h.ring.base, toBytes 8 (h.ringP + 1).toNat)]) ∧
            (∀ c : DWord, h.spills = true → room ≤ (h.ringP - h.ringC).toNat → (∀ q, ((o.setHash q).readHeader h.ring 8).2 = some c) →
              room ≤ (h.ringP - c).toNat → s.grp.enables.getLsbD 5 = false →
              ∃ t, exec i s = .next t ∧ got t (fun _ => 6) (fun _ => 0) ∧ t.team.spad = s.team.spad ∧ t.team.cmds = s.team.cmds ∧
                t.team.table tbl = some { h with ringC := c, lost := BitVec.ofNat 32 (2 ^ 31 + min (h.lost.toNat % 2 ^ 31 + 1) (2 ^ 31 - 1)) })
        (∀ a, hashOdd w h .del = false → (s.team.lookup h x).found = some a →
          ∃ t, exec (.hdel w) s = .next t ∧ gives t (fun l => first l 1 2) (fun l => first l (val a) 0) ∧
            wrote t a (toBytes h.keyBytes h.tombstone) { h with live := h.live - 1, tomb := h.tomb + 1 }) ∧
        (hashOdd w h .del = false → (s.team.lookup h x).found = none → ∃ t, exec (.hdel w) s = .next t ∧ gives t (fun _ => absent) (fun _ => 0) ∧ keeps t) ∧
        (hashOdd w h .ins = false →
          (∀ a, (s.team.lookup h x).found = some a → ∃ t, exec (.hins w) s = .next t ∧ gives t (fun _ => 1) (fun _ => val a) ∧ keeps t) ∧
          (∀ a, (s.team.lookup h x).found = none → (s.team.lookup h x).room = some a →
            ∃ t, exec (.hins w) s = .next t ∧ gives t (fun l => first l 0 1) (fun _ => b l0) ∧
              wrote t a (h.slot x (b l0))
                { h with live := h.live + 1, tomb := if padNum s a h.keyBytes = h.tombstone then h.tomb - 1 else h.tomb }) ∧
          full (.hins w) 0 (b l0)) ∧
        (∀ v, hashOdd w h (.acc (w.sub.toNat % 4)) = false → (h.isFloat = true → w.sub.toNat % 4 ≠ 3) →
          v = (((maskLanes e).map b).drop 1).foldl (h.apply (w.sub.toNat % 4)) (b l0) →
          (∀ a, (s.team.lookup h x).found = some a → ∃ t, exec (.hacc w) s = .next t ∧ gives t (fun _ => 1) (fun _ => val a) ∧
            wrote t a (h.slot x (h.apply (w.sub.toNat % 4) (val a) v)) h) ∧
          (∀ a, (s.team.lookup h x).found = none → (s.team.lookup h x).room = some a →
            ∃ t, exec (.hacc w) s = .next t ∧ gives t (fun _ => 0) (fun _ => h.identity (w.sub.toNat % 4)) ∧
              wrote t a (h.slot x (h.apply (w.sub.toNat % 4) (h.identity (w.sub.toNat % 4)) v))
                { h with live := h.live + 1, tomb := if padNum s a h.keyBytes = h.tombstone then h.tomb - 1 else h.tomb }) ∧
          full (.hacc w) (w.sub.toNat % 4 + 1) v))

/-- R255 and R256 (spec/13): ATS on executing lanes whose words are aligned, in range, clear of pool entries and not poisoned acts lane by lane in ascending
order: each lane receives what the lower lanes with its address left there, and the word ends as all of them leave it; every other byte stays. -/
def Obligations.ScratchpadAtomicsRunInLaneOrder : Prop :=
  ∀ (s : State) (w : LaneWord) (p : Split), inHand s p → teamStores s.team = true →
    let o := opened s p
    let e := lanesOf s p w
    let n : Nat := if w.type = 2 ∨ w.type = 3 ∨ w.type = 9 then 8 else 4
    let a (l : Fin 64) : Nat := (o.srcN w w.srcA l + w.imm).toNat
    let arg (f : BitVec 10) (l : Fin 64) : Nat := if n = 8 then (o.srcW .unsigned w f l).toNat else (o.srcN w f l).toNat
    let run (ls : List (Fin 64)) (v : Nat) : Nat := ls.foldl (fun v l => atomNew w.sub.toNat w.type.toNat v (arg w.srcB l) (arg w.srcC l) % 2 ^ (8 * n)) v
    w.type ≠ 15 → (∀ l : Fin 64, e.getLsbD l.val = true → padFree s (a l) n ∧ poisoned s.team.spadPoison (a l) n = false) →
      ∃ (t : State) (v : Fin 64 → Nat), exec (.ats w) s = .next t ∧ t.mem = s.mem ∧ t.team.tiles = s.team.tiles ∧ t.grp.sregs = s.grp.sregs ∧
        (noFlagTrap s w 0 → padOnly s t ∧ laneMoved s t p w 0) ∧
        (if n = 8 then wrote64 s t p w fun l => BitVec.ofNat 64 (v l) else wrote32 s t p w fun l => BitVec.ofNat 32 (v l)) ∧
        (∀ l : Fin 64, e.getLsbD l.val = true → v l = run ((maskLanes e).filter fun k => decide (k < l ∧ a k = a l)) (padNum s (a l) n) ∧
          padNum t (a l) n = run ((maskLanes e).filter fun k => decide (a k = a l)) (padNum s (a l) n)) ∧
        ∀ y, (∀ l : Fin 64, e.getLsbD l.val = true → ¬ (a l ≤ y ∧ y < a l + n)) → padByte t y = padByte s y

/-- R348-R351 (spec/17), scalar words: PMARK leaves a MARK record in a session that takes it, and nothing where no session does; PCNT returns a counter's
low half and latches its high half, which bit 8 reads; RACE clears the shadow of the granule that holds a[31:0]; DSTOP counts and passes where DSEN is
clear, takes cause 0x050 where it is set, and passes where the group resumed from it. -/
def Obligations.ScalarDebugWords : Prop :=
  ∀ (s : State) (d a : Reg),
    let x := s.sr a
    let moved : Group := { s.grp with prevSpc := s.grp.spc, spc := s.grp.spc + 4, scalCnt := s.grp.scalCnt + 1, dbgSkip := none }
    let session (u : State) : Option Session := u.ctxs[u.team.ctx].session
    (∃ t, exec (.pmark a) s = .next t ∧ teamAndTrace s t ∧ t.team = { s.team with groups := s.team.groups.set s.gix moved } ∧
      (session s = none → t.ctxs = s.ctxs) ∧ (∀ y, session s = some y → y.mask.getLsbD 0 = false → t.ctxs = s.ctxs) ∧
      ∀ y, session s = some y → y.mask.getLsbD 0 = true → ∃ (z : Session) (ts : List (List Byte)) (h : List Byte), session t = some z ∧
        ts.length ≤ 1 ∧ h.length = 8 ∧ h.take 2 = [3, 3] ∧
        z.held = y.held ++ ts ++ [h ++ toBytes 4 x.toNat ++ toBytes 4 s.grp.spc.toNat ++ toBytes 4 0xFFFFFFFF ++ toBytes 4 s.die.ccyc.toNat]) ∧
    (∃ t, exec (.pcnt d a) s = .next t ∧ groupOnly s t ∧
      (x.getLsbD 8 = false → t.grp = { moved with sregs := s.grp.sregs.set d.toNat ((s.eventCount (x.toNat % 256)).extractLsb' 0 32), errs := t.grp.errs,
                                                  pcntHi := (s.eventCount (x.toNat % 256)).extractLsb' 32 32 }) ∧
      (x.getLsbD 8 = true → t.grp = { moved with sregs := s.grp.sregs.set d.toNat s.grp.pcntHi, errs := t.grp.errs })) ∧
    (∀ k : Nat, (0x12 ≤ k → s.eventCount k = 0) ∧ (k = 0x10 → s.eventCount k = s.grp.laneCnt) ∧ (k = 0x11 → s.eventCount k = s.grp.scalCnt) ∧
      ∀ j : Fin 16, j.val = k → k ∉ [0x02, 0x0B, 0x0C, 0x0D] → s.eventCount k = s.core.cnt[j]) ∧
    (x.toNat < s.team.spadSize → ∃ t, exec (.race a) s = .next t ∧ (s.team.race = false → groupOnly s t) ∧ t.grp = moved ∧ t.mem = s.mem ∧
      t.team = { s.team with groups := t.team.groups, shadow := t.team.shadow } ∧
      (s.team.race = true → t.team.shadow.lookup (x.toNat / 8) = some (s.team.slot s.gix, s.team.epoch - 1)) ∧
      ∀ g, g ≠ x.toNat / 8 → t.team.shadow.lookup g = s.team.shadow.lookup g) ∧
    (s.team.spadSize ≤ x.toNat → s.grp.chain = none → s.grp.handler = false →
      ∃ t, exec (.race a) s = .next t ∧ trapped s t { s.record 0x140 with addr := BitVec.ofNat 64 x.toNat } s.grp.spc 0xFFFFFFFF) ∧
    (s.grp.dbgSkip ≠ some s.grp.spc → s.ctxs[s.team.ctx].dsen = false →
      ∃ t, exec .dstop s = .next t ∧ groupOnly s t ∧ t.grp = moved ∧ t.core.cnt[15] = s.core.cnt[15] + 1) ∧
    (s.grp.dbgSkip = some s.grp.spc → ∃ t, exec .dstop s = .next t ∧ groupOnly s t ∧ t.grp = moved) ∧
    (s.grp.dbgSkip ≠ some s.grp.spc → s.ctxs[s.team.ctx].dsen = true → s.grp.chain = none → s.grp.handler = false →
      ∃ t, exec .dstop s = .next t ∧ trapped s t (s.record 0x050) s.grp.spc 0xFFFFFFFF)

/-- R348-R351 (spec/17), lane words: PMARK and PCNT take the operand of the lowest executing lane, and every executing lane receives the count; RACE
clears the shadow of each executing lane's granule; DSTOP passes where DSEN is clear or its split resumed from its chain. R241 (spec/12): a lane FENCE passes
where it only acquires, where its scope is below cluster, or where no lane memory command of its split is pending; from team scope on, its acquire shows the
group's lanes every store that a release came after, and its release covers every store that they see.
Model's choices in it: notes/assumptions 33. -/
def Obligations.LaneDebugWordsAndFence : Prop :=
  ∀ (s : State) (w : LaneWord) (p : Split), inHand s p →
    let e := lanesOf s p w
    let q : Split := { p with dbgSkip := none }
    let src (l : Fin 64) : Word := (opened s p).srcN w w.srcA l
    (∀ l : Fin 64, e.getLsbD l.val = true → (∀ k : Fin 64, k < l → e.getLsbD k.val = false) →
      (∃ t, exec (.lanePmark w) s = .next t ∧ laneFell (s.mark (src l) s.blockSpc p.lpc) t q w 0 ∧ wroteNone s t p) ∧
      (∃ t, exec (.lanePcnt w) s = .next t ∧
        let x := src l
        let n := s.eventCount (x.toNat % 256)
        let u : State := s.setGrp { s.grp with pcntHi := if x.getLsbD 8 then s.grp.pcntHi else n.extractLsb' 32 32 }
        laneFell u t q w 0 ∧ wrote32 s t p w fun _ => if x.getLsbD 8 then s.grp.pcntHi else n.extractLsb' 0 32)) ∧
    ((∀ l : Fin 64, e.getLsbD l.val = true → (src l).toNat < s.team.spadSize) → ∃ t, exec (.laneRace w) s = .next t ∧
      laneFell (s.modTeam fun u => { u with shadow := t.team.shadow }) t q w 0 ∧ wroteNone s t p ∧
      ∀ g : Nat, t.team.shadow.lookup g =
        if s.team.race = true ∧ ∃ l : Fin 64, e.getLsbD l.val = true ∧ (src l).toNat / 8 = g then some (s.team.slot s.gix, s.team.epoch - 1)
        else s.team.shadow.lookup g) ∧
    (e ≠ 0 → p.dbgSkip ≠ some (chainHead s p) → s.ctxs[s.team.ctx].dsen = false →
      ∃ t, exec (.laneDstop w) s = .next t ∧ laneFell s t q w 0 ∧ wroteNone s t p ∧ t.core.cnt[15] = s.core.cnt[15] + 1) ∧
    (p.dbgSkip = some (chainHead s p) → ∃ t, exec (.laneDstop w) s = .next t ∧ laneFell s t q w 0 ∧ wroteNone s t p) ∧
    (w.sub.toNat % 4 = 0 ∨ w.imm.toNat % 8 < 2 ∨ s.splitPending = false →
      ∃ t, exec (.laneFence w) s = .next t ∧ laneFellPast s t p w 0 ∧ wroteNone s t p ∧
        (w.imm.toNat % 8 = 0 → t.team.past = s.team.past) ∧
        (1 ≤ w.imm.toNat % 8 → ∀ u ∈ t.team.past, (w.sub.toNat % 4 ≠ 1 → u.rel = true → (s.gix, true) ∈ u.seen) ∧
          (w.sub.toNat % 4 ≠ 0 → (s.gix, true) ∈ u.seen → u.rel = true)))

/-- R31, R32, R322 and R323 (spec/02, spec/16): precise traps of lane words undo the chain and name it by its head: LDS misaligned (0x141), RACE out of
range (0x140), DSTOP under DSEN (0x050), VCALL at depth 8 (0x020), VRET with no call (0x022). R22, R37 and R38 (spec/02): a word that is no instruction takes its decode or fetch trap: in the lane stream at the split's word; in the scalar stream
at SPC, where a fetch outside the text names the word that led there. R318 (spec/16), R93 (spec/04): a scalar word that reads a register or a predicate with an
uncorrectable error is found to raise 0x100, a lane word's trap names the lane, a write mends what it writes, and an error leaves every value as it was.
Model's choices in it: notes/assumptions 26, 90, 105. -/
def Obligations.LaneTrapsAndWordsThatAreNoInstruction : Prop :=
  (∀ (s : State) (w : LaneWord) (p : Split), inHand s p → s.grp.handler = false →
     let e := lanesOf s p w
     let src (l : Fin 64) : Word := (opened s p).srcN w w.srcA l
     let lowest (l : Fin 64) (bad : Fin 64 → Prop) : Prop := e.getLsbD l.val = true ∧ bad l ∧ ∀ k : Fin 64, k < l → e.getLsbD k.val = true → ¬ bad k
     let at_ (l : Fin 64) : Nat := (src l + w.imm).toNat
     (∀ l, lowest l (fun k => at_ k % accessBytes w.type ≠ 0) →
       ∃ t, exec (.lds w) s = .next t ∧ laneTrapped s t p 0x141 (BitVec.ofNat 8 l.val) (BitVec.ofNat 64 (at_ l))) ∧
     (∀ l, lowest l (fun k => s.team.spadSize ≤ (src k).toNat) →
       ∃ t, exec (.laneRace w) s = .next t ∧ laneTrapped s t p 0x140 (BitVec.ofNat 8 l.val) (BitVec.ofNat 64 (src l).toNat)) ∧
     (e ≠ 0 → p.dbgSkip ≠ some (chainHead s p) → s.ctxs[s.team.ctx].dsen = true → ∃ t, exec (.laneDstop w) s = .next t ∧ laneTrapped s t p 0x050 0xFF 0) ∧
     (8 ≤ p.cstack.length → ∃ t, exec (.vcall w) s = .next t ∧ laneTrapped s t p 0x020 0xFF 0) ∧
     (p.cstack = [] → ∃ t, exec (.vret w) s = .next t ∧ laneTrapped s t p 0x022 0xFF 0)) ∧
  (∀ (s : State) (c : Cause) (addr : DWord), s.grp.handler = false →
     (s.grp.chain = none → c ≠ 0x044 → ∃ t, exec (.nonInstructionWord false c addr) s = .next t ∧
       trapped s t { s.record c with addr := addr } s.grp.spc 0xFFFFFFFF) ∧
     (s.grp.chain = none → ∃ t, exec (.nonInstructionWord false 0x044 addr) s = .next t ∧
       trapped s t { s.record 0x044 with addr := addr, spc := s.grp.prevSpc } s.grp.spc 0xFFFFFFFF) ∧
     (∀ p : Split, inHand s p → c ≠ 0x100 → c ≠ 0x103 → ∃ t, exec (.nonInstructionWord true c addr) s = .next t ∧ laneTrapped s t p c 0xFF addr) ∧
     ∀ (p : Split) (l : Option (Fin 64)), inHand s p → c = 0x100 ∨ c = 0x103 → s.laneErrOf s.spl (s.laneInstrAt p.lpc) = some (c, l) →
       ∃ t, exec (.nonInstructionWord true c addr) s = .next t ∧ laneTrapped s t p c (match l with | some l => BitVec.ofNat 8 l.val | none => 0xFF) addr) ∧
  (∀ (s : State) (i : Instr), (∀ k, i ≠ .ximm k) → (∀ a b, i ≠ .crows a b) →
     (((∃ r ∈ (scalarReads i).1, ErrAt.sreg r ∈ s.grp.errs) ∨ ∃ q ∈ (scalarReads i).2, ErrAt.qreg q ∈ s.grp.errs) ↔ s.scalarErr i = some 0x100)) ∧
  ∀ (s : State) (d a : Reg) (u : Upset), (∃ t, exec (.smov d a) s = .next t ∧ ErrAt.sreg d ∉ t.grp.errs ∧ ∀ e, e ≠ ErrAt.sreg d → (e ∈ t.grp.errs ↔ e ∈ s.grp.errs)) ∧
    ((∀ pa, u ≠ .memory pa) → (∀ l, u ≠ .lineTag l) → (s.upset u).memPoison = s.memPoison) ∧ (s.upset u).mem = s.mem ∧ (∀ m : TeamIx, (s.upset u).teams[m].spad = s.teams[m].spad) ∧
    (∀ m g k, u = .group m g (.qreg 7) ∨ (∃ l, u = .group m g (.pred (7 + k) l)) ∨ u = .group m g (.stack (16 + k)) → s.upset u = s) ∧
    (∀ m g e, u = .group m g e → e.holds = true → s.upset u = { s with teams := s.teams.set m { s.teams[m] with
      groups := s.teams[m].groups.set g { s.teams[m].groups[g] with errs := e :: s.teams[m].groups[g].errs } } })

/-- R192-R202 (spec/10), R219-R226 (spec/11), R158 (spec/08): a copy word whose entry is its context's and valid, whose descriptor breaks no rule, and whose
right and publish queue the entry and the team have, posts a command with the next CMDSEQ into the open batch; RCZ clears its row counter, a tile buffer begins
to fill, and PUB reserves a slot of its queue with a unit of allowance. With no command slot free, or no slot or allowance to reserve, it waits. The checks trap in
their order: 0x089, 0x08A, 0x088, 0x08B and 0x150.
Model's choices in it: notes/assumptions 20, 91, 111. -/
def Obligations.CopyWordsPostTheirCommand : Prop :=
  ∀ (s : State) (d : Reg) (i : BitVec 16) (o : CmdOp) (x : Instr),
    (o, x) ∈ [(.cten, Instr.cten d i), (.cgth, .cgth d i), (.csct, .csct d i), (.cpack, .cpack d i), (.cunpk, .cunpk d i), (.cfill, .cfill d i)] →
    let w : Vector Word 8 := Vector.ofFn fun k => s.sr (d + BitVec.ofNat 8 k.val)
    let e := s.shapeEntry s.team.ctx i.toNat
    let q := s.team.hoist (dPubq w)
    let room : Prop := s.inFlight s.team.core < 96 ∧ (dPub w = true → q.items.length + q.resv < q.cap ∧ 1 ≤ q.allow)
    let good : Prop := e.ctx = s.team.ctx.val ∧ e.valid = true ∧ ¬ copyBad s o w e ∧ e.rights.getLsbD (copyRight o w) = true ∧
      (dPub w = true → dPubq w < s.team.obj.hoists)
    let trap (c : Cause) : Prop := ∃ t, exec x s = .next t ∧ trapped s t (s.record c) s.grp.spc 0xFFFFFFFF
    (good → room → ∃ (t : State) (c : Cmd), exec x s = .next t ∧ teamAndTrace s t ∧
      c.gix = s.gix ∧ c.seq = s.grp.cmdSeq + 1 ∧ c.sub = 0 ∧ c.op = o ∧ c.w = w ∧ c.shape = e ∧ c.spc = s.grp.spc ∧ c.pos = 0 ∧ c.stat = .running ∧
      c.fault = none ∧
      t.grp = { s.grp with cmdSeq := s.grp.cmdSeq + 1, openB := s.grp.openB ++ [{ seq := c.seq, sub := 0, stat := .running, stop := 0, crcOn := dCrc w,
                                                                                  crc := [] }],
                           prevSpc := s.grp.spc, spc := s.grp.spc + 4, scalCnt := s.grp.scalCnt + 1 } ∧
      t.team = { s.team with groups := s.team.groups.set s.gix t.grp, cmds := s.team.cmds ++ [c], rowCnt := t.team.rowCnt, filling := t.team.filling,
                             hoists := t.team.hoists } ∧
      (∀ k : Fin 16, t.team.rowCnt[k] = if dRcz w = true ∧ dRctr w = k.val then 0 else s.team.rowCnt[k]) ∧
      (∀ k : Nat, t.team.filling.getLsbD k = (s.team.filling.getLsbD k || decide (dDk w = 2 ∧ dField w 1 0 6 = k))) ∧
      ∀ k : Nat, t.team.hoist k = if dPub w = true ∧ k = dPubq w then { q with resv := q.resv + 1, allow := q.allow - 1 } else s.team.hoist k) ∧
    (good → ¬ room → exec x s = .next { s with blocked := true }) ∧
    (s.grp.chain = none → s.grp.handler = false →
      (e.ctx ≠ s.team.ctx.val → trap 0x089) ∧
      (e.ctx = s.team.ctx.val → (e.valid = false → trap 0x08A) ∧
        (e.valid = true → (copyBad s o w e → trap 0x088) ∧
          (¬ copyBad s o w e → (e.rights.getLsbD (copyRight o w) = false → trap 0x08B) ∧
            (e.rights.getLsbD (copyRight o w) = true → dPub w = true → s.team.obj.hoists ≤ dPubq w → trap 0x150)))))

/-- R204-R206, R208 and R209 (spec/10) and R229 (spec/11): CBATCH closes the open batch under the next number; CWAIT passes once no batch up to its number is incomplete;
CSTAT reads a word of a batch's record, the batch CRC among
them, which is the CRC-32C of the commands' byte sequences in post order; CROWS passes once its counter has reached its value, and takes 0x08D where no live command can count; CCNCL ends
every command that it names. CWAIT and CSTAT take 0x08C for a number that is not closed.
Model's choices in it: notes/assumptions 20, 37. -/
def Obligations.BatchWords : Prop :=
  ∀ (s : State) (d a b : Reg),
    let x := s.sr a
    let n := x.extractLsb' 0 16
    let closed : Prop := (s.grp.batchSeq - n).toNat < 32768
    let trap (c : Cause) (i : Instr) : Prop := s.grp.chain = none → s.grp.handler = false → ∃ t, exec i s = .next t ∧ trapped s t (s.record c) s.grp.spc 0xFFFFFFFF
    let next := s.grp.batchSeq + 1
    ((∀ y ∈ s.grp.batches, y.complete = false → (next - y.seq).toNat < 32768) →
      ∃ t, exec (.cbatch d) s = .next t ∧ t.grp.batchSeq = next ∧ t.grp.openB = [] ∧ { seq := next, cmds := s.grp.openB } ∈ t.grp.batches ∧
        t.sr d = next.zeroExtend 32 ∧ (∀ r, r ≠ d → t.sr r = s.sr r) ∧ t.mem = s.mem ∧ t.team.spad = s.team.spad) ∧
    ((x.extractLsb' 16 16 ≠ 0 ∨ ¬ closed) → trap 0x08C (.cwait a)) ∧
    (x.extractLsb' 16 16 = 0 → closed →
      ((∀ y ∈ s.grp.batches, (n - y.seq).toNat < 32768 → y.complete = true) → ∃ t, exec (.cwait a) s = .next t ∧ scalarEnd s t 4 []) ∧
      ((∃ y ∈ s.grp.batches, (n - y.seq).toNat < 32768 ∧ y.complete = false) → exec (.cwait a) s = .next { s with blocked := true })) ∧
    ((x.extractLsb' 18 14 ≠ 0 ∨ ¬ closed) → trap 0x08C (.cstat d a)) ∧
    (x.extractLsb' 18 14 = 0 → closed → ∃ t, exec (.cstat d a) s = .next t ∧ scalarEnd s t 4 [d] ∧
      (256 ≤ (s.grp.batchSeq - n).toNat → t.sr d = if x.extractLsb' 16 2 = 0 then 8 else 0) ∧
      ∀ y, (s.grp.batchSeq - n).toNat < 256 → s.grp.batches.find? (fun z => z.seq == n) = some y →
        let has (v : CmdStat) : Prop := ∃ r ∈ y.cmds, r.stat = v
        (x.extractLsb' 16 2 = 0 → (has .suspended → (t.sr d).toNat % 256 = 3) ∧ (¬ has .suspended → has .running → (t.sr d).toNat % 256 = 0) ∧
          ((∀ r ∈ y.cmds, r.stat = .ok) → (t.sr d).toNat % 256 = 1) ∧ (t.sr d).toNat / 256 = min 255 (y.cmds.filter fun r => r.sub == 0).length) ∧
        (let bit (v : Nat) : Nat := if v % 2 = 1 then (v / 2) ^^^ 0x82F63B78 else v / 2
         let crc (l : List Byte) : Nat := (l.foldl (fun v b => bit^[8] (v ^^^ b.toNat)) 0xFFFFFFFF) ^^^ 0xFFFFFFFF
         crc [0x31, 0x32, 0x33, 0x34, 0x35, 0x36, 0x37, 0x38, 0x39] = 0xE3069283 ∧
         (x.extractLsb' 16 2 = 1 → t.sr d =
           if (∀ r ∈ y.cmds, r.stat = .ok ∨ r.stat = .poisoned) ∧ ∃ r ∈ y.cmds, r.crcOn = true
           then BitVec.ofNat 32 (crc ((y.cmds.filter fun r => r.crcOn).flatMap fun r => r.crc)) else 0)) ∧
        ∀ r, y.cmds.find? (fun r => r.stat != .running && r.stat != .ok) = some r →
          (x.extractLsb' 16 2 = 2 → t.sr d = r.stop) ∧ (x.extractLsb' 16 2 = 3 → t.sr d = r.seq)) ∧
    (16 ≤ x.toNat → trap 0x08C (.crows a b)) ∧
    (∀ k : Fin 16, k.val = x.toNat →
      ((s.team.rowCnt[k] - s.sr b).toNat < 2 ^ 31 → ∃ t, exec (.crows a b) s = .next t ∧ scalarEnd s t 4 []) ∧
      (2 ^ 31 ≤ (s.team.rowCnt[k] - s.sr b).toNat →
        ((∃ c ∈ s.team.cmds, c.live = true ∧ c.counts = true ∧ dRctr c.w = k.val) → exec (.crows a b) s = .next { s with blocked := true }) ∧
        ((∀ c ∈ s.team.cmds, c.live = true → c.counts = true → dRctr c.w ≠ k.val) → trap 0x08D (.crows a b)))) ∧
    (x.extractLsb' 17 15 = 0 →
      (x.getLsbD 16 = true → n = 0 → ∃ t, exec (.ccncl a) s = .next t ∧ t.mem = s.mem ∧ t.team.spad = s.team.spad ∧ t.grp.sregs = s.grp.sregs ∧
        t.grp.spc = s.grp.spc + 4 ∧ ∀ c ∈ t.team.cmds, c.gix = s.gix → c.live = false) ∧
      (x.getLsbD 16 = false → closed → ∃ t, exec (.ccncl a) s = .next t ∧ t.mem = s.mem ∧ t.team.spad = s.team.spad ∧ t.grp.sregs = s.grp.sregs ∧
        t.grp.spc = s.grp.spc + 4 ∧ ∀ c ∈ t.team.cmds, c.gix = s.gix → c.live = true → c ∈ s.team.cmds ∧
          ∀ y ∈ s.grp.batches, y.seq = n → ∀ r ∈ y.cmds, ¬ (r.seq = c.seq ∧ r.sub = c.sub)))

/-- R257 and R258 (spec/13): a lane memory atomic whose scope, entry, right, element width and result area are good posts one command with the operands of
its executing lanes, under the next CMDSEQ; with 96 commands in flight on the core it waits. R255 and R221 (spec/11): the new value of each operation and format. R259-R262:
a lane's element, its fault or its zero result; a lane of ATM is performed at a home or in the cluster's unit, of ARED at a home, and of ADCAS and AXMV on two
words at home, and its old values land.
Model's choices in it: notes/assumptions 20, 91, 113. -/
def Obligations.LaneAtomicsPostTheirCommand : Prop :=
  (∀ (s : State) (w : LaneWord) (p : Split), inHand s p → lanesOf s p w ≠ 0 →
    let n := atomWidth w.type.toNat
    ∀ (o : CmdOp) (i : Instr) (r size : Nat), (o, i, r, size) ∈ [(.atm, .atm w, 3, n), (.adcas, .adcas w, 3, 2 * n), (.axmv, .axmv w, 3, n), (.ared, .ared w, 2, 0)] →
      let x := s.shapeEntry s.team.ctx (w.imm.toNat % 2 ^ 16)
      let area := w.imm.toNat / 2 ^ 19 * 256
      ((o = .adcas ∨ o = .axmv) → w.imm.toNat / 2 ^ 16 % 8 = 4) → x.ctx = s.team.ctx.val → x.valid = true → x.rights.getLsbD r = true →
      fmtBits x.fmt = (if n = 16 then 64 else 8 * n) → area + 64 * size ≤ s.team.spadSize → (size = 0 ∨ s.team.poolTouched area (64 * size) = false) →
      (s.inFlight s.team.core < 96 → ∃ (t : State) (c : Cmd), exec i s = .next t ∧ storesNothing s t ∧ wroteNone s t p ∧
        t.grp.cmdSeq = s.grp.cmdSeq + 1 ∧ t.grp.openB = s.grp.openB ++ [{ seq := c.seq, sub := 0, stat := .running, stop := 0, crcOn := false, crc := [] }] ∧
        t.team.cmds = s.team.cmds ++ [c] ∧ c.gix = s.gix ∧ c.seq = s.grp.cmdSeq + 1 ∧ c.op = o ∧ c.shape = x ∧ c.split = some s.spl ∧ c.local0 = area ∧
        c.aop = w.sub.toNat ∧ c.aty = w.type ∧ c.pos = 0 ∧ c.stat = .running ∧
        c.lanes = (maskLanes (lanesOf s p w)).map fun l => (opened s p).atomLane o w l) ∧
      (96 ≤ s.inFlight s.team.core → ∃ t, exec i s = .next t ∧ t.blocked = true ∧ storesNothing s t ∧ t.grp.cmdSeq = s.grp.cmdSeq ∧ t.team.cmds = s.team.cmds)) ∧
  (∀ t x y c : Nat, let n := if t ≤ 1 then 32 else 64
    (∀ z, atomNew 6 t x y z = y ∧ atomNew 7 t x y z = (if x = z then y else x) ∧ atomNew 8 t x y z = if y ≤ x then 0 else x + 1) ∧
    (t ≤ 3 → x < 2 ^ n → y < 2 ^ n →
      let lt : Prop := if t % 2 = 1 then (BitVec.ofNat n x).slt (BitVec.ofNat n y) = true else x < y
      atomNew 0 t x y c = (x + y) % 2 ^ n ∧ (lt → atomNew 1 t x y c = x ∧ atomNew 2 t x y c = y) ∧ (¬ lt → atomNew 1 t x y c = y ∧ atomNew 2 t x y c = x) ∧
      atomNew 3 t x y c = x &&& y ∧ atomNew 4 t x y c = x ||| y ∧ atomNew 5 t x y c = x ^^^ y) ∧
    (∀ f, (t, f) ∈ [(8, fp32), (9, fp64)] → atomNew 0 t x y c = (f.add .rne x y).1 ∧ atomNew 1 t x y c = (f.minmax false false x y).1 ∧
      atomNew 2 t x y c = (f.minmax true false x y).1) ∧
    atomNew 0 11 x y c = (bf16.add .rne (x % 2 ^ 16) (y % 2 ^ 16)).1 + 2 ^ 16 * (bf16.add .rne (x / 2 ^ 16) (y / 2 ^ 16)).1 ∧
    (∀ k < 6, t ≤ 3 ∨ (8 ≤ t ∧ t ≤ 9 ∧ k < 3) → applyRed (k + 1) t x y = atomNew k t x y c) ∧
    applyRed 1 10 x y = (fp16.add .rne x y).1 ∧ applyRed 1 11 x y = (bf16.add .rne x y).1) ∧
  (∀ (s : State) (m : TeamIx) (g : GrpIx) (seq : Word) (c : Cmd) (ch : ElemChoice) (a : AtomLane),
    let u := s.at m g
    let core := u.team.core
    u.team.findCmd g seq (fun x => x.active && decide (x.pos < x.total)) = some c → u.engineRuns = true → u.held = false → c.lanes[c.pos]? = some a →
    ch.useTlb = false → ch.apart = false → c.half = none → Memory.wf s.mem = true → teamStores u.team = true → s.outgoing = [] →
      let n := atomWidth c.aty.toNat
      let done (t : State) : Prop := ∃ x ∈ t.teams[m].cmds, x.gix = g ∧ x.seq = seq ∧ x.pos = c.pos + 1 ∧ x.fault = none
      let stops (t : State) (f : Cause) (va : Nat) : Prop := t.mem = s.mem ∧ t.teams[m].spad = u.team.spad ∧
        ∃ x ∈ t.teams[m].cmds, x.gix = g ∧ x.seq = seq ∧ x.pos = c.pos ∧ x.fault = some (f, BitVec.ofNat 64 va)
      let runs (P : State → Prop) : Prop := ∃ t, exec (.copyElementTranslate m g seq ch) s = .next t ∧ P t
      let area := c.local0 + a.lane * c.resultBytes
      let clear : Prop := u.team.poolTouched area c.resultBytes = false
      let lands (t : State) (v : Nat) : Prop := padTakes u (t.at m g) area c.resultBytes v
      let arg (x : BitVec 128) (k : Nat) : Nat := x.toNat / 2 ^ (8 * n * k) % 2 ^ (8 * n)
      (∀ x, let e (d : Nat) : Nat := c.shape.ext.getD d 1
        let cs := [x % e 0, x / e 0 % e 1, x / (e 0 * e 1) % e 2, x / (e 0 * e 1 * e 2) % e 3, x / (e 0 * e 1 * e 2 * e 3) % e 4]
        let va := c.shape.addr cs
        (e 0 * e 1 * e 2 * e 3 * e 4 ≤ x → c.laneElem n x = if c.shape.fill = true then .ok none else .error (0x090, 0)) ∧
        (x < e 0 * e 1 * e 2 * e 3 * e 4 →
          c.laneElem n x = if n = 16 ∧ (va % 16 ≠ 0 ∨ c.shape.inBounds ((x % e 0 + 1) :: cs.drop 1) = false) then .error (0x090, va) else .ok (some va))) ∧
      (c.op = .atm ∨ c.op = .ared →
        (∀ f, c.laneElem n a.xa.toNat = .error f → runs fun t => stops t f.1 f.2) ∧
        (c.laneElem n a.xa.toNat = .ok none → clear → runs fun t => t.mem = s.mem ∧ lands t 0 ∧ done t) ∧
        (∀ va f, c.laneElem n a.xa.toNat = .ok (some va) → u.translate u.dieIx u.team.ctx va c.laneRight = .error f → runs fun t => stops t f va)) ∧
      (∀ va e, c.laneElem n a.xa.toNat = .ok (some va) → u.translate u.dieIx u.team.ctx va c.laneRight = .ok e → plainHome u e va n → clear →
        let old := Memory.readLe s.mem (e.addr va) n
        let k := clusterOf core
        (c.op = .atm → c.scope ≠ 2 ∨ e.cp = 2 →
          runs fun t => homeTakes s t (e.addr va) n (atomNew c.aop c.aty.toNat old (arg a.b 0) (arg a.c 0)) ∧ lands t old ∧ done t) ∧
        (c.op = .atm → c.scope = 2 → e.cp ≠ 2 → ∀ bs : List Byte, bs.length = n →
          (∀ i < n, ∃ b, cfind s.clusters[k].atom (e.addr va + i) = some b ∧ bs[i]? = some b.val ∧ b.pois = false) →
          e.addr va / 64 = (e.addr va + n - 1) / 64 →
          runs fun t => t.mem = s.mem ∧ lands t (ofBytes bs) ∧ done t ∧ ∀ i < n, ∃ b, cfind t.clusters[k].atom (e.addr va + i) = some b ∧ b.dirty = true ∧
            (toBytes n (atomNew c.aop c.aty.toNat (ofBytes bs) (arg a.b 0) (arg a.c 0)))[i]? = some b.val) ∧
        (c.op = .ared → c.aty ∈ [0, 1, 2, 3, 8, 9, 11] → e.cp = 2 → (∀ b ∈ s.cores[core].l1, b.pa / 64 ≠ e.addr va / 64) → (∀ b ∈ s.dies[dieOf core].far, b.pa / 64 ≠ e.addr va / 64) →
          runs fun t => homeTakes s t (e.addr va) n (applyRed (c.aop + 1) (atomFmt c.aty.toNat) old (a.b.toNat % 2 ^ 64 % 2 ^ (8 * n))) ∧
            t.teams[m].spad = u.team.spad ∧ done t)) ∧
      (∀ va vb ea eb, c.op = .adcas ∨ c.op = .axmv → c.laneElem n a.xa.toNat = .ok (some va) → c.laneElem n a.xb.toNat = .ok (some vb) →
        u.translate u.dieIx u.team.ctx va .atomic = .ok ea → u.translate u.dieIx u.team.ctx vb .atomic = .ok eb → clear →
        (ea.space ≠ .device → runs fun t => stops t 0x0C5 va) ∧ (ea.space = .device → eb.space ≠ .device → runs fun t => stops t 0x0C5 vb) ∧
        (plainHome u ea va n → plainHome u eb vb n →
          let pa := ea.addr va
          let pb := eb.addr vb
          let oa := Memory.readLe s.mem pa n
          let ob := Memory.readLe s.mem pb n
          let stores (t : State) (ws : List (Nat × List Byte)) : Prop := ∀ y, Memory.read t.mem y = afterStores ws (Memory.read s.mem y) y
          (c.op = .adcas → (pa ≠ pb → oa = arg a.c 0 ∧ ob = arg a.c 1 → runs fun t =>
              stores t [(pa, toBytes n (arg a.b 0)), (pb, toBytes n (arg a.b 1))] ∧ lands t (oa + 2 ^ (8 * n) * ob) ∧ done t) ∧
            (pa = pb → oa = arg a.c 0 ∧ oa = arg a.c 1 → runs fun t => stores t [(pa, toBytes n (arg a.b 1))] ∧ lands t (oa + 2 ^ (8 * n) * oa) ∧ done t) ∧
            (¬ (oa = arg a.c 0 ∧ (if pa = pb then oa else ob) = arg a.c 1) → runs fun t => t.mem = s.mem ∧ lands t (oa + 2 ^ (8 * n) * ob) ∧ done t)) ∧
          (c.op = .axmv → runs fun t => stores t [(pb, toBytes n oa), (pa, toBytes n (arg a.b 0))] ∧ lands t oa ∧ done t))))

/-- R172, R173, R184-R187 (spec/09): HCLAIM takes a free table whose descriptor, region and ring are good: its first turn makes the checks and reads the ring's
header, the turns after it initialise words of the region, each once, and with the last one the region is initialised and the claim holds; HSTAT reads the four
counters once the group's own hash words there are past; HREL frees a table, once no earlier hash word is in progress there; HDRAIN checks its operands, begins a
drain, writes a record at a time in ascending key order of a home bucket or passes a bucket, and ends with its cursor and count.
Model's choices in it: notes/assumptions 31, 32, 38, 108, 109. -/
def Obligations.HashTablesAreClaimedReadDrainedAndFreed : Prop :=
  ∀ (s : State) (a d : Reg) (k : BitVec 2), teamStores s.team = true →
    let only (t : State) : Prop := t.team = { s.team with spad := t.team.spad, spadPoison := t.team.spadPoison, past := t.team.past, tabs := t.team.tabs,
                                                          groups := s.team.groups.set s.gix t.grp } ∧
      ∀ j : Fin 4, j.val ≠ k.toNat → t.team.tabs[j] = s.team.tabs[j]
    let after : Group := { s.grp with prevSpc := s.grp.spc, spc := s.grp.spc + 4, scalCnt := s.grp.scalCnt + 1 }
    let traps (i : Instr) (c : Cause) (x : Nat) : Prop :=
      s.grp.chain = none → s.grp.handler = false → ∃ t, exec i s = .next t ∧ trapped s t { s.record c with addr := BitVec.ofNat 64 x } s.grp.spc 0xFFFFFFFF
    (∀ (h : HashTab) (ring : Shape), ring = s.shapeEntry s.team.ctx ((s.sr (a + 2)).toNat % 2 ^ 16) →
      h = { HashTab.zero with claimed := true, desc := Vector.ofFn fun i : Fin 4 => s.sr (a + BitVec.ofNat 8 i.val), ring := if h.spills then ring else Shape.zero,
                              ringP := h.ringP, ringC := h.ringC } →
      (s.grp.claim = none → s.team.tabs[k.toNat].dstate = false → s.team.tabs[k.toNat].claimed = false → s.team.claiming k.toNat = false →
        k.toNat < s.team.obj.htabs → descriptorBad h.desc = false → h.base + h.size ≤ s.team.spadSize → s.team.inTable h.base h.size = false →
        s.team.poolTouched h.base h.size = false → (h.spills = false → h.ringP = 0 ∧ h.ringC = 0) →
        (h.spills = true → s.ringBad ring = false ∧ (s.readHeader ring 0).2 = some h.ringP ∧ ((s.readHeader ring 0).1.readHeader ring 8).2 = some h.ringC) →
        ∃ t, exec (.hclaim a k) s = .next t ∧ only t ∧ (h.spills = false → t.mem = s.mem) ∧
          t.grp = { s.grp with claim := some { tbl := k.toNat, base := h.base, size := h.size, ringP := h.ringP, ringC := h.ringC,
                                               left := Config.claimTurns s.tick, words := [] } } ∧
          t.team.spad = s.team.spad ∧ t.team.tabs = s.team.tabs) ∧
      (∀ (c : Claim) (n : Nat), s.grp.claim = some c → c.left = n + 1 → ∃ (t : State) (ws : List Nat), exec (.hclaim a k) s = .next t ∧ only t ∧ t.mem = s.mem ∧
        t.grp = { s.grp with claim := some { c with left := n, words := c.words ++ ws } } ∧ t.team.tabs = s.team.tabs ∧ (∀ i ∈ ws, i ∉ c.words ∧ i < h.size / 4) ∧
        ∀ y, padByte t y = if h.base ≤ y ∧ (y - h.base) / 4 ∈ ws then h.fresh.getD (y - h.base) 0 else padByte s y) ∧
      (∀ c : Claim, s.grp.claim = some c → c.left = 0 → c.ringP = h.ringP → c.ringC = h.ringC →
        ∃ t, exec (.hclaim a k) s = .next t ∧ only t ∧ t.mem = s.mem ∧ t.grp = { after with claim := none } ∧ t.team.tabs[k.toNat] = h ∧
        (∀ y, padByte t y = if h.base ≤ y ∧ y < h.base + h.size ∧ (y - h.base) / 4 ∉ c.words then h.fresh.getD (y - h.base) 0 else padByte s y) ∧
        (c.words = [] → ∀ b < 2 ^ h.logb, ∀ i < 8, padNum t (h.slotAt b i) h.keyBytes = h.empty ∧ padNum t (h.slotAt b i + h.valAt) h.valBytes = 0))) ∧
    (s.team.table k.toNat = none → s.grp.uses = none → (∀ h, s.team.claimed k.toNat = some h → h.dstate = false) →
      traps (.hstat d k) 0x146 0 ∧ traps (.hdrain d k) 0x146 0) ∧
    (s.team.claimed k.toNat = none → traps (.hrel k) 0x146 0) ∧
    (∀ h : HashTab, s.team.claimed k.toNat = some h → h.dstate = false →
      (h.rel = none ∨ h.rel = some s.gix → s.team.hashBusy k.toNat = false → s.team.tableUsed k.toNat = false →
        ∃ t, exec (.hrel k) s = .next t ∧ only t ∧ t.mem = s.mem ∧ t.grp = after ∧ t.team.spad = s.team.spad ∧ t.team.tabs[k.toNat] = HashTab.zero) ∧
      (h.rel = none → s.team.hashBusy k.toNat = true ∨ s.team.tableUsed k.toNat = true →
        ∃ t, exec (.hrel k) s = .next t ∧ only t ∧ t.mem = s.mem ∧ t.grp = s.grp ∧ t.team.tabs[k.toNat] = { h with rel := some s.gix }) ∧
      (∀ g, h.rel = some g → g ≠ s.gix → traps (.hrel k) 0x146 0)) ∧
    (∀ h : HashTab, s.team.claimed k.toNat = some h → h.dstate = true → h.rel = none → traps (.hrel k) 0x14A 0) ∧
    (∀ h : HashTab, s.team.table k.toNat = some h →
      (k.toNat ∉ s.grp.hashTables → ∃ t, exec (.hstat d k) s = .next t ∧ t.sr d = h.live ∧ t.sr (d + 1) = h.tomb ∧ t.sr (d + 2) = h.spilled ∧ t.sr (d + 3) = h.lost ∧
        scalarEnd (s.setGrp { s.grp with uses := none }) t 4 [d, d + 1, d + 2, d + 3]) ∧
      (k.toNat ∈ s.grp.hashTables → exec (.hstat d k) s = .next { s.setGrp { s.grp with uses := some (k.toNat, true) } with blocked := true }) ∧
      (h.dstate = false →
        let cur := (s.sr d).toNat
        let out := (s.sr (d + 1)).toNat
        let size := (s.sr (d + 2)).toNat * h.slotBytes
        let bad : Prop := cur / 2 ^ 24 ≠ 0 ∨ 2 ^ h.logb < cur % 2 ^ 16 ∨ (s.sr (d + 3)).toNat / 2 ≠ 0 ∨ out % h.slotBytes ≠ 0 ∨ s.team.spadSize < out + size ∨
          (size ≠ 0 ∧ overlaps out size h.base h.size = true)
        let pooled : Prop := size ≠ 0 ∧ s.team.poolTouched out size = true
        (bad → traps (.hdrain d k) 0x14B 0) ∧ (¬ bad → pooled → traps (.hdrain d k) 0x14E out) ∧
        (¬ bad → ¬ pooled → s.team.drainPoison h (2 ^ h.logb) (cur % 2 ^ 16) (cur / 2 ^ 16 % 256) (s.sr (d + 2)).toNat = none ∨ s.team.spadPoison = [] →
          (s.team.hashBusy k.toNat = false → ∃ t, exec (.hdrain d k) s = .next t ∧ only t ∧ t.mem = s.mem ∧ t.grp = { s.grp with uses := none } ∧
            t.team.spad = s.team.spad ∧
            t.team.tabs[k.toNat] = { h with dstate := true, dgrp := s.gix, dout := (out, size), dcur := s.sr d, dcnt := 0 }) ∧
          (s.team.hashBusy k.toNat = true →
            exec (.hdrain d k) s = .next { s.setGrp { s.grp with uses := some (k.toNat, false) } with blocked := true }))) ∧
      (h.dstate = true → h.dgrp ≠ s.gix → traps (.hdrain d k) 0x14A 0) ∧
      (h.dstate = true → h.dgrp = s.gix →
        let clear := (s.sr (d + 3)).getLsbD 0
        let b := h.dcur.toNat % 2 ^ 16
        let skip := h.dcur.toNat / 2 ^ 16 % 256
        let l := s.team.homeEntries h b
        let more : Prop := b < 2 ^ h.logb ∧ h.dcnt.toNat < (s.sr (d + 2)).toNat
        let dest := (s.sr (d + 1)).toNat + h.slotBytes * h.dcnt.toNat
        l.Pairwise (fun x y => x.1 ≤ y.1) ∧
        (∀ key y, (key, y) ∈ l ↔ key ≠ h.empty ∧ key ≠ h.tombstone ∧ h.home key = b ∧ padNum s y h.keyBytes = key ∧
          ∃ j < h.span, ∃ i < 8, y = h.slotAt ((b + j) % 2 ^ h.logb) i) ∧
        (more → s.team.drainBad h = none →
          (∀ key y, l[skip]? = some (key, y) →
            ∃ t, exec (.hdrain d k) s = .next t ∧ only t ∧ t.mem = s.mem ∧ t.grp = s.grp ∧
            (∀ z, padByte t z = afterStores ([(dest, h.slot key (padNum s (y + h.valAt) h.valBytes))] ++
              if clear then [(y, toBytes h.keyBytes h.tombstone)] else []) (padByte s z) z) ∧
            t.team.tabs[k.toNat] = { h with
              live := if clear then h.live - 1 else h.live
              tomb := if clear then h.tomb + 1 else h.tomb
              dcnt := h.dcnt + 1
              dcur := BitVec.ofNat 32 (if l.length ≤ skip + 1 then b + 1 else if clear then skip * 2 ^ 16 + b else (skip + 1) * 2 ^ 16 + b) }) ∧
          (l.length ≤ skip → ∃ t, exec (.hdrain d k) s = .next t ∧ only t ∧ t.mem = s.mem ∧ t.grp = s.grp ∧ t.team.spad = s.team.spad ∧
            t.team.tabs[k.toNat] = { h with dcur := BitVec.ofNat 32 (b + 1) })) ∧
        (∀ y, more → s.team.drainBad h = some y → s.grp.chain = none → s.grp.handler = false →
          ∃ t, exec (.hdrain d k) s = .next t ∧ trapped s t { s.record 0x101 with addr := BitVec.ofNat 64 y } s.grp.spc 0xFFFFFFFF ∧
            t.team.tabs[k.toNat] = { h with dstate := false, dcur := 0, dcnt := 0 }) ∧
        (¬ more → (clear = true → h.live ≠ 0 ∨ s.sr (d + 2) = 0) → ∃ t, exec (.hdrain d k) s = .next t ∧ only t ∧ t.mem = s.mem ∧ t.team.spad = s.team.spad ∧
          t.team.tabs[k.toNat] = { h with dstate := false, dcur := 0, dcnt := 0 } ∧ t.sr d = h.dcur ∧ t.sr (d + 3) = h.dcnt ∧
          wordDone s t 4 ∧ ∀ r, r ≠ d → r ≠ d + 3 → t.sr r = s.sr r) ∧
        (¬ more → clear = true → h.live = 0 → s.sr (d + 2) ≠ 0 → ∃ t, exec (.hdrain d k) s = .next t ∧ only t ∧ t.mem = s.mem ∧
          t.team.tabs[k.toNat] = { h with dstate := false, dcur := 0, dcnt := 0, tomb := 0 } ∧ t.sr d = h.dcur ∧ t.sr (d + 3) = h.dcnt ∧
          (∀ c < 2 ^ h.logb, ∀ i < 8, padNum t (h.slotAt c i) h.keyBytes = h.empty) ∧
          ∀ y, ¬ (h.base ≤ y ∧ y < h.base + h.size) → padByte t y = padByte s y)))

/-- R272, R274-R276, R279, R282 and R284-R286 (spec/14): a matrix word raises the cause of the first check that it fails, check by check; one that passes
them all enters a request at the tail while the cluster's reservation table has a free entry, and waits otherwise; a speculative form arms its accumulators
with its predicate, raises 0x183 for q7 or for another predicate of its own group, and waits for another group's.
Model's choices in it: notes/assumptions 19, 20. -/
def Obligations.MatrixWordsPostRequests : Prop :=
  ∀ (s : State) (d e : Reg) (c : BitVec 3) (a b : BitVec 5) (q : BitVec 3),
    let u := s.team
    let free : Prop := s.mxEntries (clusterOf u.core) < 64
    let posts (i : Instr) (kind : MxKind) (ta tb : Nat) (f0 f1 : Word) (kLen : Nat) (arms : List Nat) : Prop :=
      (free → ∃ (t : State) (r : MxReq), exec i s = .next t ∧ teamAndTrace s t ∧ t.ctxs = s.ctxs ∧
        t.grp = { s.grp with prevSpc := s.grp.spc, spc := s.grp.spc + 4, scalCnt := s.grp.scalCnt + 1 } ∧
        t.team = { u with reqs := u.reqs ++ [r], mxAge := u.mxAge + 1, accs := t.team.accs, groups := u.groups.set s.gix t.grp } ∧
        r.age = u.mxAge ∧ r.gix = s.gix ∧ r.kind = kind ∧ r.acc = c.toNat ∧ r.ta = ta ∧ r.tb = tb ∧ r.f0 = f0 ∧ r.f1 = f1 ∧ r.kLen = kLen ∧ r.next = 0 ∧
        r.spec = !arms.isEmpty ∧ r.prio = s.grp.mpri.toNat ∧ r.starved = false ∧ r.since = none ∧ r.post = s.tick ∧ r.spc = s.grp.spc ∧
        ∀ k : Fin 8, k.val ∉ arms ∧ t.team.accs[k] = u.accs[k] ∨
          k.val ∈ arms ∧ t.team.accs[k].pend = some (s.gix, q) ∧ t.team.accs[k].prim = u.accs[k].prim ∧ t.team.accs[k].poison = u.accs[k].poison) ∧
      (¬ free → exec i s = .next { s with blocked := true })
    let trap (x : Cause) (i : Instr) : Prop := s.grp.chain = none → s.grp.handler = false → ∃ t, exec i s = .next t ∧ trapped s t (s.record x) s.grp.spc 0xFFFFFFFF
    let f0 := s.sr d
    let accs := if f0.toNat % 2 ^ 5 = 9 ∧ f0.toNat / 2 ^ 8 % 2 ^ 5 = 9 then [c.toNat, c.toNat + 1] else [c.toNat]
    (∀ scaled bad, firstOf (mmaChecks s scaled c.toNat a.toNat b.toNat f0 (s.sr (d + 1))) bad →
      let plain : Instr := if scaled then .mmas d c a b else .mma d c a b
      let spec : Instr := if scaled then .mmasSpec d c a q b else .mmaSpec d c a q b
      let mma (i : Instr) : List Nat → Prop := posts i (.mma scaled) a.toNat b.toNat f0 (s.sr (d + 1)) (rowLength (u.tile a.toNat).shape (f0.toNat % 2 ^ 5))
      (∀ x, bad = some x → trap x plain ∧ trap x spec) ∧
      (bad = none →
        mma plain [] ∧
        (q ≠ 7 → (∀ k ∈ accs, (u.acc k).pend = none ∨ (u.acc k).pend = some (s.gix, q)) → mma spec accs) ∧
        (q = 7 ∨ (∃ k ∈ accs, ∃ m, m ≠ q ∧ (u.acc k).pend = some (s.gix, m)) → trap 0x183 spec) ∧
        (q ≠ 7 → (∀ k ∈ accs, ∀ m, (u.acc k).pend = some (s.gix, m) → m = q) → (∃ k ∈ accs, ∃ g m, g ≠ s.gix ∧ (u.acc k).pend = some (g, m)) →
          exec spec s = .next { s with blocked := true }))) ∧
    (c.toNat < u.obj.accs → posts (.mzero c) .mzero 0 0 0 0 0 []) ∧
    (u.obj.accs ≤ c.toNat → trap 0x180 (.mzero c)) ∧
    (∀ pad bad, firstOf (moutChecks s c.toNat f0 pad (if pad then (s.sr e).toNat else a.toNat)) bad →
      let i : Instr := if pad then .moutS d c e else .mout d c a
      (∀ x, bad = some x → trap x i) ∧
      (bad = none → posts i (.mout pad) (if pad then 0 else a.toNat) 0 f0 (if pad then s.sr e else 0) 0 []))

/-- R280, R287 (spec/14) and R159 (spec/08): MPRI sets the group's priority; MWAIT passes with no request left on its accumulator, MWAIT on all with no
request left at all, and each waits while a request that it awaits is there; TSHAPE gives an unused tile register its shape and leaves its bytes.
Model's choices in it: notes/assumptions 20, 47. -/
def Obligations.MatrixWaitsPrioritiesAndShapes : Prop :=
  ∀ (s : State) (a d : Reg) (c : BitVec 3) (x : BitVec 5),
    let u := s.team
    let moved : Group := { s.grp with prevSpc := s.grp.spc, spc := s.grp.spc + 4, scalCnt := s.grp.scalCnt + 1 }
    let lo := (s.sr d).toNat
    let hi := (s.sr (d + 1)).toNat
    let trap (k : Cause) (i : Instr) : Prop := s.grp.chain = none → s.grp.handler = false → ∃ t, exec i s = .next t ∧ trapped s t (s.record k) s.grp.spc 0xFFFFFFFF
    ((s.sr a).toNat < 4 → ∃ t, exec (.mpri a) s = .next t ∧ groupOnly s t ∧ t.grp = { moved with mpri := (s.sr a).extractLsb' 0 2 }) ∧
    (4 ≤ (s.sr a).toNat → trap 0x186 (.mpri a)) ∧
    (c.toNat < u.obj.accs → (∀ r ∈ u.reqs, c.toNat ∉ r.accs) →
      ∃ t, exec (.mwait c) s = .next t ∧ groupOnly s t ∧ t.grp = { moved with fence := none }) ∧
    (u.reqs = [] → ∃ t, exec .mwaitAll s = .next t ∧ groupOnly s t ∧ t.grp = { moved with fence := none }) ∧
    (∀ r ∈ u.reqs, s.grp.fence = none → 1 ≤ (u.mxAge - r.age).toNat → (u.mxAge - r.age).toNat < 2 ^ 31 →
      (∀ k : Fin 8, u.accs[k].pend = none) →
      (∃ t, exec .mwaitAll s = .next t ∧ t.blocked = true ∧ t.grp = { s.grp with fence := some (s.grp.spc, u.mxAge) } ∧ t.mem = s.mem) ∧
      (c.toNat < u.obj.accs → c.toNat ∈ r.accs → ∃ t, exec (.mwait c) s = .next t ∧ t.blocked = true ∧ t.grp.spc = s.grp.spc ∧ t.mem = s.mem)) ∧
    (u.obj.accs ≤ c.toNat → trap 0x180 (.mwait c)) ∧
    (u.obj.tiles ≤ x.toNat → trap 0x180 (.tshape d x)) ∧
    (x.toNat < u.obj.tiles → (hi ≥ 2 ∨ lo ≥ 2 ^ 21 ∨ lo / 2 ^ 12 % 16 ≠ 0) → trap 0x144 (.tshape d x)) ∧
    (x.toNat < u.obj.tiles → hi < 2 → lo < 2 ^ 21 → lo / 2 ^ 12 % 16 = 0 → lo / 2 ^ 16 ≤ 0x10 → lo % 256 < 128 →
      (lo % 256 + 1) * (16 * (lo / 256 % 16 + 1)) ≤ 16384 → u.tileInUse x.toNat = false →
      ∃ t, exec (.tshape d x) s = .next t ∧ t.grp = moved ∧ t.mem = s.mem ∧
        t.team = { u with tiles := t.team.tiles, groups := u.groups.set s.gix moved } ∧
        (∀ k, k ≠ x.toNat → t.team.tile k = u.tile k) ∧ t.team.tile x.toNat = { u.tile x.toNat with shape :=
          { rows := lo % 256 + 1, rb := 16 * (lo / 256 % 16 + 1), fmt := lo / 2 ^ 16, layout := hi } })

/-- R277-R281, R284-R286 (spec/14): the engine's steps of a request that the arbiter grants: a pass adds 32 products to every element of the accumulator
(integers modulo 2^32; FP32 by the accumulation rule: the products' sum over a window of 44 bits, rounded once, then added; FP64 product by product),
after zeroing under Z; the last pass ends the request; MZERO's step zeroes; MOUT's step
lands the converted elements of all 64 rows. A request that stays eligible for 8,192 clocks without a grant is starved;
when a step ends, only the clocks from which the requests left have been eligible change.
Model's choices in it: notes/assumptions 44, 45, 48. -/
def Obligations.MatrixEngineSteps : Prop :=
  ∀ (s : State) (m : TeamIx) (r : MxReq),
    let u := s.teams[m]
    u.live = true → u.reqs.find? (fun x => x.age == r.age) = some r → r.acc < 8 →
    let die := s.dies[dieOf u.core]
    let ready : Prop := die.up = true ∧ die.relock = none ∧ (s.at m r.gix).granted r = true
    let old (i : Fin 4096) : Word := if r.next = 0 ∧ fbZ r.f0 = true then 0 else (u.acc r.acc).prim[i]
    let bare (l : List MxReq) : List MxReq := l.map fun x => { x with since := none, starved := false }
    let ended (t : State) : Prop := bare t.teams[m].reqs = bare (u.reqs.filter fun x => x.age != r.age)
    (∀ scaled, ready → r.kind = .mma scaled → r.spec = false → fbWide r.f0 = false → (u.acc r.acc).poison = false → (u.acc r.acc).err = false → u.passPoisoned r scaled r.next = false →
      ∃ t, exec (.matrixPass m r.age) s = .next t ∧ t.mem = s.mem ∧ t.teams[m].spad = u.spad ∧ t.teams[m].tiles = u.tiles ∧
        (∀ k, k ≠ r.acc → t.teams[m].acc k = u.acc k) ∧ (r.kLen ≤ 32 * (r.next + 1) → ended t) ∧
        (32 * (r.next + 1) < r.kLen → ∀ x ∈ t.teams[m].reqs, x.age = r.age → x.next = r.next + 1) ∧
        t.clusters[clusterOf u.core].passes = s.clusters[clusterOf u.core].passes + 1 ∧
        (byteInt (fbA r.f0) = true →
          let f (tile fmt row k : Nat) : Int := let v := (u.tile tile).element fmt row (32 * r.next + k); if fmtSigned fmt then signed 8 v else v
          ∀ i : Fin 4096, (t.teams[m].acc r.acc).prim[i] =
            BitVec.ofInt 32 ((old i).toInt + ((List.range 32).map fun k => f r.ta (fbA r.f0) (i.val / 64) k * f r.tb (fbB r.f0) (i.val % 64) k).sum)) ∧
        (byteInt (fbA r.f0) = false → ∀ i : Fin 4096, (t.teams[m].acc r.acc).prim[i] =
          BitVec.ofNat 32 (accFp32 (old i).toNat ((u.factors r scaled false (i.val / 64) r.next).zip (u.factors r scaled true (i.val % 64) r.next))))) ∧
    (∀ c xs, ∃ v, chunkAdds xs v ∧ accFp32 c xs = (fp32.add .rne c v).1) ∧
    (ready → r.kind = .mma false → r.spec = false → fbA r.f0 = 9 → fbB r.f0 = 9 → r.acc < 7 →
      (∀ k, r.acc ≤ k → k ≤ r.acc + 1 → (u.acc k).poison = false ∧ (u.acc k).err = false) → u.passPoisoned r false r.next = false →
      let element (v : Team) (i j : Fin 64) (h : Fin 2) : Word := (v.acc (r.acc + j.val / 32)).prim.toList.getD (64 * i.val + 2 * (j.val % 32) + h.val) 0
      ∃ t, exec (.matrixPass m r.age) s = .next t ∧ t.mem = s.mem ∧ t.teams[m].spad = u.spad ∧ t.teams[m].tiles = u.tiles ∧
        (∀ k, k ≠ r.acc → k ≠ r.acc + 1 → t.teams[m].acc k = u.acc k) ∧
        ∀ i j : Fin 64, ∀ h : Fin 2,
          let was := if r.next = 0 ∧ fbZ r.f0 = true then 0 else (element u i j 0).toNat + 2 ^ 32 * (element u i j 1).toNat
          element t.teams[m] i j h = BitVec.ofNat 32 (((List.range 32).foldl (fun v k =>
            (fp64.fma .rne ((u.tile r.ta).element 9 i.val (32 * r.next + k)) ((u.tile r.tb).element 9 j.val (32 * r.next + k)) v).1) was) / 2 ^ (32 * h.val))) ∧
    (ready → r.kind = .mzero → ∃ t, exec (.mzeroStep m r.age) s = .next t ∧ ended t ∧ t.mem = s.mem ∧ t.teams[m].spad = u.spad ∧
      (t.teams[m].acc r.acc).prim = Vector.replicate 4096 0 ∧ (t.teams[m].acc r.acc).poison = false ∧ ∀ k, k ≠ r.acc → t.teams[m].acc k = u.acc k) ∧
    (ready → r.kind = .mout true → teamStores u = true → moAk r.f0 = 0 → 8 ≤ fmtBits (moFmt r.f0) → moRow r.f0 ≤ moPitch r.f0 →
      (u.acc r.acc).poison = false → (u.acc r.acc).err = false →
      ∃ t, exec (.moutStep m r.age) s = .next t ∧ ended t ∧ t.mem = s.mem ∧ t.teams[m].tiles = u.tiles ∧
        (t.teams[m].acc r.acc).prim = (if r.f0.getLsbD 15 then Vector.replicate 4096 0 else (u.acc r.acc).prim) ∧
        ∀ i j : Fin 64, let eb := fmtBits (moFmt r.f0) / 8
          let n := if r.f0.getLsbD 16 then 64 * j.val + i.val else 64 * i.val + j.val
          padNum (t.at m r.gix) (r.f1.toNat + moPitch r.f0 * i.val + j.val * eb) eb =
            (convert 8 (moFmt r.f0) (rmodeOf (bitsOf r.f0 12 3)) (r.f0.getLsbD 11) ((u.acc r.acc).prim.toList.getD n 0).toNat).1 % 2 ^ (8 * eb)) ∧
    (∀ a : DWord, u.eligible r = true → r.starved = false → r.since = some a → 8192 ≤ (die.ccyc - a).toNat →
      ∃ t, exec (.arbiterStarvation m r.age) s = .next t ∧ (∀ x ∈ t.teams[m].reqs, x.age = r.age → x.starved = true) ∧
        t = { s with teams := s.teams.set m { u with reqs := t.teams[m].reqs } })

/-- R236-R240 (spec/12): the fences, where no earlier command of the group is left and no home that they need relocks or is lost. After a release no dirty
byte, no partial and, from scope 2, no sector of the cluster's atomic unit is left above what the scope reaches; after an acquire the L1, and from scope 4 the far copies, hold nothing; what
either moves is not lost: a byte that the L1 alone held dirty is home, or below scope 4 a dirty far copy of a line homed elsewhere, and a dirty far copy is
home from scope 4; an acqrel sends every dirty byte of the L1 on
its way, marked with the fence that waits for it.
Model's choices in it: notes/assumptions 20, 95. -/
def Obligations.FencesMoveAndInvalidate : Prop :=
  ∀ (s : State) (x : BitVec 3),
    let c := s.team.core
    let k := x.toNat
    let homes := s.pushHomes c k (fun _ => true) fun _ => true
    let keeps (t : State) : Prop := t.team.spad = s.team.spad ∧ t.team.tiles = s.team.tiles ∧ t.hostMem = s.hostMem ∧
      t.grp = { s.grp with fence := none, prevSpc := s.grp.spc, spc := s.grp.spc + 4, scalCnt := s.grp.scalCnt + 1 }
    let l1 (t : State) := t.cores[c].l1
    let far (t : State) := t.dies[dieOf c].far
    let released (t : State) : Prop := (k = 0 → t.mem = s.mem) ∧ (1 ≤ k → t.cores[c].comb = []) ∧ (2 ≤ k → t.clusters[clusterOf c].atom = [])
    let back (t : State) : Prop := Memory.wf s.mem = true → s.cores[c].comb = [] → s.homeRed = [] →
      ∀ b : CByte, b.dirty = true → b.pa < devBytes → s.homeUp b.home = true → (∀ o ∈ s.outgoing, o.byte.pa ≠ b.pa) → (∀ y ∈ s.clusters[clusterOf c].atom, y.pa ≠ b.pa) →
        (b ∈ l1 s → (∀ y ∈ l1 s, y.pa = b.pa → y = b) → (∀ y ∈ far s, y.pa ≠ b.pa) →
          Memory.read t.mem b.pa = b.val ∨ (k < 4 ∧ b.home ≠ (dieOf c).val ∧ ∃ y ∈ far t, y.pa = b.pa ∧ y.val = b.val ∧ y.dirty = true)) ∧
        (4 ≤ k → b ∈ far s → (∀ y ∈ far s, y.pa = b.pa → y = b) → (∀ y ∈ l1 s, y.pa ≠ b.pa) → Memory.read t.mem b.pa = b.val)
    s.pushWaits homes = false → s.pushLost homes = false →
      (∃ t, exec (.fenceAcq x) s = .next t ∧ keeps t ∧ (k ≤ 1 → t.mem = s.mem ∧ l1 t = l1 s) ∧ (2 ≤ k → l1 t = [] ∧ back t) ∧ (4 ≤ k → far t = [])) ∧
      (s.earlier = false →
        (∃ t, exec (.fenceRel x) s = .next t ∧ keeps t ∧ released t ∧ (1 ≤ k → back t) ∧ (1 ≤ k → ∀ b ∈ l1 t, b.dirty = false) ∧
          (4 ≤ k → (∀ b ∈ far t, b.dirty = false) ∧ ∀ e ∈ t.homeRed, e.src ≠ c)) ∧
        (∃ t, exec (.fenceSc x) s = .next t ∧ keeps t ∧ released t ∧ (1 ≤ k → back t) ∧ (2 ≤ k → l1 t = []) ∧ (4 ≤ k → far t = [])) ∧
        (∃ t, exec (.fenceAcqrel x) s = .next t ∧ keeps t ∧ released t ∧ (2 ≤ k → l1 t = []) ∧ (4 ≤ k → far t = []) ∧
          (2 ≤ k → ∀ b ∈ l1 s, b.dirty = true → ∃ o ∈ t.outgoing, o.src = c ∧ o.byte = b ∧ { team := s.cur, grp := s.gix, spc := s.grp.spc } ∈ o.by_))) ∧
      (s.earlier = true → ∀ i ∈ [Instr.fenceRel x, .fenceSc x, .fenceAcqrel x],
        ∃ t, exec i s = .next t ∧ t.blocked = true ∧ t.grp.spc = s.grp.spc ∧ t.mem = s.mem ∧ t.cores = s.cores)

/-- R244-R248 (spec/12): PBIND binds a pennant to its scope and regions; PREL updates its counter once earlier commands have ended,
and satisfies the waiting PACQs whose condition then holds; PACQ passes where its condition holds and drops the regions' copies, and waits with its
condition registered where it does not; PTEST reads the counter. A pennant outside the context's range takes 0x158.
Model's choices in it: notes/assumptions 20. -/
def Obligations.PennantWords : Prop :=
  ∀ (s : State) (d a b : Reg) (n : BitVec 2),
    let v := (s.sr a).toNat
    let x := s.ctx s.team.ctx
    let k := x.base .pennants + v % 4096
    let p := s.pennant k
    let w := s.sr64 b
    let moved : Group := { s.grp with prevSpc := s.grp.spc, spc := s.grp.spc + 4, scalCnt := s.grp.scalCnt + 1 }
    let others (t : State) : Prop := ∀ j, j ≠ k → t.pennant j = s.pennant j
    let calm (inside : Nat → Bool) : Prop := s.pushWaits (s.pushHomes s.team.core p.scope (fun y => inside y.pa) fun e => e.parts.any fun q => inside q.pa) = false ∧
      s.pushLost (s.pushHomes s.team.core p.scope (fun y => inside y.pa) fun e => e.parts.any fun q => inside q.pa) = false
    let conds : List (Cond × Instr) := [(.ge, .pacqGe a b), (.eq, .pacqEq a b), (.ne, .pacqNe a b)]
    let passed (t : State) (inside : Nat → Bool) (scope : Nat) : Prop :=
      t.grp = { s.grp.dropWaits with prevSpc := s.grp.spc, spc := s.grp.spc + 4, scalCnt := s.grp.scalCnt + 1 } ∧ t.team.spad = s.team.spad ∧
      (∀ y ∈ t.cores[s.team.core].l1, inside y.pa = false) ∧ (4 ≤ scope → ∀ y ∈ t.dies[s.dieIx].far, inside y.pa = false)
    (v % 4096 < x.count .pennants → k < 4096 →
      (v < 2 ^ 15 → 1 ≤ v / 4096 → v / 4096 ≤ 5 → (∀ i ≤ n.toNat, (s.bindRegion d i).isSome = true) →
        ∃ t, exec (.pbind d a n) s = .next t ∧ others t ∧ t.grp = moved ∧ t = { s.setGrp t.grp with cores := t.cores, pennants := t.pennants } ∧
          t.pennant k = { p with scope := v / 4096, regions := (List.range (n.toNat + 1)).filterMap fun i => (s.bindRegion d i).join }) ∧
      (v < 4096 →
        (s.earlier = false → s.held = false → calm (inRegions (s.regionTable s.dieIx s.team.ctx p.regions)) →
          ∀ (i : Instr) (r : DWord), (i, r) ∈ [(.prelAdd a b, p.ctr + w), (.prelSet a b, w)] →
            ∃ t, exec i s = .next t ∧ others t ∧ t.pennant k = { p with ctr := r } ∧ t.grp = { moved with fence := none } ∧ t.team.spad = s.team.spad ∧
              (p.regions = [] → t.mem = s.mem) ∧
              ∀ y ∈ s.pacqs, y.pen = k → y.sat = none → y.cond.holds r y.v = true → { y with sat := some (p.scope, p.regions) } ∈ t.pacqs) ∧
        (s.earlier = true → ∀ i ∈ [Instr.prelAdd a b, .prelSet a b], ∃ t, exec i s = .next t ∧ t.blocked = true ∧ t.grp.spc = s.grp.spc ∧ t.pennants = s.pennants) ∧
        (s.myPacq = none → ∀ c i, (c, i) ∈ conds →
          (c.holds p.ctr w = true →
            s.pushWaits (s.pushHomes s.team.core p.scope (fun y => inRegions (s.regionTable s.dieIx s.team.ctx p.regions) y.pa) fun _ => false) = false →
            ∃ t, exec i s = .next t ∧ passed t (inRegions (s.regionTable s.dieIx s.team.ctx p.regions)) p.scope) ∧
          (c.holds p.ctr w = false → exec i s =
            .next { s with blocked := true, pacqs := s.pacqs ++ [{ team := s.cur, grp := s.gix, pen := k, cond := c, v := w, sat := none }] })) ∧
        (∃ t, exec (.ptest d a) s = .next t ∧ t.sr64 d = p.ctr ∧ scalarEnd s t 4 [d, d + 1]))) ∧
    (x.count .pennants ≤ v % 4096 → s.grp.chain = none → s.grp.handler = false →
      ∀ i ∈ [Instr.pbind d a n, .prelAdd a b, .prelSet a b, .pacqGe a b, .pacqEq a b, .pacqNe a b, .ptest d a],
        ∃ t, exec i s = .next t ∧ trapped s t (s.record 0x158) s.grp.spc 0xFFFFFFFF) ∧
    (∀ (y : PacqWait) (scope : Nat) (rs : List (Nat × Nat)), s.team.live = true → s.grp.phase = .running → s.die.up = true → s.die.relock = none →
      s.grp.stepping = false → s.myPacq = some y → y.sat = some (scope, rs) →
      s.pushWaits (s.pushHomes s.team.core scope (fun z => inRegions (s.regionTable s.dieIx s.team.ctx rs) z.pa) fun _ => false) = false →
      ∃ t, exec (.pacqSatisfied s.cur s.gix) s = .next t ∧ passed t (inRegions (s.regionTable s.dieIx s.team.ctx rs)) scope)

/-- R249 (spec/12): a WAITA whose word lies at a device home returns true where its condition holds, at once or when its monitor is satisfied, and arms a
monitor where it does not; on a page of the host it returns false; a misaligned address takes 0x15A. R152 (spec/08): SPRESIZE gives up the ways that it
takes from the L1 and returns true, or changes nothing and returns false. R266-R268 (spec/13): RCOMB adds a contribution to an armed slot of the context; a round whose last contribution is there writes its result, which
combining its contributions in some order and grouping gives, at its home, releases its pennant, and goes on with the next round; a write that fails disarms the slot and leaves cause 0x15D.
Model's choices in it: notes/assumptions 20, 39, 102. -/
def Obligations.WaitaSpresizeAndCombiningSlots : Prop :=
  (∀ (s : State) (q : BitVec 3) (a b : Reg),
     let va := s.sr64 a
     let c := s.team.core
     let ends (t : State) (v : Bool) : Prop := t.qr q = (v || q == 7) ∧ (∀ p, p ≠ q → t.qr p = s.qr p) ∧ t.grp.sregs = s.grp.sregs ∧
       t.grp.spc = s.grp.spc + 4 ∧ t.team.spad = s.team.spad ∧ t.mem = s.mem
     (∀ (k : Cond) (i : Instr), (k, i) ∈ [(.ge, .waitaGe q a b), (.eq, .waitaEq q a b), (.ne, .waitaNe q a b)] →
       (va.toNat % 8 ≠ 0 → s.grp.chain = none → s.grp.handler = false → ∃ t, exec i s = .next t ∧ trapped s t (s.record 0x15A) s.grp.spc 0xFFFFFFFF) ∧
       (∀ e, va.toNat % 8 = 0 → s.grp.waitaRes = none → s.grp.armed = false → s.myMonitor = none →
         (s.translateAt c s.team.ctx va.toNat .read true).2 = .ok e →
         (e.space ≠ .device → ∃ t, exec i s = .next t ∧ ends t false) ∧
         (e.space = .device → (s.monitors.filter fun m => m.die == e.home (e.addr va.toNat)).length < 1024 → s.homeBusy (e.home (e.addr va.toNat)) = false →
           (k.holds (BitVec.ofNat 64 (Memory.readLe s.mem (e.addr va.toNat) 8)) (s.sr64 b) = true → ∃ t, exec i s = .next t ∧ ends t true) ∧
           (k.holds (BitVec.ofNat 64 (Memory.readLe s.mem (e.addr va.toNat) 8)) (s.sr64 b) = false → ∃ t, exec i s = .next t ∧ t.blocked = true ∧
             t.grp = s.grp ∧ t.mem = s.mem ∧
             t.monitors = s.monitors ++ [{ team := s.cur, grp := s.gix, die := e.home (e.addr va.toNat), pa := e.addr va.toNat, cond := k, v := s.sr64 b, sat := false }]))) ∧
       (∀ m, s.myMonitor = some m → m.sat = true → s.scalarInstr = i → s.team.live = true → s.grp.phase = .running → s.die.up = true → s.die.relock = none →
         s.grp.stepping = false → ∃ t, exec (.waitaMonitorSatisfied s.cur s.gix) s = .next t ∧ ends t true ∧ t.myMonitor = none)) ∧
     (s.resizeRefused c (s.sr a).toNat = true → ∃ t, exec (.spresize q a) s = .next t ∧ predEnd s t q false) ∧
     (6 < (s.sr a).toNat → s.resizeRefused c (s.sr a).toNat = true) ∧
     (s.resizeRefused c (s.sr a).toNat = false → ∃ t, exec (.spresize q a) s = .next t ∧ t.cores[c].ways = (s.sr a).toNat ∧ t.qr q = true ∧
       (∀ r, t.sr r = s.sr r) ∧ t.grp.spc = s.grp.spc + 4 ∧ t.team.spad = s.team.spad ∧ (∀ y ∈ t.cores[c].l1, y.way < t.cores[c].ways) ∧
       ∀ e ∈ t.cores[c].comb, e.way < t.cores[c].ways)) ∧
  (∀ (s : State) (a b : Reg) (k : Fin 256) (c : CtxIx),
     let x := s.slots[k]
     let v := (s.sr a).toNat
     let y := s.ctx s.team.ctx
     let trap (f : Cause) : Prop := s.grp.chain = none → s.grp.handler = false → ∃ t, exec (.rcomb a b) s = .next t ∧ trapped s t (s.record f) s.grp.spc 0xFFFFFFFF
     (k.val = y.base .slots + v → v < y.count .slots → x.armed = true → s.held = false → ∃ t, exec (.rcomb a b) s = .next t ∧
       t = { s.setGrp t.grp with cores := t.cores, slots := t.slots } ∧
       t.grp = { s.grp with prevSpc := s.grp.spc, spc := s.grp.spc + 4, scalCnt := s.grp.scalCnt + 1 } ∧ (∀ j : Fin 256, j ≠ k → t.slots[j] = s.slots[j]) ∧
       t.slots[k] = { x with contribs := x.contribs ++ [s.sr64 b], count := min (x.contribs.length + 1) x.expect }) ∧
     (256 ≤ v ∨ y.count .slots ≤ v → trap 0x15C) ∧ (k.val = y.base .slots + v → v < y.count .slots → v < 256 → x.armed = false → trap 0x15B) ∧
     (∀ (l : List Nat) (op : Nat), l ≠ [] → op < 7 →
       let f (v w : Nat) : Nat :=
         if op = 0 then (fp64.add .rne v w).1 else if op = 1 then (fp32.add .rne (v % 2 ^ 32) (w % 2 ^ 32)).1 else if op = 2 then (v + w) % 2 ^ 64
         else if op = 3 then (fp64.minmax false false v w).1 else if op = 4 then (fp64.minmax true false v w).1
         else if ((BitVec.ofNat 64 v).slt (BitVec.ofNat 64 w) = true) = (op = 5) then v else w
       let canon (v : Nat) : Nat := if (op = 0 ∨ op = 3 ∨ op = 4) ∧ (fp64.decode v).isNan = true then fp64.nan
         else if op = 1 ∧ (fp32.decode v).isNan = true then fp32.nan else v
       (∀ y ∈ l, y < 2 ^ 64) → (∀ order, ∃ v, Combines f l v ∧ combineAll op l l.length order = canon v) ∧
         ∀ v, Combines f l v → ∃ order, combineAll op l l.length order = canon v) ∧
     (∀ order : List Nat, s.owner .slots k.val = some c → x.armed = true → x.expect ≤ x.contribs.length →
       let result := combineAll x.op ((x.contribs.take x.expect).map (slotValue x.op)) x.expect order
       (∀ u, s.hubWrite c x.resaddr.toNat (toBytes 8 result) = .ok u → ∃ t, exec (.rcombRoundComplete k order) s = .next t ∧ t.mem = u.mem ∧
         t.hostMem = u.hostMem ∧ t.teams = s.teams ∧ (∀ j : Fin 256, j ≠ k → t.slots[j] = s.slots[j]) ∧
         t.slots[k] = { x with round := x.round + 1, contribs := x.contribs.drop x.expect, count := min (x.contribs.length - x.expect) x.expect } ∧
         (x.penen = false → t.pennants = s.pennants) ∧
         (x.penen = true → (s.ctx c).base .pennants + x.pen < 4096 →
           (t.pennant ((s.ctx c).base .pennants + x.pen)).ctr = (s.pennant ((s.ctx c).base .pennants + x.pen)).ctr + 1)) ∧
       (∀ f, s.hubWrite c x.resaddr.toNat (toBytes 8 result) = .error f → ∃ t, exec (.rcombRoundComplete k order) s = .next t ∧ t.mem = s.mem ∧
         t.slots[k] = { x with armed := false } ∧ ∃ r ∈ (t.ctxs[c]).fring.waiting, r.cause = 0x15D ∧ r.addr = x.resaddr)))

/-- R298-R300, R305 and R307 (spec/15): CNTR reads a counter's count and status, and its other form arrives there once earlier commands have ended; CNCL
cancels the launches below a counter and completes the counters; LNCH reads a body, re-arms its counter and enters the launch in the pool.
Model's choices in it: notes/assumptions 42, 53, 56. -/
def Obligations.LaunchWords : Prop :=
  ∀ (s : State) (d a : Reg),
    let v := (s.sr a).toNat
    let x := s.ctx s.team.ctx
    let k := x.base .counters + v % 4096
    let n := s.counter k
    let core := s.team.core
    let moved : Group := { s.grp with prevSpc := s.grp.spc, spc := s.grp.spc + 4, scalCnt := s.grp.scalCnt + 1 }
    let trap (f : Cause) (i : Instr) : Prop := s.grp.chain = none → s.grp.handler = false → ∃ t, exec i s = .next t ∧ trapped s t (s.record f) s.grp.spc 0xFFFFFFFF
    (v < x.count .counters → v < 4096 → ∃ t, exec (.cntr d a) s = .next t ∧ t.sr d = n.count ∧ t.sr (d + 1) = n.status.zeroExtend 32 ∧ scalarEnd s t 4 [d, d + 1]) ∧
    (v / 2 ^ 30 = 1 → v % 2 ^ 30 < 4096 → v % 4096 < x.count .counters → k < 4096 → s.earlier = false → s.held = false →
      s.pushWaits (s.pushHomes core n.scope.toNat (fun _ => true) fun _ => true) = false →
      s.pushLost (s.pushHomes core n.scope.toNat (fun _ => true) fun _ => true) = false →
      ∃ t, exec (.cntr d a) s = .next t ∧ t.sr d = n.count ∧ t.sr (d + 1) = n.status.zeroExtend 32 ∧ (∀ r, r ≠ d → r ≠ d + 1 → t.sr r = s.sr r) ∧
        t.grp.spc = s.grp.spc + 4 ∧ t.team.spad = s.team.spad ∧ (n.status ≠ 0 → t.counter k = n) ∧
        (n.status = 0 → n.count + 1 ≠ n.target → (t.counter k).count = n.count + 1 ∧ (t.counter k).status = 0)) ∧
    ((2 ^ 31 ≤ v ∨ v % 2 ^ 30 ≥ 4096 ∨ x.count .counters ≤ v % 4096) → trap 0x1C5 (.cntr d a)) ∧
    (∀ j, s.cncTarget (s.sr a) = some j →
      let hit := s.hitLaunches ((s.affected j).map fun y => y.1)
      (∀ l ∈ hit, l.id ≠ s.team.launch) → ∃ t, exec (.cncl a) s = .next t ∧ t.grp = moved ∧ t.team.spad = s.team.spad ∧
        (∀ l ∈ t.launches, l ∈ s.launches ∧ l ∉ hit) ∧ (∀ m : TeamIx, t.teams[m].live = true → ∀ l ∈ hit, t.teams[m].launch ≠ l.id) ∧
        ∀ y ∈ s.affected j, y.1 < 4096 → (t.counter y.1).status ≠ 0) ∧
    (v / 2 ^ 31 = 0 → (4096 ≤ v ∨ x.count .counters ≤ v) → trap 0x1C5 (.cncl a)) ∧
    ((s.sr64 a).toNat % 64 ≠ 0 → trap 0x1C6 (.lnch a)) ∧
    (∀ (b args : List Byte) (l : Launch) (j : Nat), (s.sr64 a).toNat % 64 = 0 → s.grp.waitaRes = none → s.grp.armed = false → s.grp.lnch = none →
      s.earlier = false → s.held = false → s.pushWaits (s.pushHomes core 4 (fun _ => true) fun _ => true) = false →
      s.pushLost (s.pushHomes core 4 (fun _ => true) fun _ => true) = false →
      let u := s.pushScope core 4
      u.fetchBytes s.team.ctx (s.sr64 a).toNat 64 = .got b → lnchBad (x.count .counters) b = false → u.parseBody s.team.ctx b = .got l → l.cnt = some j →
      u.running j = false → j < 4096 → u.fetchBytes s.team.ctx (field b 0x20 8) 64 = .got args → s.poolFree = true →
      ∃ t, exec (.lnch a) s = .next t ∧ t.grp = { moved with fence := none, lnch := none, armed := false, waitaRes := none } ∧ t.team.spad = s.team.spad ∧
        t.launches = s.launches ++ [{ l with args := args, spc := s.grp.spc, id := s.nextId, lid := s.launchName }] ∧ t.nextId = s.nextId + 1 ∧ t.nextLid = s.nextLid + 1 ∧
        t.mem = u.mem ∧ t.counter j = { u.counter j with count := 0, target := bodyTarget b, status := 0, retired := 0, done := 0, worst := 1 })

/-- R198-R203, R206, R208 and R213 (spec/10), R220-R222 and R224-R228 (spec/11): the steps of the engine on a command of a team that runs. An out-of-bounds
element of a read lands zero or stops the command with 0x090; a failed translation stops it; the last element of a row, of any formats of whole bytes, is read
from a host page or from an uncached home, converted and landed, or converted and written there; a gather or scatter takes its row from its list; a reduction is
applied at its home or at the host, or joins an L1 entry; a CPACK writes a unit and its mask bit, stops at an overrun, and ends with the padding and LEN; a CUNPK
checks the header and lands a unit. The bytes that R229 names join the command's sequence. A stop is recorded, suspending the command or ending it; a landed row
counts; a command with nothing left ends.
Model's choices in it: notes/assumptions 10, 27, 28, 35. -/
def Obligations.CopyEngineSteps : Prop :=
  ∀ (s : State) (m : TeamIx) (g : GrpIx) (seq : Word) (c : Cmd) (ch : ElemChoice),
    let u := s.at m g
    let now (t : State) (p : Cmd → Prop) : Prop := ∃ x ∈ t.teams[m].cmds, x.gix = g ∧ x.seq = seq ∧ p x
    let runs (P : State → Prop) : Prop := ∃ t, exec (.copyElementTranslate m g seq ch) s = .next t ∧ P t
    let row := c.pos / c.n0
    let k := dIndexBytes c.w
    let c1 : Cmd := if c.op.listed = true ∧ c.indexRow ≠ some row then { c with index := padNum u ((c.w[4]).toNat + row * k) k, indexRow := some row } else c
    let cs := c1.coords c.pos
    let va := c.shape.addr cs
    let inside := c.shape.inBounds cs
    let lb := fmtBits c.lfmt / 8
    let mb := fmtBits c.shape.fmt / 8
    let whole : Prop := 8 ≤ fmtBits c.lfmt ∧ 8 ≤ fmtBits c.shape.fmt ∧ (c.pos + 1) % c.n0 = 0 ∧ dXf c.w = 0 ∧ dDk c.w ≠ 1
    let at_ := c.local0 + row * dRowBytes c.op c.w c.shape + c.pos % c.n0 * fmtBits c.lfmt / 8
    let conv (x y v : Nat) : Nat := if x = y then v else (convert x y (rmodeOf (dRnd c.w)) (dSat c.w) v).1
    let next (t : State) (b : List Byte) : Prop := now t fun x => x.pos = c.pos + 1 ∧ x.fault = none ∧ x.crc = if dCrc c.w = true then c.crc ++ b else c.crc
    let stops (t : State) (f : Cause) (a : Nat) : Prop := t.mem = s.mem ∧ t.teams[m].spad = u.team.spad ∧
      now t fun x => x.pos = c.pos ∧ x.fault = some (f, BitVec.ofNat 64 a)
    let reads : Prop := (c.op = .cten ∧ dDir c.w = 0) ∨ c.op = .cgth
    let still : Prop := u.core.comb = [] ∧ s.homeRed = [] ∧ s.outgoing = []
    (u.team.findCmd g seq (fun x => x.active && decide (x.pos < x.total)) = some c → u.engineRuns = true → u.team.behind c = false → u.held = false →
      teamStores u.team = true → Memory.wf s.mem = true → Memory.wf s.hostMem = true → ch.useTlb = false →
      (reads → whole →
        (inside = false → c.shape.fill = false → runs fun t => stops t 0x090 va) ∧
        (inside = false → c.shape.fill = true → u.team.poolTouched at_ lb = false →
          runs fun t => t.mem = s.mem ∧ padTakes u (t.at m g) at_ lb 0 ∧ next t (toBytes lb 0)) ∧
        (∀ f, inside = true → u.translate u.dieIx u.team.ctx va .read = .error f → runs fun t => stops t f va) ∧
        (∀ e, inside = true → u.translate u.dieIx u.team.ctx va .read = .ok e →
          let takes (v : Nat) : Prop := runs fun t => t.mem = s.mem ∧ t.hostMem = s.hostMem ∧
            padTakes u (t.at m g) at_ lb (conv c.shape.fmt c.lfmt v) ∧ next t (toBytes lb (conv c.shape.fmt c.lfmt v))
          u.team.poolTouched at_ lb = false →
          (e.space = .host → e.poison = false → takes (Memory.readLe s.hostMem (e.addr va) mb)) ∧
          (plainHome u e va mb → e.cp = 2 → s.outgoing = [] → takes (Memory.readLe s.mem (e.addr va) mb))) ∧
        (∀ e, inside = true → u.translate u.dieIx u.team.ctx va .read = .ok e → e.space = .host → e.poison = false → u.team.poolTouched at_ lb = true →
          runs fun t => stops t 0x092 va)) ∧
      ((c.op = .cten ∧ dDir c.w = 1) ∨ c.op = .cfill ∨ c.op = .csct → whole ∨ (c.op = .cfill ∧ 8 ≤ mb * 8 ∧ (c.pos + 1) % c.n0 = 0) →
        poisoned u.team.spadPoison at_ lb = false ∨ c.op = .cfill →
        let v := if c.op = .cfill then (c.w[2] ++ c.w[1]).toNat % 2 ^ (8 * mb) else conv c.lfmt c.shape.fmt (padNum u at_ lb)
        let opn := if c.op = .csct then dOp c.w else 0
        (inside = false → c.shape.fill = false → runs fun t => stops t 0x090 va) ∧
        (inside = false → c.shape.fill = true → runs fun t => t.mem = s.mem ∧ t.hostMem = s.hostMem ∧ t.teams[m].spad = u.team.spad ∧ next t []) ∧
        ∀ e, inside = true → u.translate u.dieIx u.team.ctx va (if opn = 0 then .write else .reduce) = .ok e →
          (opn = 0 → plainHome u e va mb → e.cp = 2 → still → runs fun t => homeTakes s t (e.addr va) mb v ∧ t.teams[m].spad = u.team.spad ∧ next t (toBytes mb v)) ∧
          (opn = 0 → e.space = .host → e.poison = false → runs fun t => t.mem = s.mem ∧ Memory.readLe t.hostMem (e.addr va) mb = v % 2 ^ (8 * mb) ∧
            (∀ y, ¬ (e.addr va ≤ y ∧ y < e.addr va + mb) → Memory.read t.hostMem y = Memory.read s.hostMem y) ∧ next t (toBytes mb v)) ∧
          (opn ≠ 0 → plainHome u e va mb → s.outgoing = [] → (∀ b ∈ s.dies[u.dieIx].far, b.pa / 64 ≠ e.addr va / 64) →
            (e.cp = 2 → (∀ b ∈ u.core.l1, b.pa / 64 ≠ e.addr va / 64) →
              runs fun t => homeTakes s t (e.addr va) mb (applyRed opn c.shape.fmt (Memory.readLe s.mem (e.addr va) mb) (v % 2 ^ 64 % 2 ^ (8 * mb))) ∧ next t (toBytes mb v)) ∧
            (e.cp ≠ 2 → 0 < u.core.ways → u.core.l1 = [] → u.core.comb = [] → runs fun t => t.mem = s.mem ∧ next t (toBytes mb v) ∧
              ∃ en p, t.cores[u.team.core].comb = [en] ∧ en.sector = e.addr va / 64 ∧ en.op = opn ∧ en.fmt = c.shape.fmt ∧ en.parts = [p] ∧
                p.pa = e.addr va ∧ p.val = BitVec.ofNat 64 v ∧ p.pois = false) ∧
            (∀ en p, e.cp ≠ 2 → 0 < u.core.ways → u.core.l1 = [] → u.core.comb = [en] → en.sector = e.addr va / 64 → en.op = opn → en.fmt = c.shape.fmt →
              en.parts = [p] → p.pa = e.addr va → runs fun t => t.mem = s.mem ∧ next t (toBytes mb v) ∧ ∃ p', t.cores[u.team.core].comb = [{ en with parts := [p'] }] ∧
                p'.pa = p.pa ∧ p'.pois = p.pois ∧
                p'.val = BitVec.ofNat 64 (applyRed opn c.shape.fmt (p.val.toNat % 2 ^ (8 * mb)) (v % 2 ^ 64 % 2 ^ (8 * mb))))) ∧
          (opn ≠ 0 → e.space = .host → e.poison = false →
            (opn = 1 → c.shape.fmt ≤ 3 → runs fun t => t.mem = s.mem ∧
              Memory.readLe t.hostMem (e.addr va) mb = (Memory.readLe s.hostMem (e.addr va) mb + v) % 2 ^ (8 * mb) ∧ next t (toBytes mb v)) ∧
            (opn ≠ 1 ∨ 3 < c.shape.fmt → runs fun t => stops t 0x0C4 va))) ∧
      (let n := dUnitBytes c.w
       let units := dUnits c.w
       let mask := ofBytes c.maskOf
       let head := 4 + dMaskBytes c.w
       let room := c.shape.ext.headD 1 - (c.w[3]).toNat
       let packs (ws : List (Nat × List Byte)) (P : State → Prop) : Prop :=
         ∀ l, (u.translateSpan false .write (ws.flatMap fun x => sectors x.2.length x.1 (x.2.length + 1))).2 = .ok l → toHost l →
           runs fun t => t.mem = s.mem ∧ t.teams[m].spad = u.team.spad ∧ P t ∧
             ∀ y, Memory.read t.hostMem y = afterStores (cutOver l (ws.flatMap fun x => x.2)) (Memory.read s.hostMem y) y
       let unpacks (a len : Nat) (P : State → List Byte → Prop) : Prop :=
         ∀ l, (u.translateSpan false .read (sectors len a (len + 1))).2 = .ok l → toHost l →
           runs fun t => t.mem = s.mem ∧ t.hostMem = s.hostMem ∧ P t (l.flatMap fun x => Memory.readBytes s.hostMem (x.2.2.addr x.1) x.2.1)
       let stream (o : Nat) : Nat := c.shape.base.toNat + (c.w[3]).toNat + o
       (c.op = .cpack → ch.words = 0 → c.ahead = [] →
         let off := if c.packOff = 0 then head else c.packOff
         let b := (List.range n).map fun i => padByte u (c.local0 + c.pos * n + i)
         let nz : Prop := ∃ x ∈ b, x ≠ 0
         (c.pos < units → nz → room < off + n →
           packs [(stream (4 + c.pos / 32 * 4), toBytes 4 (mask / 2 ^ (c.pos / 32 * 32)))] fun t =>
             ∀ x ∈ t.teams[m].cmds, x.gix = g → x.seq = seq → x.sub = c.sub → x.stat = .overrun) ∧
         (∀ e (mk : Byte), c.pos < units → ¬ (nz ∧ room < off + n) → mask < 2 ^ c.pos →
           (u.translateAt u.team.core u.team.ctx (stream (4 + c.pos / 8) % 2 ^ 64) .write false).2 = .ok e → e.space = .host →
           (∀ i < 8, (mk.getLsbD i = true) ↔ if i < c.pos % 8 then mask.testBit (c.pos - c.pos % 8 + i) = true else if i = c.pos % 8 then nz
                                            else (Memory.read s.hostMem (e.addr (stream (4 + c.pos / 8) % 2 ^ 64))).getLsbD i = true) →
           (nz → packs [(stream off, b), (stream (4 + c.pos / 8), [mk])] fun t =>
             now t fun x => x.pos = c.pos + 1 ∧ x.packOff = off + n ∧ ofBytes x.maskOf = mask + 2 ^ c.pos ∧ x.fault = none) ∧
           (¬ nz → packs [(stream (4 + c.pos / 8), [mk])] fun t =>
             now t fun x => x.pos = c.pos + 1 ∧ x.packOff = off ∧ ofBytes x.maskOf = mask ∧ x.fault = none)) ∧
         (c.pos = units → mask < 2 ^ units → packs [(stream (head - 4), toBytes 4 (mask / 2 ^ (8 * (head - 8)))),
             (stream off, List.replicate (roundUp4 off - off) 0), (stream 0, toBytes 4 (roundUp4 off))] fun t => now t fun x => x.pos = c.pos + 1 ∧ x.fault = none)) ∧
       (c.op = .cunpk →
         (c.pos = 0 → unpacks (stream 0) head fun t b =>
           let len := ofBytes (b.take 4)
           let found := ofBytes (b.drop 4)
           let ones := ((List.range units).filter fun i => found.testBit i).length
           let bad : Prop := len % 4 ≠ 0 ∨ room < len ∨ 2 ^ units ≤ found ∨ len ≠ head + roundUp4 (ones * n)
           t.teams[m].spad = u.team.spad ∧ (bad → now t fun x => x.pos = 0 ∧ x.fault = some (0x091, BitVec.ofNat 64 (stream 0))) ∧
             (¬ bad → now t fun x => x.pos = 1 ∧ x.packOff = head ∧ ofBytes x.maskOf = found ∧ x.fault = none)) ∧
         (0 < c.pos → u.team.poolTouched (c.local0 + (c.pos - 1) * n) n = false → 0 < n →
           (mask.testBit (c.pos - 1) = true → unpacks (stream c.packOff) n fun t b => padTakes u (t.at m g) (c.local0 + (c.pos - 1) * n) n (ofBytes b) ∧
             now t fun x => x.pos = c.pos + 1 ∧ x.packOff = c.packOff + n ∧ x.fault = none) ∧
           (mask.testBit (c.pos - 1) = false → runs fun t => t.mem = s.mem ∧ t.hostMem = s.hostMem ∧
             padTakes u (t.at m g) (c.local0 + (c.pos - 1) * n) n 0 ∧ now t fun x => x.pos = c.pos + 1 ∧ x.packOff = c.packOff ∧ x.fault = none))))) ∧
    (∀ f addr, u.team.findCmd g seq (fun x => x.stat == .running && x.fault.isSome) = some c → c.fault = some (f, addr) → u.team.live = true →
      ((f = 0x080 ∨ f = 0x081 ∨ f = 0x082) → ∃ t, exec (.translationFault m g seq) s = .next t ∧ t.mem = s.mem ∧ t.teams[m].spad = u.team.spad ∧
        now t (fun x => x.stat = .suspended ∧ x.fault = none) ∧
        ∃ r ∈ (t.ctxs[u.team.ctx]).rring.waiting, r.cause = f ∧ r.addr = addr ∧ r.reply = true ∧ r.cmdseq = c.seq ∧ r.elem = BitVec.ofNat 32 (c.elemAt c.pos)) ∧
      (¬ (f = 0x080 ∨ f = 0x081 ∨ f = 0x082) → u.grp.phase = .running → ∃ t, exec (.translationFault m g seq) s = .next t ∧ t.mem = s.mem ∧
        t.teams[m].spad = u.team.spad ∧ (∀ x ∈ t.teams[m].cmds, x.gix = g → x.seq = seq → x.sub = c.sub → x.stat = .error) ∧
        ∃ p ∈ (t.teams[m].groups[g]).pend, p.cmd = true ∧ p.trap.cause = f ∧ p.trap.addr = addr ∧ p.trap.async = true ∧ p.trap.cmdseq = c.seq)) ∧
    (u.team.findCmd g seq (fun x => x.live && x.rowReady) = some c → u.team.live = true →
      ∃ t, exec (.copyRowLanded m g seq) s = .next t ∧ t.mem = s.mem ∧ t.teams[m].spad = u.team.spad ∧ (now t fun x => x.rows = c.rows + 1) ∧
        ∀ k : Fin 16, t.teams[m].rowCnt[k] = if k.val = dRctr c.w then u.team.rowCnt[k] + 1 else u.team.rowCnt[k]) ∧
    (u.team.findCmd g seq (fun x => x.active && decide (x.total ≤ x.pos)) = some c → u.engineRuns = true → u.team.behind c = false →
      let stat : CmdStat := if c.pois then .poisoned else .ok
      ∃ t, exec (.commandEnd m g seq) s = .next t ∧ t.mem = s.mem ∧ t.teams[m].spad = u.team.spad ∧
        (∀ x ∈ t.teams[m].cmds, x.gix = g → x.seq = seq → x.sub = c.sub → x.stat = stat) ∧
        ∀ b ∈ (t.teams[m].groups[g]).batches, ∀ r ∈ b.cmds, r.seq = seq → r.sub = c.sub → r.stat = stat)

/-- R222 (spec/11), R234 and R253 (spec/12, spec/13): a line of L1 or of far copies, and a sector of a cluster's atomic unit, leave with their dirty bytes
written back, while no acqrel fence has bytes on their way; a combining entry goes home, and executes there as one step per element.
Model's choices in it: notes/assumptions 9, 95, 112. -/
def Obligations.CachesWriteBackAndCombine : Prop :=
  ∀ (s : State) (c : CoreIx) (d : DieIx) (k : Fin 40) (line i : Nat), Memory.wf s.mem = true → s.outgoing = [] →
    (∀ x : DieIx, s.dies[x].relock = none ∧ s.dies[x].up = true) →
    ((∃ b ∈ s.cores[c].l1, b.pa / 64 = line) → ∃ t, exec (.cacheWriteBack (.l1 c) line) s = .next t ∧ t.teams = s.teams ∧
      (∀ b ∈ t.cores[c].l1, b.pa / 64 ≠ line) ∧
      (∀ b ∈ s.cores[c].l1, b.pa / 64 ≠ line → b.dirty = true ∨ wholeSector s.cores[c].l1 (b.pa / 64) = true → b ∈ t.cores[c].l1) ∧
      (∀ b ∈ s.cores[c].l1, b.pa / 64 = line → b.dirty = true → b.pa < devBytes → b.home = (dieOf c).val → (∀ y ∈ s.cores[c].l1, y.pa = b.pa → y = b) →
        Memory.read t.mem b.pa = b.val) ∧
      ∀ a, (∀ b ∈ s.cores[c].l1, b.dirty = true → b.pa / 64 = line → b.pa ≠ a) → (∀ b ∈ s.dies[dieOf c].far, b.dirty = true → b.pa ≠ a) →
        Memory.read t.mem a = Memory.read s.mem a) ∧
    ((∃ b ∈ s.dies[d].far, b.pa / 256 = line) → ∃ t, exec (.cacheWriteBack (.far d) line) s = .next t ∧ t.teams = s.teams ∧ t.cores = s.cores ∧
      (∀ b ∈ t.dies[d].far, b.pa / 256 ≠ line) ∧
      (∀ b ∈ s.dies[d].far, b.pa / 256 = line → b.dirty = true → b.pa < devBytes → b.home < 4 → (∀ y ∈ s.dies[d].far, y.pa = b.pa → y = b) → Memory.read t.mem b.pa = b.val) ∧
      ∀ a, (∀ b ∈ s.dies[d].far, b.dirty = true → b.pa / 256 = line → b.pa ≠ a) → Memory.read t.mem a = Memory.read s.mem a) ∧
    ((∃ b ∈ s.clusters[k].atom, b.pa / 64 = i) → ∃ t, exec (.clusterAtomicWriteback k i) s = .next t ∧ t.teams = s.teams ∧ t.cores = s.cores ∧
      t.clusters[k].atom = s.clusters[k].atom.filter (fun b => !(b.pa / 64 == i)) ∧
      ∀ b ∈ s.clusters[k].atom, b.pa / 64 = i → b.dirty = true → b.pa < devBytes → b.home = k.val / 10 → (∀ y ∈ s.clusters[k].atom, y.pa = b.pa → y = b) →
        Memory.read t.mem b.pa = b.val) ∧
    (∀ e, s.cores[c].comb[i]? = some e → ∃ t, exec (.combiningEntryEvict c i) s = .next t ∧ t.mem = s.mem ∧ t.teams = s.teams ∧
      (∀ x ∈ t.cores[c].comb, x.sector ≠ e.sector) ∧ { e with out := [] } ∈ t.homeRed) ∧
    (∀ e p, s.homeRed[i]? = some e → e.parts = [p] → e.home < 4 → p.pa + redBits e.fmt / 8 ≤ devBytes → s.homePoisoned p.pa (redBits e.fmt / 8) = false →
      let n := redBits e.fmt / 8
      ∃ t, exec (.homeReduction { i := i, more := [], order := [] }) s = .next t ∧ t.teams = s.teams ∧ t.homeRed = s.homeRed.eraseIdx i ∧
        Memory.readLe t.mem p.pa n = applyRed e.op e.fmt (Memory.readLe s.mem p.pa n) (p.val.toNat % 2 ^ (8 * n)) % 2 ^ (8 * n) ∧
        ∀ y, ¬ (p.pa ≤ y ∧ y < p.pa + n) → Memory.read t.mem y = Memory.read s.mem y)

/-- R291-R296 and R302 (spec/15): LAUNCH, GRAPH and FENCE packets at the read index of a running queue. An accepted launch re-arms its counter and joins
the Work Distributor with a LAUNCHID that nothing fixes; an accepted graph re-arms its counter with its node count and its nodes without predecessor are ready; a FENCE
arms its conditions, its host words are polled, and it passes when every one has been seen.
Model's choices in it: notes/assumptions 20, 49, 51, 53, 55, 56. -/
def Obligations.PacketsThatLaunchAndFence : Prop :=
  ∀ (s : State) (q : QueueIx) (c : CtxIx) (b : List Byte),
    let x := s.queues[q]
    let y := s.ctxs[c]
    let base := y.base .counters
    let after (u t : State) : Prop := t.queues[q] = { x with ridx := x.ridx + 1, packet := none, fence := none, failed := false } ∧ t.teams = s.teams ∧
      ∀ z, u.hubWrite c x.ridxa.toNat (toBytes 8 (x.ridx + 1).toNat) = .ok z → t.mem = z.mem ∧ t.hostMem = z.hostMem
    s.queueCtx q = some c → x.state = 1 → x.waitTag = none → s.mgmt.ready0.getLsbD 0 = true → x.failed = false →
    (x.packet = some b ∨ x.packet = none ∧ x.ridx.toNat < x.widx.toNat ∧ s.fetchBytes c x.packetVa 64 = .got b) →
      (∀ l args, packetType 1 b = true → s.parseBody c b = .got l → bodyCnt b < y.count .counters → base + bodyCnt b < 4096 →
        (s.counter (base + bodyCnt b)).status ≠ 0 → s.fetchBytes c (field b 0x20 8) 64 = .got args →
        ∃ t, exec (.launchPacket q) s = .next t ∧ after s t ∧ t.nextId = s.nextId + 1 ∧ t.nextLid = s.nextLid + 1 ∧
          t.launches = s.launches ++ [{ l with id := s.nextId, lid := s.launchName, queue := some q, args := args,
                                               after := if bodyFlag b 0 then s.queueWork q else [] }] ∧
          t.counter (base + bodyCnt b) = { s.counter (base + bodyCnt b) with count := 0, target := bodyTarget b, status := 0, retired := 0, done := 0, worst := 1 }) ∧
      (packetType 1 b = true → s.parseBody c b = .bad → ∃ t, exec (.launchPacket q) s = .next t ∧ t.queues[q].state = 2 ∧ t.queues[q].ridx = x.ridx ∧
        t.launches = s.launches ∧ ∃ r ∈ (t.ctxs[c]).fring.waiting, r.cause = 0x1C1 ∧ r.elem = BitVec.ofNat 32 q.val ∧ r.info = x.ridx) ∧
      (∀ d u, let n := field b 16 4
        let k := base + field b 4 2
        packetType 2 b = true → graphFieldsOk b = true → field b 4 2 < y.count .counters → k < 4096 → s.fetchBytes c (field b 8 8) (128 * n) = .got d →
        graphShapeOk (nodeRecords d n) = true → s.nodeBodies c (nodeRecords d n) = .got () → (s.counter k).status ≠ 0 →
        s.hubWrite c (field b 24 8) ((nodeRecords d n).flatMap fun r => toBytes 4 (field r 0x40 2)) = .ok u →
        ∃ t, exec (.graphPacket q) s = .next t ∧ after u t ∧ t.nextId = s.nextId + 1 ∧
          t.graphs = s.graphs ++ [{ id := s.nextId, ctx := c, queue := q, after := if field b 1 1 % 2 = 1 then s.queueWork q else [], cnt := k,
                                    recs := nodeRecords d n, area := BitVec.ofNat 64 (field b 24 8), finished := false, dropped := [] }] ∧
          t.readyNodes = s.readyNodes ++ ((List.range n).filter fun i => field ((nodeRecords d n).getD i []) 0x40 2 == 0).map (fun i => (s.nextId, i)) ∧
          t.counter k = { s.counter k with count := 0, target := BitVec.ofNat 32 n, status := 0, retired := 0, done := 0, worst := 1 }) ∧
      (packetType 3 b = true →
        (∀ d l, x.fence = none → fenceFieldsOk b = true → s.fetchBytes c (field b 8 8) (24 * field b 4 1) = .got d →
          s.armConds c ((List.range (field b 4 1)).map fun i => (d.drop (24 * i)).take 24) = .got l →
          ∃ t, exec (.fencePacket q) s = .next t ∧ t.queues[q] = { x with packet := some b, fence := some l } ∧ t.mem = s.mem) ∧
        (∀ l, x.fence = some l → (∀ z ∈ l, z.seen = true) → (∀ d : DieIx, s.dies[d].relock = none) → field b 5 1 ≤ 1 →
          ∃ t, exec (.fencePacket q) s = .next t ∧ after s t) ∧
        (∀ l, x.fence = some l → (∀ z ∈ l, z.seen = true) → (∀ d : DieIx, s.dies[d].relock = none) → 4 ≤ field b 5 1 →
          ∃ t, exec (.fencePacket q) s = .next t ∧ t.queues[q].ridx = x.ridx + 1 ∧ (∀ k : CoreIx, t.cores[k].l1 = []) ∧ ∀ d : DieIx, t.dies[d].far = []) ∧
        (∀ l, x.fence = some l → (∃ z ∈ l, z.seen = false) → ∃ t, exec (.fencePacket q) s = .next t ∧ t.blocked = true ∧ t.queues[q].ridx = x.ridx)) ∧
      (∀ l, x.fence = some l → ∃ t, exec (.fenceHostPoll q) s = .next t ∧ t = s.setQueue q { x with fence := some (l.map fun z =>
        if z.space ≠ .device ∧ z.cond.holds (BitVec.ofNat 64 (Memory.readLe (if z.space = .host then s.hostMem else s.peerMem) z.pa 8)) z.v = true
        then { z with seen := true } else z) })

/-- R292, R295 and R307 (spec/15), R341 and R346 (spec/17): SIGNAL releases at its SCOPE and stores or adds, and TIMESTAMP stores REFT, once the queue's launches have
completed;
CANCEL cancels below a counter; NOP passes; a packet of an unlisted type stops the queue with a record; TRACE opens, closes and flushes the context's
session; a reset stops the queue.
Model's choices in it: notes/assumptions 20, 42, 49, 51, 52, 59, 60. -/
def Obligations.PacketsThatSignalAndTrace : Prop :=
  ∀ (s : State) (q : QueueIx) (c : CtxIx) (b : List Byte),
    let x := s.queues[q]
    let y := s.ctxs[c]
    let va := field b 8 8
    let after (u t : State) : Prop := t.queues[q] = { x with ridx := x.ridx + 1, packet := none, fence := none, failed := false } ∧ t.teams = s.teams ∧
      ∀ z, u.hubWrite c x.ridxa.toNat (toBytes 8 (x.ridx + 1).toNat) = .ok z → t.mem = z.mem ∧ t.hostMem = z.hostMem
    s.queueCtx q = some c → x.state = 1 → x.waitTag = none → s.mgmt.ready0.getLsbD 0 = true → x.failed = false →
    (x.packet = some b ∨ x.packet = none ∧ x.ridx.toNat < x.widx.toNat ∧ s.fetchBytes c x.packetVa 64 = .got b) →
      (∀ u, packetType 4 b = true → signalFieldsOk b = true → s.queueWork q = [] → s.hubWaits (field b 5 1) = false →
        let r := s.hubRelease (field b 5 1)
        (field b 4 1 = 0 → r.hubWrite c va (toBytes 8 (field b 16 8)) = .ok u → ∃ t, exec (.signalPacket q) s = .next t ∧ after u t) ∧
        (field b 4 1 = 1 → r.hubAdd c va (field b 16 8) = .ok u → ∃ t, exec (.signalPacket q) s = .next t ∧ after u t)) ∧
      (packetType 4 b = true → signalFieldsOk b = true → s.queueWork q ≠ [] → ∃ t, exec (.signalPacket q) s = .next t ∧ t.blocked = true ∧ t.mem = s.mem) ∧
      (∀ u, packetType 5 b = true → zeroAt b 1 7 = true → va % 8 = 0 → zeroAt b 16 48 = true → s.queueWork q = [] →
        s.hubWrite c va (toBytes 8 s.reft.toNat) = .ok u → ∃ t, exec (.timestampPacket q) s = .next t ∧ after u t) ∧
      (packetType 6 b = true → zeroAt b 1 3 = true → zeroAt b 6 58 = true → field b 4 2 < y.count .counters →
        let hit := s.hitLaunches ((s.affected (y.base .counters + field b 4 2)).map fun z => z.1)
        ∃ t, exec (.cancelPacket q) s = .next t ∧ t.queues[q].ridx = x.ridx + 1 ∧ (∀ l ∈ t.launches, l ∈ s.launches ∧ l ∉ hit) ∧
          ∀ m : TeamIx, t.teams[m].live = true → ∀ l ∈ hit, t.teams[m].launch ≠ l.id) ∧
      (packetType 8 b = true → zeroAt b 1 63 = true → ∃ t, exec (.nopPacket q) s = .next t ∧ after s t ∧ t.launches = s.launches) ∧
      (field b 0 1 = 0 ∨ 8 < field b 0 1 → ∃ t, exec (.nopPacket q) s = .next t ∧ t.queues[q].state = 2 ∧ t.queues[q].ridx = x.ridx ∧ t.mem = s.mem ∧
        ∃ r ∈ (t.ctxs[c]).fring.waiting, r.cause = 0x1C0 ∧ r.addr = BitVec.ofNat 64 x.packetVa ∧ r.elem = BitVec.ofNat 32 q.val ∧ r.info = x.ridx) ∧
      (packetType 7 b = true → traceFieldsOk b = true →
        (∀ u, field b 4 1 = 0 → y.session = none → y.ringBad.getLsbD 2 = false →
          let z : Session := { mask := BitVec.ofNat 8 (field b 5 1), log2 := field b 16 1, buf := BitVec.ofNat 64 va, start := s.reft, trunc := false,
                               full := false, written := 0, dropped := 0, last := [], held := [] }
          s.ringWrite c z.buf.toNat (z.header true) = .ok u → ∃ t, exec (.traceOpen q) s = .next t ∧ after u t ∧ t.ctxs[c].session = some z) ∧
        (field b 4 1 = 1 → ∃ t, exec (.traceClose q) s = .next t ∧ t.queues[q].ridx = x.ridx + 1 ∧ t.teams = s.teams ∧ t.ctxs[c].session = none) ∧
        (field b 4 1 = 2 → ∃ t, exec (.traceFlush q) s = .next t ∧ t.queues[q].ridx = x.ridx + 1 ∧ t.teams = s.teams ∧
          ∀ z, t.ctxs[c].session = some z → z.held = [])) ∧
      ∃ t, exec (.queueReset q) s = .next t ∧ t.queues[q] = { x with state := 0, packet := none, fence := none, waitTag := none, failed := false } ∧
        t.teams = s.teams ∧ (y.session = none → t.mem = s.mem) ∧ ∀ z, t.ctxs[c].session = some z → z.held = [] ∧ z.trunc = true

/-- R297, R300-R303, R308 and R313 (spec/15), R214 (spec/10), R164 (spec/08), R324 (spec/16): a launch's next team is placed on a core with room; a node that
is ready becomes a launch; START is reached; a team whose groups have all exited retires; a launch without teams left ends; a team whose groups all wait on a
fault is timed, and saved when the context's threshold has passed and its image has room (R331-R333); a deadlock of queues gives every waiting split its trap; a pending trap is taken at an issue boundary; a stream that issues nothing for 1,024 clocks
is promoted.
Model's choices in it: notes/assumptions 6, 53, 57, 58, 63, 66, 97. -/
def Obligations.TeamsAreDispatchedAndRetire : Prop :=
  ∀ (s : State) (m : TeamIx) (g : GrpIx) (l : Launch) (core : CoreIx) (spad : Nat) (slots : List Nat),
    let u := s.teams[m]
    (s.launches.find? (fun y => y.id == l.id) = some l → u.live = false → s.couldPlace l core = true → l.race = false →
      fitsAt (s.residents core) s.cores[core].ways l.obj l.spadX spad slots = true → s.acquireWaits core = false →
      (∀ y ∈ s.launches, y.before l = true → ∀ k : CoreIx, s.couldPlace y k = false) →
      ∃ t, exec (.teamPlacement l.id m core spad slots) s = .next t ∧
        let v := t.teams[m]
        let at_ : Nat := l.next
        v.live = true ∧ v.launch = l.id ∧ v.ctx = l.ctx ∧ v.core = core ∧ v.slots = slots ∧ v.spadBase = spad ∧ v.index = at_ ∧ v.obj = l.obj ∧
        v.coord = #v[BitVec.ofNat 32 (at_ % l.tdim[0].toNat), BitVec.ofNat 32 (at_ / l.tdim[0].toNat % l.tdim[1].toNat),
                     BitVec.ofNat 32 (at_ / (l.tdim[0].toNat * l.tdim[1].toNat))] ∧
        (∀ k : GrpIx, k.val < l.obj.groups → (v.groups[k]).phase = .running ∧ (v.groups[k]).spc = l.obj.entry ∧
          ∀ r : Fin 256, (v.groups[k]).sregs[r] = if r.val < 16 then BitVec.ofNat 32 (field l.args (4 * r.val) 4) else 0) ∧
        (∀ k : GrpIx, l.obj.groups ≤ k.val → (v.groups[k]).phase = .none) ∧ (∀ k : TeamIx, k ≠ m → t.teams[k] = s.teams[k]) ∧
        (core ∉ l.coresInv → t.cores[core].l1 = []) ∧ ∀ y ∈ t.launches, y.id = l.id → ∃ z ∈ s.launches, z.id = l.id ∧ y.next = z.next + 1) ∧
    (∀ n rest (y : Graph) args, s.readyNodes = (y.id, n) :: rest → s.graphs.find? (fun z => z.id == y.id) = some y → s.poolFree = true →
      let r := y.recs.getD n []
      s.parseBody y.ctx (r.take 64) = .got l → (∀ k, l.cnt = some k → (s.counter k).status ≠ 0) → s.fetchBytes y.ctx (field r 0x20 8) 64 = .got args →
      ∃ t, exec (.nodeEntersPool y.id n) s = .next t ∧ t.readyNodes = rest ∧ t.mem = s.mem ∧ t.nextId = s.nextId + 1 ∧
        t.launches = s.launches ++ [{ l with id := s.nextId, lid := s.launchName, args := args, node := some (y.id, n),
                                             after := if field r 0x40 2 = 0 then y.after else [] }]) ∧
    (s.launches.find? (fun y => y.id == l.id) = some l → l.started = false → (s.reft - l.start).toNat < 2 ^ 63 →
      ∃ t, exec (.teamStartTime l.id) s = .next t ∧ t = { s with launches := t.launches } ∧
        t.launches = s.launches.map fun y => if y.id = l.id then { y with started := true } else y) ∧
    (u.live = true → (∀ k : GrpIx, (u.groups[k]).phase = .none ∨ (u.groups[k]).phase = .exited) → (∀ c ∈ u.cmds, c.live = false) → u.reqs = [] →
      s.dies[dieOf u.core].up = true → (∀ d : DieIx, s.dies[d].relock = none) →
      ∃ t, exec (.teamRetire m) s = .next t ∧ t.teams[m] = Team.zero ∧ (∀ k : TeamIx, k ≠ m → t.teams[k] = s.teams[k]) ∧ t.cores[u.core].comb = [] ∧
        (1 ≤ u.scope → ∀ b ∈ t.cores[u.core].l1, b.dirty = false) ∧
        t.launches = s.launches.map fun y => if y.id = u.launch then { y with retired := y.retired + 1 } else y) ∧
    (s.launches.find? (fun y => y.id == l.id) = some l → l.total ≤ l.next → 0 < l.total → (∀ k : TeamIx, s.teams[k].live = true → s.teams[k].launch ≠ l.id) →
      (∀ y ∈ s.saved, y.team.launch ≠ l.id) → ∃ t, exec (.launchComplete l.id) s = .next t ∧ t.teams = s.teams ∧
        t.launches = s.launches.filter (fun y => y.id != l.id) ∧
        ∀ k, l.cnt = some k → k < 4096 → (s.counter k).status = 0 → (s.counter k).count + 1 ≠ (s.counter k).target → l.node = none →
          (t.counter k).count = (s.counter k).count + 1) ∧
    ((s.at m 0).faultWaits = true → u.haltable = true → u.waitSince = none →
      ∃ t, exec (.faultSave m) s = .next t ∧ t = { s with teams := s.teams.set m { u with waitSince := some s.reft.toNat } }) ∧
    (∀ a, (s.at m 0).faultWaits = true → u.haltable = true → u.waitSince = some a →
      let limit := (s.ctxs[u.ctx]).field 0x3C 4
      let past : Nat := (s.reft.toNat + 2 ^ 64 - a) % 2 ^ 64
      (limit = 2 ^ 32 - 1 ∨ past < (if limit = 0 then 20000 else limit) → exec (.faultSave m) s = s.wait) ∧
      (limit ≠ 2 ^ 32 - 1 → (if limit = 0 then 20000 else limit) ≤ past → s.saveWaits m = false →
        (s.shadowFits u = false → s.saveSlot u = none → exec (.faultSave m) s = s.wait) ∧
        (s.shadowFits u = true ∨ s.saveSlot u ≠ none →
          ∃ t, exec (.faultSave m) s = .next t ∧ (t.teams[m]).live = false ∧ (∀ b ∈ t.cores[u.core].l1, b.dirty = false) ∧
            (∀ b ∈ t.dies[dieOf u.core].far, b.dirty = false) ∧
            ((∃ y, t.saved = s.saved ++ [y] ∧ savedAs u y ∧ y.fault = true) ∨
             (t.saved = s.saved ∧ s.shadowFits u = false ∧ ∃ r ∈ (t.ctxs[u.ctx]).fring.waiting, r.cause = 0x1E1))))) ∧
    (u.live = true → (∀ k : GrpIx, (s.at m k).groupStuck = true) → (∃ k : GrpIx, (u.groups[k]).phase = .running) → u.publishing = false →
      ∃ t, exec (.queueDeadlock m) s = .next t ∧ t.mem = s.mem ∧ t.teams[m].spad = u.spad ∧
        ∀ (h : GrpIx) (k : SplitIx) n, (u.groups[h]).phase = .running → (s.at m h).waitsOn k = some n →
          ∃ p ∈ (t.teams[m].groups[h]).pend, p.split = some k ∧ p.trap.cause = 0x154) ∧
    (∀ p : Pend, u.live = true → s.dies[dieOf u.core].up = true → s.dies[dieOf u.core].relock = none → (u.groups[g]).phase = .running → (u.groups[g]).chain = none →
      (u.groups[g]).stopReq = false → (u.groups[g]).uses = none → (u.groups[g]).handler = false → (u.groups[g]).pend = [p] → p.trap.cause ≠ 0x154 → (u.groups[g]).lnch = none →
      (∀ k : Fin 4, u.tabs[k].dstate = false ∧ u.tabs[k].rel ≠ some g) → causeHandled p.trap.cause = true → ∀ h, u.handler = some h →
      ∃ t, exec (.asyncTrapDelivery m g) s = .next t ∧ (t.teams[m].groups[g]).pend = [] ∧ (t.teams[m].groups[g]).handler = true ∧
        (t.teams[m].groups[g]).spc = h ∧ (t.teams[m].groups[g]).priv.epc = (u.groups[g]).spc ∧
        (t.teams[m].groups[g]).priv.ecause = p.trap.head.zeroExtend 32 ∧ (t.teams[m].groups[g]).priv.eaddr = p.trap.addr ∧
        (t.teams[m].groups[g]).sregs = (u.groups[g]).sregs ∧ t.mem = s.mem) ∧
    (∀ k : Option SplitIx, u.live = true → (u.groups[g]).phase = .running → (∀ j : SplitIx, k = some j → (u.groups[g]).splits[j] ≠ none) →
      (1024 ≤ (s.dies[dieOf u.core].ccyc - (u.groups[g]).lastIssue[contender k]).toNat → (m, g, k) ∉ s.cores[u.core].promoted →
        ∃ t, exec (.issuePromotion m (g, k)) s = .next t ∧ t.teams = s.teams ∧ t.mem = s.mem ∧ t.cores[u.core].promoted = s.cores[u.core].promoted ++ [(m, g, k)]) ∧
      ((s.dies[dieOf u.core].ccyc - (u.groups[g]).lastIssue[contender k]).toNat < 1024 → exec (.issuePromotion m (g, k)) s = s.wait))

/-- R319-R322 (spec/16), R339-R342 (spec/17), R213 (spec/10): the hub writes a waiting record into its ring, then the produced word;
a held Streamer record goes to the buffer while it fits; a sample carries a reason that its stream's state allows, with the blame PC of that reason, and counts in its
entry, and an entry whose count is full spills; a reply lets what its tag
names go on, or fail, and a tag that is not waiting is ignored.
Model's choices in it: notes/assumptions 61, 62, 92, 96. -/
def Obligations.RecordsSamplesAndReplies : Prop :=
  ∀ (s : State) (c : CtxIx),
    let x := s.ctxs[c]
    (∀ (r : TrapRec) (rest : List TrapRec) (used : Nat) (u v : State), x.valid = true →
      (x.ringBad.getLsbD 0 = false → x.fring.waiting = r :: rest → x.fring.overflow = 0 →
        s.hubReadLe c (x.ringAt false + 8) 8 = .ok used → s.hubPoisoned c (x.ringAt false + 8) 8 = false →
        (x.fring.produced + 2 ^ 64 - used) % 2 ^ 64 + 64 < x.ringSize false →
        s.ringWrite c (x.ringAt false + 0x40 + 64 * (x.fring.produced % x.ringSize false)) { r with seq := x.fring.seq + 1 }.bytes = .ok u →
        u.ringWrite c (x.ringAt false) (toBytes 8 (x.fring.produced + 1)) = .ok v →
        ∃ t, exec (.recordWrite c false) s = .next t ∧ t.mem = v.mem ∧ t.hostMem = v.hostMem ∧ t.teams = s.teams ∧
          t.ctxs[c].fring = { x.fring with waiting := rest, produced := x.fring.produced + 1, seq := x.fring.seq + 1 }) ∧
      (x.ringBad.getLsbD 1 = false → x.rring.waiting = r :: rest → s.fatalStep c = none → x.fring.waiting = [] →
        s.hubReadLe c (x.ringAt true + 8) 8 = .ok used → s.hubPoisoned c (x.ringAt true + 8) 8 = false →
        (x.rring.produced + 2 ^ 64 - used) % 2 ^ 64 < x.ringSize true →
        s.ringWrite c (x.ringAt true + 0x40 + 64 * (x.rring.produced % x.ringSize true)) { r with seq := x.rring.seq + 1 }.bytes = .ok u →
        u.ringWrite c (x.ringAt true) (toBytes 8 (x.rring.produced + 1)) = .ok v →
        ∃ t, exec (.recordWrite c true) s = .next t ∧ t.mem = v.mem ∧ t.hostMem = v.hostMem ∧ t.teams = s.teams ∧
          t.ctxs[c].rring = { x.rring with waiting := rest, produced := x.rring.produced + 1, seq := x.rring.seq + 1 })) ∧
    (∀ (y : Session) (r : List Byte) (rest : List (List Byte)) (u v : State), x.session = some y → y.held = r :: rest →
      (0x40 + y.written + r.length ≤ 2 ^ y.log2 → s.ringWrite c (y.buf.toNat + 0x40 + y.written) r = .ok u →
        let z := { y with held := rest, written := y.written + r.length }
        u.ringWrite c y.buf.toNat (z.header true) = .ok v →
        ∃ t, exec (.streamerRecordWrite c) s = .next t ∧ t.mem = v.mem ∧ t.hostMem = v.hostMem ∧ t.teams = s.teams ∧ t.ctxs[c].session = some z) ∧
      (2 ^ y.log2 < 0x40 + y.written + r.length → y.dropped ≠ BitVec.allOnes 64 →
        let z := { y with held := rest, full := true, dropped := y.dropped + 1 }
        s.ringWrite c y.buf.toNat (z.header true) = .ok v →
        ∃ t, exec (.streamerRecordWrite c) s = .next t ∧ t.mem = v.mem ∧ t.teams = s.teams ∧ t.ctxs[c].session = some z)) ∧
    (∀ (core : CoreIx) (quarter : Fin 4) (reason : BitVec 4) (free blame : Word) (slot : Nat) (m : TeamIx) (g : GrpIx),
      nextSlot s.cores[core].rr[quarter] (s.quarterGroups core quarter) = some (slot, m, g) → (s.teams[m].groups[g]).phase = .running →
      (s.teams[m].groups[g]).block = none → (s.at m g).stallBlame false (s.at m g).stallWord (s.teams[m].groups[g]).spc reason.toNat free = some blame →
      let i := sampleIndex false (s.teams[m].groups[g]).spc reason.toNat s.teams[m].launchId
      s.cores[core].samples.lookup i = none →
      ∃ t, exec (.stallSample core quarter reason free 0 0) s = .next t ∧ t.teams = s.teams ∧ t.mem = s.mem ∧ t.cores[core].rr[quarter] = slot ∧
        ∃ z : Sample, t.cores[core].samples.lookup i = some z ∧ z.count = 1 ∧ z.pc = (s.teams[m].groups[g]).spc ∧ z.launch = s.teams[m].launchId ∧
          z.reason = reason ∧ z.lane = false ∧ z.blame = blame) ∧
    (∀ (m : TeamIx) (g : GrpIx) (lane : Bool) (i : Instr) (pc free : Word), (s.teams[m].groups[g]).phase = .running →
      let y := s.teams[m].groups[g]
      let b := (s.at m g).stallBlame lane i pc
      (y.handler = true → b 12 free = some (if lane then y.priv.elpc else y.priv.epc) ∧ ∀ n, n ≠ 12 → b n free = none) ∧
      (y.handler = false → b 0 free = some pc ∧ b 3 free = some pc ∧ b 13 free = some pc ∧
        b 1 free = (if free ∈ (s.at m g).producerPCs lane i then some free else none) ∧ b 12 free = none ∧
        (∀ n, 13 < n → b n free = none) ∧ (∀ w, i = .qpush w ∨ i = .qpop w ∨ i = .bar w → b 6 free = some pc ∧ b 11 free = none) ∧
        (∀ a, i = .twait a → b 11 free = some pc ∧ b 6 free = none))) ∧
    (∀ (core : CoreIx) (i : Fin 4096) z, s.cores[core].samples.lookup i.val = some z →
      (2 ^ 24 - 1 ≤ z.count ∨ (∀ l ∈ s.launches, l.lid ≠ z.launch) ∨ s.cores[core].lastCtx ≠ some z.ctx) →
      ∃ t, exec (.sampleSpill core i) s = .next t ∧ t.teams = s.teams ∧ t.mem = s.mem ∧ t.cores[core].samples.lookup i.val = none) ∧
    (∀ (f : Func) (tag : Word), s.mgmt.ready0.getLsbD 0 = true → s.mayAccess f (some c) = true →
      ((∀ y ∈ x.replies, y.1 ≠ tag) → exec (.replyRetry f c tag) s = .next s ∧ exec (.replyFail f c tag) s = .next s) ∧
      (∀ m g seq k, x.replies.find? (fun y => y.1 == tag) = some (tag, .cmd m g seq) →
        s.teams[m].findCmd g seq (fun y => y.stat == .suspended) = some k →
        (∃ t, exec (.replyRetry f c tag) s = .next t ∧ t.mem = s.mem ∧ t.teams[m].spad = s.teams[m].spad ∧ (∀ y ∈ t.ctxs[c].replies, y.1 ≠ tag) ∧
          ∃ y ∈ t.teams[m].cmds, y.gix = g ∧ y.seq = seq ∧ y.pos = k.pos ∧ y.stat = .running) ∧
        (∃ t, exec (.replyFail f c tag) s = .next t ∧ t.mem = s.mem ∧ t.teams[m].spad = s.teams[m].spad ∧ (∀ y ∈ t.ctxs[c].replies, y.1 ≠ tag) ∧
          ∀ y ∈ t.teams[m].cmds, y.gix = g → y.seq = seq → y.sub = k.sub → y.stat = .faultCancelled)))

/-- R331-R334 and R336 (spec/16), R365 (spec/18): a switch of a partition that runs nothing is under way at once, and another context's takes its place; it saves the
partition's resident teams once they have halted, each with a record where its save fails; it then becomes the incoming context's, and ends with no team of that context to bring back; a team saved in shadow storage comes back on a core with room; a core
that does not halt in time loses its teams.
Model's choices in it: notes/assumptions 64, 65, 67. -/
def Obligations.PartitionsSwitchAndTeamsComeBack : Prop :=
  ∀ (s : State) (p : Fin 16) (v : BitVec 16),
    let x := s.parts[p]
    (x.st ≤ 1 → s.switchable p v = true → ∃ t, exec (.partitionSwitch p v) s = .next t ∧
      t = { s with parts := s.parts.set p { x with st := 2, next := v, swapped := false, since := s.reft } }) ∧
    (x.st = 2 → x.next ≠ v → s.switchable p v = true → ∃ t, exec (.partitionSwitch p v) s = .next t ∧
      t = { s with parts := s.parts.set p { x with next := v, swapped := false, since := if x.swapped = true then s.reft else x.since } }) ∧
    (x.st = 2 → x.next = v → x.swapped = false → (∀ m ∈ s.teamsOfPart p, s.teams[m].haltable = true ∧ s.saveWaits m = false) →
      ∃ t, exec (.partitionSwitch p v) s = .next t ∧ t.parts = s.parts.set p { x with ctx := v, swapped := true } ∧
        (∀ m : TeamIx, s.teams[m].part ≠ p.val → t.teams[m] = s.teams[m]) ∧
        (∀ m ∈ s.teamsOfPart p, t.teams[m].live = false ∧ (∀ b ∈ t.cores[s.teams[m].core].l1, b.dirty = false) ∧
          ((∃ y ∈ t.saved, savedAs s.teams[m] y ∧ y.fault = false) ∨ ∃ r ∈ (t.ctxs[s.teams[m].ctx]).fring.waiting, r.cause = 0x1E1)) ∧
        ∀ m, s.teamsOfPart p = [m] → s.shadowFits s.teams[m] = true →
          ∃ y, t.saved = s.saved ++ [y] ∧ savedAs s.teams[m] y ∧ y.fault = false ∧ y.shadow = true) ∧
    (x.st = 2 → x.next = v → x.swapped = false → (∀ m : TeamIx, s.teams[m].live = true → s.teams[m].part ≠ p.val) →
      ∃ t, exec (.partitionSwitch p v) s = .next t ∧ t = { s with parts := s.parts.set p { x with ctx := v, swapped := true } }) ∧
    (x.st = 2 → x.next = v → x.swapped = true → (∀ y ∈ s.saved, s.restorable y = true → y.team.part = p.val → y.fault = true) →
      ∃ t, exec (.partitionSwitch p v) s = .next t ∧ t = { s with parts := s.parts.set p { x with st := if v = 0xFFFF then 0 else 1 } }) ∧
    (∀ (i : Nat) (y : Saved) (m : TeamIx) (core : CoreIx) (spad : Nat) (slots : List Nat), s.saved[i]? = some y → y.shadow = true → y.team.race = false →
      s.restorable y = true → s.teams[m].live = false → s.coreAllows core y.team.ctx 0xF = true → s.mxEntries (clusterOf core) + y.team.reqs.length ≤ 64 →
      s.inFlight core + (y.team.cmds.filter Cmd.live).length ≤ 96 →
      fitsAt (s.residents core) s.cores[core].ways y.team.obj (y.team.spadSize / 4096 - y.team.obj.spadG) spad slots = true → s.acquireWaits core = false →
      ∃ t, exec (.teamRestore i m core spad slots) s = .next t ∧ t.saved = s.saved.eraseIdx i ∧ (∀ k : TeamIx, k ≠ m → t.teams[k] = s.teams[k]) ∧
        (∀ g : GrpIx, t.teams[m].groups[g] = { y.team.groups[g] with lastIssue := t.teams[m].groups[g].lastIssue }) ∧ t.teams[m].spad = y.team.spad ∧ t.teams[m].tiles = y.team.tiles ∧ t.teams[m].accs = y.team.accs ∧
        t.teams[m].tabs = y.team.tabs ∧ t.teams[m].cmds = y.team.cmds ∧ t.teams[m].core = core ∧ t.teams[m].slots = slots ∧ t.teams[m].spadBase = spad ∧
        t.cores[core].l1 = []) ∧
    (∀ m : TeamIx, s.teams[m].live = true → s.teams[m].part = p.val → s.teams[m].haltable = false → x.st = 2 → x.swapped = false →
      4000 < (s.reft - x.since).toNat → ∃ t, exec (.haltTimeout s.teams[m].core) s = .next t ∧
        (∀ k : TeamIx, t.teams[k].live = true → t.teams[k].launch ≠ s.teams[m].launch) ∧ ∀ l ∈ t.launches, l.id ≠ s.teams[m].launch)

/-- R291 (spec/15), R299 (spec/15), R266 (spec/13), R197 (spec/10), R322, R325, R329 and R330 (spec/16), R353-R356 (spec/18), R351 (spec/17): the writes of the
host's windows, once the hub's readiness bit is set, and what reads of them give. A function that does not own a record has its write dropped and counted, and reads
zero; a VF reads zero in the management window.
Model's choices in it: notes/assumptions 69, 70, 71, 72, 73, 74, 115, 118. -/
def Obligations.WindowWrites : Prop :=
  ∀ (s : State) (f : Func) (c : CtxIx), s.mgmt.ready0.getLsbD 0 = true →
    let x := s.ctxs[c]
    let dropped (i : Instr) : Prop := exec i s = .next { s with mgmt := { s.mgmt with filtered := s.mgmt.filtered + 1 } }
    (∀ (q : QueueIx) (widx : DWord) (st : Byte),
      (s.mayAccess f (s.queueCtx q) = true →
        (∃ t, exec (.queueDoorbell f q widx) s = .next t ∧ t = s.setQueue q { s.queues[q] with widx := widx }) ∧
        ((st = 0 ∨ st = 1 ∧ s.queues[q].state ≠ 1) → ∃ t, exec (.queueStateWrite f q st) s = .next t ∧ t.teams = s.teams ∧ t.mem = s.mem ∧
          t.queues = s.queues.set q { s.queues[q] with state := st.toNat, packet := none, fence := none, waitTag := none, failed := false }) ∧
        (st ≠ 0 → ¬ (st = 1 ∧ s.queues[q].state ≠ 1) → exec (.queueStateWrite f q st) s = .next s)) ∧
      (s.mayAccess f (s.queueCtx q) = false → dropped (.queueDoorbell f q widx) ∧ dropped (.queueStateWrite f q st))) ∧
    (∀ (k : Fin 4096) (target : Word),
      (s.mayAccess f (s.owner .counters k.val) = true →
        (1 ≤ target.toNat → target.toNat ≤ 2 ^ 24 → ∃ t, exec (.counterTargetWrite f k target) s = .next t ∧ t = { s with counters := t.counters } ∧
          t.counters = s.counters.set k { s.counters[k] with count := 0, target := target, status := 0, retired := 0, done := 0, worst := 1 }) ∧
        (target = 0 ∨ 2 ^ 24 < target.toNat → exec (.counterTargetWrite f k target) s = .next s)) ∧
      (s.mayAccess f (s.owner .counters k.val) = false → dropped (.counterTargetWrite f k target))) ∧
    (∀ (k : Fin 256) (raw : BitVec 256), s.mayAccess f (s.owner .slots k.val) = true → ∃ t, exec (.slotRecordWrite f k raw) s = .next t ∧
      t = { s with slots := t.slots } ∧ (∀ j : Fin 256, j ≠ k → t.slots[j] = s.slots[j]) ∧ t.slots[k].resaddr = raw.extractLsb' 0 64 ∧
      t.slots[k].expect = (raw.extractLsb' 64 32).toNat ∧ t.slots[k].contribs = [] ∧ t.slots[k].count = 0 ∧ t.slots[k].round = 0 ∧
      (t.slots[k].armed = true → (raw.extractLsb' 96 8).toNat ≤ 6 ∧ 1 ≤ t.slots[k].expect ∧ t.slots[k].expect ≤ 2 ^ 24 ∧ raw.toNat % 8 = 0)) ∧
    (s.mayAccess f (some c) = true →
      (∀ last : DWord, Memory.wf s.mem = true → x.valid = true → x.field 8 8 + 64 * x.shapeIx + 64 ≤ devBytes → ∃ t, exec (.shapeEntryCommit f c last) s = .next t ∧ t.teams = s.teams ∧
        let b := (toBytes 56 x.shapeBuf.toNat) ++ toBytes 8 last.toNat
        Memory.readBytes t.mem (x.field 8 8 + 64 * x.shapeIx) 64 = b.set 0x0E (if shapeOk b then 1 else 0) ∧
        ∀ a, ¬ (x.field 8 8 + 64 * x.shapeIx ≤ a ∧ a < x.field 8 8 + 64 * x.shapeIx + 64) → Memory.read t.mem a = Memory.read s.mem a) ∧
      (∀ (va : DWord) (n : Byte), ∃ t, exec (.invalidation f c va n) s = .next t ∧ t.mem = s.mem ∧ t.teams = s.teams ∧
        ((n = 0xFF ∨ 16 ≤ n.toNat ∧ n.toNat ≤ 63 ∧ va.toNat % 2 ^ n.toNat = 0) → t.ctxs[c].invDone = true ∧ t.ctxs[c].invErr = false ∧
          (∀ k : CoreIx, ∀ e ∈ t.cores[k].utlb, e ∈ s.cores[k].utlb ∧ (e.ctx = c → n ≠ 0xFF ∧ overlaps e.va e.size va.toNat (2 ^ n.toNat) = false)) ∧
          ∀ d : DieIx, ∀ e ∈ t.dies[d].tlb, e ∈ s.dies[d].tlb ∧ (e.ctx = c → n ≠ 0xFF ∧ overlaps e.va e.size va.toNat (2 ^ n.toNat) = false)) ∧
        (n ≠ 0xFF → ¬ (16 ≤ n.toNat ∧ n.toNat ≤ 63 ∧ va.toNat % 2 ^ n.toNat = 0) → t = { s with ctxs := s.ctxs.set c { x with invErr := true } })) ∧
      (∀ bits : Word, ∃ t, exec (.ringStatusClear f c bits) s = .next t ∧
        t = { s with ctxs := s.ctxs.set c { x with ringBad := x.ringBad &&& ~~~(bits.extractLsb' 0 3) } }) ∧
      (∀ (launch team : Word) (grp : Byte),
        let names (u : Team) (g : GrpIx) : Prop := u.live = true ∧ u.ctx = c ∧ u.launchId = launch ∧ (team = 0xFFFFFFFF ∨ team.toNat = u.index) ∧ (grp = 0xFF ∨ grp.toNat = g.val)
        (∃ t, exec (.stopRequest f c launch team grp) s = .next t ∧ t = { s with teams := t.teams, saved := t.saved } ∧ ∀ (m : TeamIx) (g : GrpIx),
          (names s.teams[m] g → (s.teams[m].groups[g]).phase = .running → t.teams[m].groups[g] = { s.teams[m].groups[g] with stopReq := true }) ∧
          (¬ names s.teams[m] g → t.teams[m].groups[g] = s.teams[m].groups[g])) ∧
        (∃ t, exec (.resumeCommand f c launch team grp) s = .next t ∧
          ((∀ (m : TeamIx) (g : GrpIx), names s.teams[m] g → (s.teams[m].groups[g]).phase = .stopped → (s.teams[m].groups[g]).priv.fwd = false) →
            t = { s with teams := t.teams, saved := t.saved }) ∧ ∀ (m : TeamIx) (g : GrpIx),
          let y := s.teams[m].groups[g]
          let z := t.teams[m].groups[g]
          (names s.teams[m] g → y.phase = .stopped → y.priv.fwd = false → z.phase = .running ∧ z.spc = y.priv.epc ∧ z.handler = false ∧ z.stepping = x.stepOn ∧
            z.sregs = y.sregs) ∧
          (names s.teams[m] g → y.phase = .stopped → y.priv.fwd = true → z = { y with handler := false, priv := { y.priv with fwd := false } } ∧
            ∃ r ∈ (t.ctxs[c]).fring.waiting, r = { y.priv.record with fwd := true }) ∧
          (names s.teams[m] g → y.phase ≠ .stopped → z = y) ∧
          (¬ names s.teams[m] g → z = y)))) ∧
    (∀ off n : Nat, let t := s.hostRead f 0 off n
      t = { s with mgmt := { s.mgmt with hostData := t.mgmt.hostData, filtered := t.mgmt.filtered } } ∧ t.mgmt.hostData.length = n ∧
      (f.val ≠ 0 → 0 < n → off + n ≤ 0x100000 ∨ (0x102000 ≤ off ∧ off + n ≤ 0x200000) ∨ 0x500000 ≤ off →
        t.mgmt.hostData = List.replicate n 0 ∧ t.mgmt.filtered = s.mgmt.filtered + 1) ∧
      (f.val = 0 → off + n ≤ 0x100000 → t.mgmt.filtered = s.mgmt.filtered) ∧
      (f.val = 0 → n = 8 → (off = 0 → t.mgmt.hostData = toBytes 8 s.mgmt.ready0.toNat) ∧ (off = 8 → t.mgmt.hostData = toBytes 8 s.mgmt.ready1.toNat) ∧
        (off = 0x20 → t.mgmt.hostData = toBytes 8 s.mgmt.filtered.toNat))) ∧
    (∀ k : Fin 4096, let t := s.hostRead f 0 (0x200000 + 64 * k.val) 8
      (s.mayAccess f (s.owner .counters k.val) = true → t.mgmt.filtered = s.mgmt.filtered ∧
        t.mgmt.hostData = toBytes 4 (s.counters[k]).count.toNat ++ toBytes 4 (s.counters[k]).target.toNat) ∧
      (s.mayAccess f (s.owner .counters k.val) = false → t.mgmt.filtered = s.mgmt.filtered + 1 ∧ t.mgmt.hostData = List.replicate 8 0)) ∧
    (∀ off : Nat, ∃ t, exec (.barAtomicop f off) s = .next t ∧ t = { s with mgmt := { s.mgmt with unsupported := s.mgmt.unsupported ++ [(f.val, off)] } }) ∧
    (f.val ≠ 0 → ∀ (off size : Nat) (v : DWord), 1 ≤ size → size ≤ 8 → off < 0x100000 ∨ (0x102000 ≤ off ∧ off < 0x200000) ∨ 0x500000 ≤ off → dropped (.registerWrite f off size v)) ∧
    (∀ (q : QueueIx) (v : DWord), s.mayAccess f (s.queueCtx q) = true → v.toNat % 64 = 0 → ∃ t, exec (.registerWrite f (0x100000 + 32 * q.val) 8 v) s = .next t ∧
      t = s.setQueue q { s.queues[q] with ring := v }) ∧
    (f.val = 0 → ∀ v : DWord, 900 ≤ v.toNat % 2 ^ 32 → v.toNat % 2 ^ 32 ≤ 1600 → v.toNat % 2 ^ 32 % 25 = 0 → ∃ t, exec (.registerWrite f 0x100 4 v) s = .next t ∧
      t = { s with mgmt := { s.mgmt with tdp := v.extractLsb' 0 32 } })

/-- R329 (spec/16), R361-R365, R367, R369-R371 (spec/18), R56 (spec/03): a descriptor in range makes its context valid with fresh counters and pennants; a
partition seals, and scrubs its ranges; the service register clears; the power limit takes a value that it may have; measurements extend; a quote answers;
firmware boots; readiness bits set; and a device reset leaves memory and nothing resident.
Model's choices in it: notes/assumptions 5, 70, 72, 75, 76, 77, 78, 119. -/
def Obligations.ManagementFunctions : Prop :=
  ∀ (s : State),
    let m := s.mgmt
    (∀ (written : BitVec 1024) (k : Nat), k < 1024 → (descriptorKept written).getLsbD k = (written.getLsbD k &&
      !decide (k / 8 ∈ [0x2E, 0x2F] ∨ (0x42 ≤ k / 8 ∧ k / 8 < 0x48) ∨ (0x5C ≤ k / 8 ∧ k / 8 < 0x60) ∨ 0x68 ≤ k / 8 ∨ (k / 8 = 0x41 ∧ k % 8 ≠ 0)))) ∧
    (∀ (c : CtxIx) (written : BitVec 1024), let raw := descriptorKept written
      descriptorInRange raw = true → s.rangesFree c raw = true → s.ctxs[c].valid = false →
      ∃ t, exec (.contextDescriptorWrite c written) s = .next t ∧ t.mem = s.mem ∧ t.teams = s.teams ∧ t.ctxs[c].valid = true ∧ t.ctxs[c].fring = RingSt.zero ∧
        t.ctxs[c].rring = RingSt.zero ∧ (∀ k : Nat, k ≠ 520 → t.ctxs[c].raw.getLsbD k = raw.getLsbD k) ∧ t.ctxs[c].raw.getLsbD 520 = true ∧
        ∀ k < 4096, (t.ctxs[c].base .counters ≤ k → k < t.ctxs[c].base .counters + t.ctxs[c].count .counters → t.counter k = Counter.fresh) ∧
          (t.ctxs[c].base .pennants ≤ k → k < t.ctxs[c].base .pennants + t.ctxs[c].count .pennants → t.pennant k = Pennant.fresh)) ∧
    (∀ (c : CtxIx) (written : BitVec 1024), let raw := descriptorKept written
      descriptorInRange raw = false ∨ s.rangesFree c raw = false → ∃ t, exec (.contextDescriptorWrite c written) s = .next t ∧ t.teams = s.teams ∧
      t.ctxs[c].valid = false ∧ t.ctxs[c].raw.getLsbD 520 = false ∧ (s.ctxs[c].valid = true → t.ctxs[c].session = none) ∧
      ∀ y, s.ctxs[c].valid = true → s.ctxs[c].session = some y → y.held = [] → 0x40 + y.written + 24 ≤ 2 ^ y.log2 →
        (∃ p, y.last.lookup 0xFE = some p ∧ (s.reft - p).toNat ≤ 65535) → ∃ r : List Byte, r.length = 24 ∧ r.take 2 = [8, 3] ∧
          r.drop 8 = toBytes 4 2 ++ toBytes 4 0 ++ toBytes 8 s.reft.toNat ∧
          ∀ u v w x, let z := { y with written := y.written + 24 }
            s.ringWrite c (y.buf.toNat + 0x40 + y.written) r = .ok u → u.ringWrite c y.buf.toNat (z.header true) = .ok v →
            v.ringWrite c y.buf.toNat ({ z with trunc := true }.header true) = .ok w → w.ringWrite c y.buf.toNat ({ z with trunc := true }.header false) = .ok x →
            t.mem = x.mem ∧ t.hostMem = x.hostMem) ∧
    (∀ p : Fin 16, (∃ t, exec (.partitionSeal p) s = .next t ∧ t = { s with parts := s.parts.set p { s.parts[p] with sealed := true, sealack := true } }) ∧
      (s.parts[p].scrub = false → s.parts[p].ctx = 0xFFFF → s.parts[p].st ≤ 1 → ∃ t, exec (.partitionScrub p) s = .next t ∧
        t = { s with parts := s.parts.set p { s.parts[p] with scrub := true, st := 3 } }) ∧
      (s.parts[p].scrub = true → Memory.wf s.mem = true → ∃ t, exec (.partitionScrub p) s = .next t ∧ t.teams = s.teams ∧
        t.parts = s.parts.set p { s.parts[p] with sealed := false, sealack := false, scrub := false, st := 0 } ∧
        (∀ r ∈ s.parts[p].ranges, ∀ a, r.1 ≤ a → a < r.1 + r.2 → Memory.read t.mem a = 0) ∧
        ∀ a, (∀ r ∈ s.parts[p].ranges, ¬ (r.1 ≤ a ∧ a < r.1 + r.2)) → Memory.read t.mem a = Memory.read s.mem a) ∧
      (s.parts[p].scrub = false → s.parts[p].ctx ≠ 0xFFFF ∨ 1 < s.parts[p].st → exec (.partitionScrub p) s = .next s)) ∧
    (∀ w : Word, (900 ≤ w.toNat → w.toNat ≤ 1600 → w.toNat % 25 = 0 → ∃ t, exec (.tdpWrite w) s = .next t ∧ t = { s with mgmt := { m with tdp := w } }) ∧
      (¬ (900 ≤ w.toNat ∧ w.toNat ≤ 1600 ∧ w.toNat % 25 = 0) → exec (.tdpWrite w) s = .next s)) ∧
    (∀ v : Word, ∃ t, exec (.serviceClear v) s = .next t ∧ t = { s with mgmt := { m with service := t.mgmt.service } } ∧
      (∀ k : Nat, 1 ≤ k → k ≤ 9 → t.mgmt.service.getLsbD k = (m.service.getLsbD k && !v.getLsbD k)) ∧
      (t.mgmt.service.getLsbD 0 = true ↔ ∃ k : Nat, 1 ≤ k ∧ k ≤ 9 ∧ t.mgmt.service.getLsbD k = true) ∧ ∀ k : Nat, 10 ≤ k → t.mgmt.service.getLsbD k = false) ∧
    (∀ (k : Fin 8) (b : List Byte), (4 ≤ k.val → ∃ t, exec (.measurementExtend k b) s = .next t ∧ t = { s with mgmt := { m with meas := t.mgmt.meas } } ∧
        t.mgmt.meas = m.meas.set k (BitVec.ofNat 256 (ofBytes (shake256 (toBytes 32 (m.meas[k]).toNat ++ shake256 b))))) ∧
      (k.val < 4 → exec (.measurementExtend k b) s = .next s)) ∧
    (∀ nonce : BitVec 256, m.booted = true →
      (m.aliasOk = true → m.quotes < 1024 → ∃ t sig, exec (.quoteRequest nonce) s = .next t ∧
        t = { s with mgmt := { m with quotes := m.quotes + 1, answer := .quote nonce m.meas m.ready0 m.ready1 s.sealMask sig } }) ∧
      (m.aliasOk = false ∨ 1024 ≤ m.quotes → exec (.quoteRequest nonce) s = .next { s with mgmt := { m with answer := .exhausted } })) ∧
    (∀ (a b : Image) (seed : List Byte) (spares : List (DieIx × Bool × Fin 42 × Fin 40)), m.booted = false → m.bootErr = 0 →
      (imageOk a = true → ∃ t, exec (.firmwareBoot a b seed spares) s = .next t ∧ t = { s with mgmt := t.mgmt } ∧ t.mgmt.booted = true ∧
        t.mgmt.bootCount = m.bootCount + 1 ∧ t.mgmt.quotes = 0 ∧ (t.mgmt.aliasOk = true ↔ m.idIndex < 2 ^ 20) ∧ t.mgmt.aliasSeed = seed ∧
        (m.idIndex < 2 ^ 20 → t.mgmt.idIndex = m.idIndex + 1 ∧
          t.mgmt.aliasCert = Config.identitySignature m.idIndex (Config.aliasPublic seed) t.mgmt.meas.toList t.mgmt.bootCount) ∧
        (∀ k : Fin 8, t.mgmt.meas[k] = if k.val < 4 then Config.bootMeasure a.bytes k.val else m.meas[k]) ∧ t.mgmt.fuses = m.fuses ∧ t.mgmt.spared = m.spared ∧
        (spares = [] → t.mgmt.subst = m.subst) ∧
        ∀ (d : DieIx) (second : Bool) (phys : Fin 42) (l : Fin 40), spares = [(d, second, phys, l)] →
          let half (x : Bool) : Nat := (if x then m.subst[d].toNat / 2 ^ 16 else m.subst[d].toNat) % 64
          let fits : Prop := (phys = m.fuses.spares[d].1 ∨ phys = m.fuses.spares[d].2) ∧ s.cores[coreOf d l].retiredC = true ∧ s.spareOf (coreOf d l) = none ∧
            half second = 0x3F ∧ half (!second) ≠ phys.val ∧ (d, phys.val) ∉ m.deadSpares
          (fits → t.spareOf (coreOf d l) = some phys.val ∧ ∀ e : DieIx, e ≠ d → t.mgmt.subst[e] = m.subst[e]) ∧ (¬ fits → t.mgmt.subst = m.subst)) ∧
      (imageOk a = false → imageOk b = true → exec (.firmwareBoot a b seed spares) s = exec (.firmwareBoot b a seed spares) s) ∧
      (imageOk a = false → imageOk b = false → ∃ t, exec (.firmwareBoot a b seed spares) s = .next t ∧ t = { s with mgmt := { m with bootErr := t.mgmt.bootErr } } ∧
        t.mgmt.bootErr ≠ 0)) ∧
    (s.mayBeReady .hub = m.booted ∧ (∀ d : DieIx, s.mayBeReady (.die d) = (s.readyBit .hub && s.dies[d].up)) ∧
      (∀ k : Fin 8, ∀ d : DieIx, k.val / 2 = d.val → s.mayBeReady (.stack k) = s.readyBit (.die d)) ∧ (∀ p : Fin 12, s.mayBeReady (.port p) = m.fuses.ports.getLsbD p.val) ∧
      ∀ k : Fin 40, ∀ d : DieIx, k.val / 10 = d.val → (s.mayBeReady (.cluster k) = true ↔
        s.readyBit (.die d) = true ∧ ∀ c : CoreIx, clusterOf c = k → s.cores[c].retiredC = true →
          ∃ p, s.spareOf c = some p ∧ (d, p) ∉ m.deadSpares)) ∧
    (∀ b : ReadyBit, s.mayBeReady b = true → s.readyBit b = false → ∃ t, exec (.readinessBitSet b) s = .next t ∧ t.readyBit b = true ∧
      t = { s with mgmt := { m with ready0 := t.mgmt.ready0, ready1 := t.mgmt.ready1 } } ∧ ∀ x, x ≠ b → t.readyBit x = s.readyBit x) ∧
    (∃ t, exec .deviceReset s = .next t ∧ t.mem = s.mem ∧ t.hostMem = s.hostMem ∧ (∀ k : TeamIx, t.teams[k] = Team.zero) ∧ t.reft = 0 ∧ t.launches = [] ∧
      t.mgmt.ready0 = 0 ∧ t.mgmt.ready1 = 0 ∧ t.mgmt.booted = false ∧ t.mgmt.service = 0 ∧ t.halted = false ∧
      t.memPoison = s.memPoison ∧ t.lines = s.lines ∧ t.mgmt.fuses = m.fuses ∧ t.mgmt.idIndex = m.idIndex ∧ t.mgmt.bootCount = m.bootCount ∧
      t.mgmt.spared = m.spared ∧ t.mgmt.deadSpares = m.deadSpares ∧ (∀ p : Fin 16, (s.parts[p].sealed = true → t.parts[p] =
        { Partition.zero with sealed := true, sealack := s.parts[p].sealack, ranges := s.parts[p].ranges }) ∧ (s.parts[p].sealed = false → t.parts[p] = Partition.zero)) ∧
      (∀ c : CoreIx, t.cores[c].retiredC = (s.cores[c].retiredC || s.cores[c].retiring)) ∧
      (∀ c : CoreIx, t.cores[c].ways = 2 ∧ t.cores[c].l1 = [] ∧ t.cores[c].guidon = []) ∧ (∀ c : CtxIx, t.ctxs[c].valid = false) ∧
      (∀ k : Fin 4096, t.counters[k] = Counter.fresh) ∧ ∀ q : QueueIx, t.queues[q].state = 0)

/-- R8-R11 (spec/01), R304, R309 and R312 (spec/15), R358, R359, R363 and R366-R371 (spec/18): what happens to links, clocks, power, memory rows and cores,
with their service bits and records; a lost die's teams are gone and its launches end with status 3; an inbound request of a peer is served where it
is granted; the management processor reads a sealed byte as zero.
Model's choices in it: notes/assumptions 68, 79, 80, 81, 82, 83, 84, 85, 86, 116, 119. -/
def Obligations.OutsideEvents : Prop :=
  ∀ (s : State),
    let m := s.mgmt
    let serviced (t : State) (k : Nat) : Prop := t.mgmt.service.getLsbD k = true ∧ t.mgmt.service.getLsbD 0 = true
    let still (t : State) : Prop := t.teams = s.teams ∧ t.mem = s.mem ∧ t.hostMem = s.hostMem ∧ t.launches = s.launches
    (∀ d : DieIx, s.dies[d].up = true → ∃ t, exec (.dieLost d) s = .next t ∧ serviced t 5 ∧ t.dies[d].up = false ∧ t.dies[d].far = [] ∧
      (Memory.wf s.mem = true → ∀ a, (∀ x ∈ s.lines, x.1 = a / 256 → x.2.home ≠ d.val) →
        Memory.read t.mem a = Memory.read s.mem a) ∧ (∀ x ∈ t.lines, x.2.home ≠ d.val) ∧
      (∀ k : TeamIx, t.teams[k].live = true → dieOf t.teams[k].core ≠ d) ∧ (s.lostPushes d = [] → ∀ k : TeamIx, dieOf s.teams[k].core ≠ d → t.teams[k] = s.teams[k]) ∧
      (∀ b ∈ dieBits d, t.readyBit b = false) ∧ (∀ l ∈ t.launches, ∀ k : TeamIx, s.teams[k].live = true → dieOf s.teams[k].core = d → s.teams[k].launch = l.id → 3 ≤ l.status)) ∧
    (∀ a b : DieIx, a ≠ b → (a, b) ∉ m.linksDown → (b, a) ∉ m.linksDown → ∃ t, exec (.dieLinkPortFailed a b) s = .next t ∧ still t ∧ serviced t 4 ∧ (a, b) ∈ t.mgmt.linksDown) ∧
    exec .linkFlitRetry s = .next s ∧
    (∀ p : Fin 12, s.readyBit (.port p) = true →
      (m.portsDeg.getLsbD p.val = false → ∃ t, exec (.bisuoshLaneLoss p) s = .next t ∧ still t ∧ serviced t 3 ∧ t.mgmt.portsDeg.getLsbD p.val = true) ∧
      (∃ t, exec (.bisuoshPortFailed p) s = .next t ∧ still t ∧ serviced t 3 ∧ t.readyBit (.port p) = false ∧ ∀ k : Fin 256, (t.mgmt.routes[k]).getLsbD p.val = false)) ∧
    (m.pcieDeg = false → ∃ t, exec .pcieLinkDegraded s = .next t ∧ still t ∧ serviced t 3 ∧ t.mgmt.pcieDeg = true) ∧
    (∀ (src a : Nat), m.ready0.getLsbD 0 = true → m.ready0.extractLsb' 16 12 ≠ 0 →
      (∀ n, s.peerGranted src a n = true → s.peerLost a n = false → ∃ t, exec (.peerInboundRequest src a (.read n)) s = .next t ∧ still t ∧
        t.mgmt.peerOut = m.peerOut ++ [(src, some (Memory.readBytes s.mem a n))]) ∧
      (∀ b : List Byte, s.peerGranted src a b.length = true → s.peerLost a b.length = false → Memory.wf s.mem = true → a + b.length ≤ devBytes → ∃ t, exec (.peerInboundRequest src a (.write b)) s = .next t ∧ t.teams = s.teams ∧
        (∀ i, i < b.length → Memory.read t.mem (a + i) = b.getD i 0) ∧ ∀ y, ¬ (a ≤ y ∧ y < a + b.length) → Memory.read t.mem y = Memory.read s.mem y) ∧
      (∀ (op : Nat) (ty : BitVec 4) (x y : BitVec 128) (n : Nat), n = atomWidth ty.toNat →
        s.peerGranted src a n = true → s.peerLost a n = false → s.homePoisoned a n = false → Memory.wf s.mem = true → a + n ≤ devBytes →
        ∃ t, exec (.peerInboundRequest src a (.atomic op ty x y)) s = .next t ∧ t.teams = s.teams ∧ t.mgmt.peerOut = m.peerOut ++ [(src, some (Memory.readBytes s.mem a n))] ∧
          Memory.readLe t.mem a n = atomNew op ty.toNat (Memory.readLe s.mem a n) (x.toNat % 2 ^ (8 * n)) (y.toNat % 2 ^ (8 * n)) % 2 ^ (8 * n)) ∧
      (∀ r, s.peerGranted src a (peerBytes r) = false ∨ s.peerLost a (peerBytes r) = true → ∃ t, exec (.peerInboundRequest src a r) s = .next t ∧ still t ∧ t.mgmt.peerOut = m.peerOut ++ [(src, none)])) ∧
    (∀ time : DWord, (m.timeSrc ≠ none → m.timeSteps = true → 1000000 < (time - s.reft).toNat → (time - s.reft).toNat < 2 ^ 63 →
        ∃ t, exec (.ptpMessage time) s = .next t ∧ still t ∧ t.reft = time ∧ t.slew = 0) ∧
      (m.timeSrc ≠ none → (m.timeSteps = false ∨ (time - s.reft).toNat ≤ 1000000 ∨ 2 ^ 63 ≤ (time - s.reft).toNat) →
        ∃ t, exec (.ptpMessage time) s = .next t ∧ t = { s with slew := t.slew } ∧ (t.slew = 0 ↔ time = s.reft) ∧ -500 < t.slew ∧ t.slew < 500 ∧
          (0 < t.slew ↔ time ≠ s.reft ∧ (time - s.reft).toNat < 2 ^ 63)) ∧
      (m.timeSrc = none → exec (.ptpMessage time) s = .next s)) ∧
    (∃ t, exec .powerLimitReached s = .next t ∧ t = { s with mgmt := { m with stepDown := t.mgmt.stepDown } } ∧
      ∀ d : DieIx, t.mgmt.stepDown.getLsbD d.val = (m.stepDown.getLsbD d.val || (s.dies[d].up && decide (6 < s.dies[d].freq)))) ∧
    (∀ (d : DieIx) (n : Nat) (lock : BitVec 16), s.dies[d].up = true → s.dies[d].relock = none → 6 ≤ n → n ≤ 18 → n ≠ s.dies[d].freq → lock ≠ 0 → lock.toNat ≤ 2600 →
      (m.stepDown.getLsbD d.val = true → n ≤ s.dies[d].freq) → ∃ t, exec (.frequencyStep d n lock) s = .next t ∧ still t ∧
        t.dies[d].relock = some lock.toNat ∧ t.dies[d].newFreq = n ∧ t.dies[d].freq = s.dies[d].freq ∧ t.dies[d].stepSeq = s.dies[d].stepSeq + 1 ∧ t.dies[d].steps.length ≤ 64) ∧
    (∀ d : DieIx, s.dies[d].relock = some 0 → ∃ t, exec (.relockEnd d) s = .next t ∧
      t = { s with dies := s.dies.set d { s.dies[d] with relock := none, freq := s.dies[d].newFreq } }) ∧
    (∃ t, exec .thermalTrip s = .next t ∧ t.halted = true ∧ serviced t 7 ∧ t.teams = s.teams) ∧
    ((∀ d : DieIx, s.dies[d].up = true → s.dies[d].freq ≤ 6) → ∃ t, exec .powerTrip s = .next t ∧ t.halted = true ∧ serviced t 8 ∧ t.teams = s.teams) ∧
    (∀ c : CtxIx, s.ctxs[c].valid = true →
      (m.ceLimit[(40 : Fin 41)] < m.corrected[(40 : Fin 41)] → ∃ t, exec (.correctedErrorThreshold none) s = .next t ∧ still t ∧ serviced t 6 ∧
        t.mgmt.corrected = m.corrected.set (40 : Fin 41) 0 ∧ ∃ r ∈ (t.ctxs[c]).fring.waiting, r.cause = 0x120) ∧
      (∃ t, exec .hubInternalError s = .next t ∧ still t ∧ serviced t 9 ∧ ∃ r ∈ (t.ctxs[c]).fring.waiting, r.cause = 0x1FF)) ∧
    (∀ (k : Fin 8) (row : Nat), ∃ t, exec (.hbmRowSpare k row) s = .next t ∧ still t ∧ serviced t 2 ∧ (k, row) ∈ t.mgmt.spared) ∧
    (∀ c : CoreIx, s.coreWhole c = true → s.cores[c].retiring = false → ∃ t, exec (.coreRetirement c) s = .next t ∧ still t ∧ serviced t 1 ∧
      t.readyBit (.cluster (clusterOf c)) = false ∧ (s.residents c ≠ [] → t.cores[c] = { s.cores[c] with retiring := true }) ∧
      (s.residents c = [] → s.cores[c].retiredC = false → t.cores[c] = { s.cores[c] with retiredC := true, retiring := false })) ∧
    (∀ c : CoreIx, s.cores[c].retiredC = false → s.cores[c].retiring = true → s.residents c = [] → ∃ t, exec (.coreRetirement c) s = .next t ∧
      t = { s with cores := s.cores.set c { s.cores[c] with retiredC := true, retiring := false } }) ∧
    (m.booted = true → ∀ a : Nat,
      (∀ n, ∃ t, exec (.managementProcessorAccess (.readDevice a n)) s = .next t ∧ still t ∧ t.mgmt.mpData.length = n ∧
        ∀ i, i < n → t.mgmt.mpData.getD i 0 = if s.sealedByte (a + i) then 0 else Memory.read s.mem (a + i)) ∧
      (∀ b : List Byte, Memory.wf s.mem = true → a + b.length ≤ devBytes → ∃ t, exec (.managementProcessorAccess (.writeDevice a b)) s = .next t ∧ t.teams = s.teams ∧
        (∀ i, i < b.length → Memory.read t.mem (a + i) = if s.sealedByte (a + i) then Memory.read s.mem (a + i) else b.getD i 0) ∧
        ∀ y, ¬ (a ≤ y ∧ y < a + b.length) → Memory.read t.mem y = Memory.read s.mem y) ∧
      (∀ b : List Byte, (∀ w ∈ m.mpGrants, ¬ (w.1 ≤ a ∧ a + b.length ≤ w.1 + w.2)) →
        exec (.managementProcessorAccess (.writeHost a b)) s = .next { s with mgmt := { m with mpDropped := m.mpDropped + 1 } }) ∧
      ∀ b : List Byte, (∃ w ∈ m.mpGrants, w.1 ≤ a ∧ a + b.length ≤ w.1 + w.2) →
        exec (.managementProcessorAccess (.writeHost a b)) s = .next { s with hostMem := Memory.writeBytes s.hostMem a b }) ∧
    (∀ (f : Func) (bar off n : Nat), m.fuses.host = false → s.outerStep (.hostRead f bar off n) = s) ∧
    (∀ (k : Fin 16) (on : Bool), let t := s.outerStep (.vfEnable k on)
      t = { s with mgmt := { m with vfOn := t.mgmt.vfOn } } ∧ ∀ j : Nat, j < 16 → t.mgmt.vfOn.getLsbD j = if j = k.val then on else m.vfOn.getLsbD j) ∧
    (∀ (i : Fin 64) (g : Option (Nat × Nat × Nat)), s.outerStep (.inboundGrant i g) = { s with mgmt := { m with grants := m.grants.set i g } }) ∧
    (∀ u : Fin 41, s.outerStep (.corrected u) = { s with mgmt := { m with corrected := m.corrected.set u (m.corrected[u] + 1) } }) ∧
    (∀ (f : Func) (v : Nat), v < (if f.val = 0 then 2048 else 64) →
      (∃ t, s.outerStep (.msixMask f v true) = t ∧ t = { s with mgmt := { m with msixMask := t.mgmt.msixMask } } ∧ (f.val, v) ∈ t.mgmt.msixMask) ∧
      ∀ x : Nat × Nat, (x ∈ m.msixMask → (m.interrupt x).msix = m.msix ∧ x ∈ (m.interrupt x).msixPend) ∧
        (x ∉ m.msixMask → m.interrupt x = { m with msix := m.msix ++ [x] }))

/-- R21-R24, R37 and R38 (spec/02), R133 (spec/07), R313, R314 and R351 (spec/15, spec/17): a step lets the turn's ticks pass, takes the turn's stream in hand,
and is the exec of the instruction that stands there: the scalar word at SPC or its unit with an XIMM, a trap where the word is no instruction, the lane word at the
split's lane PC, a hash word between its steps, the arrival of a split at its join, or the event itself; a word that reads an uncorrectable error is trapped in its
place, and an error, a host read or another act of the outside may be the turn. Which turn comes next is the schedule's head (notes/assumptions/3.md); the turn of a
quarter's slot goes to its contender that comes first in the order of R313. Around exec the step only moves the clocks on, counts the steps, notes which word
produces its destinations, and remembers who waits, when a stream last issued and which group holds a quarter; a single-stepped group whose unit has completed takes
0x052; and a turn that an HDRAIN in progress bars, or that is not the single-stepped group's unit, waits.
Model's choices in it: notes/assumptions 3, 20, 21, 24, 26, 32, 63, 74, 97, 99, 106, 107, 119. -/
def Obligations.StepRunsTheDecodedInstruction : Prop :=
  ∀ (s : State) (n : Nat) (t : TeamIx) (g : GrpIx) (k : SplitIx) (rest : List Turn),
    (s.halted = false → s.nextTurn = (⟨n, .scalar t g⟩, rest) →
      let b0 := s.begin ⟨n, .scalar t g⟩ rest
      let b := b0.at t g
      let ran (i : Instr) : Prop := step s = settled b (.scalar t g) i (exec i b)
      (b.issues = false ∨ b.holding = true ∨ (b.halting = true ∧ b.grp.lnch = none ∧ b.tableWork = false) ∨ b0.notUnit (.scalar t g) = true →
        step s = b.idle (.scalar t g)) ∧
      (b.issues = true → b.halting = false → b.holding = false → b0.notUnit (.scalar t g) = false →
        (b.interrupted = true → ran (.asyncTrapDelivery t g)) ∧
        (∀ (w : Word) (i : Instr), b.interrupted = false → b.scalarWord b.grp.spc = some w → w.extractLsb' 26 6 ≠ 0x16 → decodeScalar w = .ok i →
          (b.scalarErr i = none → ran i) ∧ ∀ c, b.scalarErr i = some c → ran (.nonInstructionWord false c 0)) ∧
        (∀ (w : Word) (c : Cause), b.interrupted = false → b.scalarWord b.grp.spc = some w → w.extractLsb' 26 6 ≠ 0x16 → decodeScalar w = .error c →
          ran (.nonInstructionWord false c 0)) ∧
        (∀ w v : Word, b.interrupted = false → b.scalarWord b.grp.spc = some w → w.extractLsb' 26 6 = 0x16 → b.grp.spc.toNat + 4 < b.team.obj.ssize →
          b.scalarWord (b.grp.spc + 4) = some v → ximmFault w v = none → b.scalarErr (.ximm (w.extractLsb' 0 22)) = none → ran (.ximm (w.extractLsb' 0 22))))) ∧
    (s.halted = false → s.nextTurn = (⟨n, .lane t g k⟩, rest) →
      let b0 := s.begin ⟨n, .lane t g k⟩ rest
      let b : State := { b0.at t g with spl := k }
      let ran (i : Instr) : Prop :=
        let c := b.readPreds (some i)
        ((∀ u, exec i c = .next u → c.drainBars (.lane t g k) u = false) → step s = settled c (.lane t g k) i (exec i c)) ∧
        ∀ u, exec i c = .next u → c.drainBars (.lane t g k) u = true → step s = c.idle (.lane t g k)
      ∀ (p : Split), b.issues = true → b.halting = false → b.interrupted = false → b.grp.launching = false → b.grp.handler = false → b.grp.block.isSome = true →
        b.grp.splits[k] = some p → b0.notUnit (.lane t g k) = false →
      (∀ q, b.grp.hashOf k = some q → ran q.instr) ∧
      (b.grp.hashOf k = none → p.atBar = none → (∀ c, b.grp.chain = some c → c.split = k) →
        (b.arrived p = true → (b.splitErr k p = false → ran (.splitArrival t g k)) ∧ (b.splitErr k p = true → ran (.nonInstructionWord true 0x100 0))) ∧
        (b.arrived p = false → b.slotHeld = false → ∀ w : BitVec 96, b.laneBits p.lpc = some w →
          (∀ i : Instr, decodeLane w = .ok i → (b.grp.chainFault i = true → ran (.nonInstructionWord true 0x007 0)) ∧
            (b.grp.chainFault i = false → (b.laneErrOf k i = none → ran i) ∧ ∀ c l, b.laneErrOf k i = some (c, l) → ran (.nonInstructionWord true c 0))) ∧
          ∀ c : Cause, decodeLane w = .error c → b.grp.chainFault (.nonInstructionWord true c 0) = false → ran (.nonInstructionWord true c 0)))) ∧
    (∀ i : Instr, s.halted = false → s.nextTurn = (⟨n, .event i⟩, rest) →
      let b := s.begin ⟨n, .event i⟩ rest
      (isEvent i = true → b.shutOut (.event i) = false → (∀ u, exec i b = .next u → b.drainBars (.event i) u = false) →
        step s = settled b (.event i) i (exec i b)) ∧
      (isEvent i = false ∨ b.shutOut (.event i) = true → step s = b.idle (.event i))) ∧
    (∀ o : Outer, s.halted = false → s.nextTurn = (⟨n, .outer o⟩, rest) → step s = .next (((s.begin ⟨n, .outer o⟩ rest).outerStep o).settle (.outer o) false)) ∧
    (∀ a : Act, s.halted = true → s.nextTurn = (⟨n, a⟩, rest) → (∀ c q lane ready, a ≠ .slot c q lane ready) → a ≠ .event .deviceReset → step s = .fault .clocksStopped) ∧
    (∀ (a : Act) (x : Turn) (r : List Turn), s.sched = x :: r → s.nextTurn = (x, r) ∧
      (s.completing = [] → s.begin ⟨n, a⟩ rest =
        { s with reft := (s.begin ⟨n, a⟩ rest).reft, dies := (s.begin ⟨n, a⟩ rest).dies, sched := rest, tick := s.tick + 1, blocked := false })) ∧
    (∀ (c : CoreIx) (q : Fin 4) (lane : Bool) (ready : List Contender), s.completing = [] → s.sched = ⟨n, .slot c q lane ready⟩ :: rest →
      let b := s.begin ⟨n, .slot c q lane ready⟩ rest
      (∀ x ∈ ready, b.contends c q lane x = true → (∀ y ∈ ready, y ≠ x → b.contends c q lane y = true → b.place lane x < b.place lane y) →
        step s = step { s with sched := ⟨n, contenderAct lane x⟩ :: rest }) ∧
      (s.halted = false → (∀ x ∈ ready, b.contends c q lane x = false) → step s = b.idle (.slot c q lane ready))) ∧
    (∀ (lane : Bool) (i : Instr) (u : State),
      s.issuedTo lane i u = u.modGrp (fun x => { x with producers := (s.issuedTo lane i u).grp.producers }) ∧
      (u.blocked = false → u.grp.phase = .running → u.grp.handler = s.grp.handler → ∀ r ∈ s.destinations lane i, ∀ pc : Word,
        (r, pc) ∈ (s.issuedTo lane i u).grp.producers → pc = if lane then (match s.grp.splits[s.spl] with | some p => p.lpc | none => 0) else s.grp.spc)) ∧
    (∀ (a : Act) (unit : Bool), let e := s.settle a unit
      (s.blocked = true → e = { s with stalled := e.stalled }) ∧
      (s.blocked = false → (∀ i, a = .event i → (∀ m h, i ≠ .asyncTrapDelivery m h ∧ i ≠ .waitaMonitorSatisfied m h) → (∀ x b c, i ≠ .replyRetry x b c) → (∀ x b c, i ≠ .replyFail x b c) → e = { s with stalled := [] }) ∧
        ((∀ i, a ≠ .event i) → (∀ o, a ≠ .outer o) → (∀ c q lane ready, a ≠ .slot c q lane ready) → s.core.promoted = [] → s.team.waitSince = none → s.team.reqs = [] →
          ∃ m : State, m = { s.modGrp (fun x => { x with lastIssue := m.grp.lastIssue, guessed := m.grp.guessed }) with stalled := [], cores := m.cores } ∧
            (∀ c : CoreIx, m.cores[c] = { s.cores[c] with held := m.cores[c].held, resolving := m.cores[c].resolving }) ∧
            e = if s.grp.stepping = true ∧ unit = true ∧ s.grp.chain = none ∧ s.midWord = false ∧ s.grp.phase = .running then
                  (m.modGrp fun x => { x with stepping := false }).takeTrap (m.record 0x052) m.grp.spc 0xFFFFFFFF none
                else m)))

/-- Words that the spec writes out (R28 spec/02, R59-R71 spec/03, R172-R185 spec/09, R196-R209 spec/10, R114 spec/06, R153 spec/08) decode to the
instructions that they stand for. -/
def Obligations.DecodedWords : Prop :=
  decodeScalar 0x30500345 = .ok (.saddi 20 0 0x345) ∧ decodeScalar 0x10600C03 = .ok (.smov 24 3) ∧ decodeScalar 0x24600055 = .ok (.smad64 24 0 21) ∧
  decodeScalar 0x40605800 = .ok (.sstsD 24 22 0) ∧ decodeScalar 0x685003FB = .ok (.sloop 20 (-5)) ∧ decodeScalar 0x5EFFFFFD = .ok (.sbr 0b1011 (-3)) ∧
  decodeScalar 0x70005400 = .ok (.lwait 21) ∧ decodeScalar 0xE0000003 = .ok .gexit ∧ decodeScalar 0xA000A000 = .ok (.hclaim 40 0) ∧
  decodeScalar 0xACB00000 = .ok (.hdrain 44 0) ∧ decodeScalar 0x885C5003 = .ok (.cstat 23 20) ∧ decodeScalar 0xBC501400 = .ok (.tshape 20 5) ∧
  decodeLane 0x20DC02001008038200000000 = .ok (.ffma { guard := 7, hold := false, nowb := false, dlat := 0, dst := 8, srcA := 1, srcB := 2, srcC := 3, type := 8, sub := 2, imm := 0 }) ∧
  decodeLane 0x004A41406C00001000000064 = .ok (.vadd { guard := 2, hold := true, nowb := false, dlat := 1, dst := 5, srcA := 6, srcB := 0x300, srcC := 0, type := 1, sub := 0, imm := 100 }) ∧
  decodeLane 0x601C01002000000000000010 = .ok (.lds { guard := 7, hold := false, nowb := false, dlat := 0, dst := 4, srcA := 2, srcB := 0, srcC := 0, type := 0, sub := 0, imm := 16 })

/-- The encoding tables R23, R28, R29, R35 and R36 (spec/02), read in both directions: a well-formed instruction that has a word encodes to one that decodes to it, and
a word that decodes stands for a well-formed instruction whose encoding it is. So no two words stand for one instruction, and no operand bit is lost. -/
def Obligations.EncodingRoundTrips : Prop :=
  (∀ (i : Instr) (w : Word), WellFormed.wf i = true → encode i = some (.scalar w) → decodeScalar w = .ok i) ∧
  (∀ (i : Instr) (w : BitVec 96), WellFormed.wf i = true → encode i = some (.lane w) → decodeLane w = .ok i) ∧
  (∀ (i : Instr) (w : Word), decodeScalar w = .ok i → WellFormed.wf i = true ∧ encode i = some (.scalar w)) ∧
  (∀ (i : Instr) (w : BitVec 96), decodeLane w = .ok i → WellFormed.wf i = true ∧ encode i = some (.lane w))

/-- The model's canonical form of memory (notes/assumptions/2.md): device memory, host memory, the peers' memory and every scratchpad and tile list their bytes in
strictly rising order and list no zero. Every step keeps it. -/
def Obligations.StoresStayCanonical : Prop :=
  ∀ s t : State, stores s = true → step s = .next t → stores t = true

/-- What device reset leaves: R150 (spec/08), R143 (spec/07), R349 (spec/17), R299 and R311 (spec/15), R362, R365, R367, R369 (spec/18) and R351 (spec/17); and the
canonical form of memory holds there.
Model's choices in it: notes/assumptions 1, 2. -/
def Obligations.ResetState : Prop :=
  let s := State.reset
  stores s = true ∧
  (∀ c : CoreIx, s.cores[c].ways = 2 ∧ s.cores[c].guidon = [] ∧ ∀ e : Fin 16, s.cores[c].cnt[e] = 0) ∧
  (∀ k : Fin 4096, s.counters[k] = { count := 0, target := 1, parent := 0xFFFF, level := 0, act := 0, msix := 0, pen := 0, waddr := 0, wval := 0, status := 1, scope := 4,
                                     retired := 0, done := 0, worst := 1 }) ∧
  (∀ d : DieIx, s.dies[d].ccyc = 0 ∧ s.dies[d].ncyc = 0) ∧
  (∀ k : Fin 8, s.mgmt.meas[k] = 0) ∧ s.mgmt.ready0 = 0 ∧ s.mgmt.ready1 = 0 ∧ s.mgmt.service = 0 ∧
  (∀ p : Fin 16, s.parts[p].st = 0 ∧ s.parts[p].sealed = false) ∧
  (∀ c : CtxIx, s.ctxs[c].dsen = false ∧ s.ctxs[c].stepOn = false ∧ s.ctxs[c].valid = false) ∧
  (∀ q : QueueIx, s.queues[q].state = 0) ∧ (∀ k : TeamIx, s.teams[k].live = false)

/-- R181 (spec/09): a hash word on lanes of several keys takes one step for each key, in any order, and other words may come between two steps. Stated for HPRB: its own first turn steps the
key with the lowest lane and writes no result; each later turn steps one of the keys left, the first or another, and changes nothing else; the last one writes the
status and the value of every lane, and the split goes on.
Model's choices in it: notes/assumptions 38. -/
def Obligations.HashWordsRunKeyByKey : Prop :=
  (∀ (s : State) (w : LaneWord) (p : Split) (h : HashTab), inHand s p → w.hold = false → (∀ c, s.grp.chain = some c → ∀ r ∈ hashWrites w h, r ∉ c.reads) →
     s.team.table (w.imm.toNat / 4096 % 4) = some h → h.dstate = false → hashOdd w h .prb = false → s.team.spadPoison = [] →
     (opened s p).sourceErr p 0x1C1 w = none →
     let q := (opened s p).hashPlan w h .prb (lanesOf s p w)
     2 ≤ q.left.length → ∃ t c, exec (.hprb w) s = .next t ∧ storesNothing s t ∧ t.grp.vregs = s.grp.vregs ∧ t.grp.preds = s.grp.preds ∧
       t.grp.splits = s.grp.splits ∧ t.grp.chain = some c ∧ c.split = s.spl ∧
       ∃ q1, c.hash = some q1 ∧ q1.left = q.left.drop 1 ∧ q1.word = w ∧ q1.kind = .prb ∧ q1.lanes = q.lanes) ∧
  (∀ (s : State) (w : LaneWord) (p : Split) (h : HashTab) (c : Chain) (q : HashProg) (key v : Nat) (ls : List (Fin 64)) (n : Nat),
     s.grp.splits[s.spl] = some p → s.grp.chain = some c → c.split = s.spl → c.hash = some q → q.word = w → q.kind = .prb → q.left[n]? = some (key, v, ls) →
     w.hold = false → s.grp.parked = [] → s.team.spadPoison = [] → s.team.claimed (w.imm.toNat / 4096 % 4) = some h →
     let rest := q.left.eraseIdx n
     let given : Nat × Nat := match (s.team.lookup h key).found with
       | some a => (1, padNum s (a + h.valAt) h.valBytes)
       | none => (if h.spilled = 0 then 2 else 3, 0)
     let res := q.res ++ ls.map fun l => (l, given)
     (n = 0 → exec (.hprb w) s = s.hashWordAt n 0x1C1 .prb w) ∧
     (rest ≠ [] → ∃ t reads, s.hashWordAt n 0x1C1 .prb w = .next t ∧ groupOnly s t ∧
       t.grp = { s.grp with chain := some { c with hash := some { q with left := rest, res := res, reads := reads } } }) ∧
     (rest = [] → q.writes = [] → ∃ t, s.hashWordAt n 0x1C1 .prb w = .next t ∧ storesNothing s t ∧ t.grp.chain = none ∧
       t.grp.splits = s.grp.splits.set s.spl (some { p with lpc := p.lpc + 1, atBar := none }) ∧
       ∀ l : Fin 64, q.lanes.getLsbD l.val = true →
         t.grp.vregs[(w.imm.extractLsb' 0 8).toNat][l] = BitVec.ofNat 32 ((res.lookup l).getD (0, 0)).1 ∧
         (w.nowb = false → w.imm.extractLsb' 0 8 ≠ w.dst → t.grp.vregs[w.dst.toNat][l] = BitVec.ofNat 32 ((res.lookup l).getD (0, 0)).2)))
end

