-- ==== Sys2Proof/Laws/State.lean ====
section
/-! SUPPORT. What each update of the state leaves alone, one lemma per field and update, and what the stream in hand reads after one. -/

namespace Sys2Proof.Machine

@[simp] theorem State.setTeam_cur (s : State) (t : Team) : (s.setTeam t).cur = s.cur := rfl
@[simp] theorem State.setTeam_gix (s : State) (t : Team) : (s.setTeam t).gix = s.gix := rfl
@[simp] theorem State.setTeam_spl (s : State) (t : Team) : (s.setTeam t).spl = s.spl := rfl
@[simp] theorem State.setTeam_sched (s : State) (t : Team) : (s.setTeam t).sched = s.sched := rfl
@[simp] theorem State.setTeam_tick (s : State) (t : Team) : (s.setTeam t).tick = s.tick := rfl
@[simp] theorem State.setTeam_blocked (s : State) (t : Team) : (s.setTeam t).blocked = s.blocked := rfl
@[simp] theorem State.setTeam_stalled (s : State) (t : Team) : (s.setTeam t).stalled = s.stalled := rfl
@[simp] theorem State.setTeam_halted (s : State) (t : Team) : (s.setTeam t).halted = s.halted := rfl
@[simp] theorem State.setTeam_reft (s : State) (t : Team) : (s.setTeam t).reft = s.reft := rfl
@[simp] theorem State.setTeam_cores (s : State) (t : Team) : (s.setTeam t).cores = s.cores := rfl
@[simp] theorem State.setTeam_clusters (s : State) (t : Team) : (s.setTeam t).clusters = s.clusters := rfl
@[simp] theorem State.setTeam_dies (s : State) (t : Team) : (s.setTeam t).dies = s.dies := rfl
@[simp] theorem State.setTeam_queues (s : State) (t : Team) : (s.setTeam t).queues = s.queues := rfl
@[simp] theorem State.setTeam_counters (s : State) (t : Team) : (s.setTeam t).counters = s.counters := rfl
@[simp] theorem State.setTeam_pennants (s : State) (t : Team) : (s.setTeam t).pennants = s.pennants := rfl
@[simp] theorem State.setTeam_slots (s : State) (t : Team) : (s.setTeam t).slots = s.slots := rfl
@[simp] theorem State.setTeam_ctxs (s : State) (t : Team) : (s.setTeam t).ctxs = s.ctxs := rfl
@[simp] theorem State.setTeam_parts (s : State) (t : Team) : (s.setTeam t).parts = s.parts := rfl
@[simp] theorem State.setTeam_mgmt (s : State) (t : Team) : (s.setTeam t).mgmt = s.mgmt := rfl
@[simp] theorem State.setTeam_monitors (s : State) (t : Team) : (s.setTeam t).monitors = s.monitors := rfl
@[simp] theorem State.setTeam_pacqs (s : State) (t : Team) : (s.setTeam t).pacqs = s.pacqs := rfl
@[simp] theorem State.setTeam_homeRed (s : State) (t : Team) : (s.setTeam t).homeRed = s.homeRed := rfl
@[simp] theorem State.setTeam_lines (s : State) (t : Team) : (s.setTeam t).lines = s.lines := rfl
@[simp] theorem State.setTeam_uses (s : State) (t : Team) : (s.setTeam t).uses = s.uses := rfl
@[simp] theorem State.setTeam_completing (s : State) (t : Team) : (s.setTeam t).completing = s.completing := rfl
@[simp] theorem State.setTeam_slew (s : State) (t : Team) : (s.setTeam t).slew = s.slew := rfl
@[simp] theorem State.setTeam_outgoing (s : State) (t : Team) : (s.setTeam t).outgoing = s.outgoing := rfl
@[simp] theorem State.setTeam_launches (s : State) (t : Team) : (s.setTeam t).launches = s.launches := rfl
@[simp] theorem State.setTeam_graphs (s : State) (t : Team) : (s.setTeam t).graphs = s.graphs := rfl
@[simp] theorem State.setTeam_readyNodes (s : State) (t : Team) : (s.setTeam t).readyNodes = s.readyNodes := rfl
@[simp] theorem State.setTeam_saved (s : State) (t : Team) : (s.setTeam t).saved = s.saved := rfl
@[simp] theorem State.setTeam_nextId (s : State) (t : Team) : (s.setTeam t).nextId = s.nextId := rfl
@[simp] theorem State.setTeam_nextLid (s : State) (t : Team) : (s.setTeam t).nextLid = s.nextLid := rfl
@[simp] theorem State.setTeam_mem (s : State) (t : Team) : (s.setTeam t).mem = s.mem := rfl
@[simp] theorem State.setTeam_memPoison (s : State) (t : Team) : (s.setTeam t).memPoison = s.memPoison := rfl
@[simp] theorem State.setTeam_hostMem (s : State) (t : Team) : (s.setTeam t).hostMem = s.hostMem := rfl
@[simp] theorem State.setTeam_peerMem (s : State) (t : Team) : (s.setTeam t).peerMem = s.peerMem := rfl

@[simp] theorem State.modTeam_cur (s : State) (f : Team → Team) : (s.modTeam f).cur = s.cur := rfl
@[simp] theorem State.modTeam_gix (s : State) (f : Team → Team) : (s.modTeam f).gix = s.gix := rfl
@[simp] theorem State.modTeam_spl (s : State) (f : Team → Team) : (s.modTeam f).spl = s.spl := rfl
@[simp] theorem State.modTeam_sched (s : State) (f : Team → Team) : (s.modTeam f).sched = s.sched := rfl
@[simp] theorem State.modTeam_tick (s : State) (f : Team → Team) : (s.modTeam f).tick = s.tick := rfl
@[simp] theorem State.modTeam_blocked (s : State) (f : Team → Team) : (s.modTeam f).blocked = s.blocked := rfl
@[simp] theorem State.modTeam_stalled (s : State) (f : Team → Team) : (s.modTeam f).stalled = s.stalled := rfl
@[simp] theorem State.modTeam_halted (s : State) (f : Team → Team) : (s.modTeam f).halted = s.halted := rfl
@[simp] theorem State.modTeam_reft (s : State) (f : Team → Team) : (s.modTeam f).reft = s.reft := rfl
@[simp] theorem State.modTeam_cores (s : State) (f : Team → Team) : (s.modTeam f).cores = s.cores := rfl
@[simp] theorem State.modTeam_clusters (s : State) (f : Team → Team) : (s.modTeam f).clusters = s.clusters := rfl
@[simp] theorem State.modTeam_dies (s : State) (f : Team → Team) : (s.modTeam f).dies = s.dies := rfl
@[simp] theorem State.modTeam_queues (s : State) (f : Team → Team) : (s.modTeam f).queues = s.queues := rfl
@[simp] theorem State.modTeam_counters (s : State) (f : Team → Team) : (s.modTeam f).counters = s.counters := rfl
@[simp] theorem State.modTeam_pennants (s : State) (f : Team → Team) : (s.modTeam f).pennants = s.pennants := rfl
@[simp] theorem State.modTeam_slots (s : State) (f : Team → Team) : (s.modTeam f).slots = s.slots := rfl
@[simp] theorem State.modTeam_ctxs (s : State) (f : Team → Team) : (s.modTeam f).ctxs = s.ctxs := rfl
@[simp] theorem State.modTeam_parts (s : State) (f : Team → Team) : (s.modTeam f).parts = s.parts := rfl
@[simp] theorem State.modTeam_mgmt (s : State) (f : Team → Team) : (s.modTeam f).mgmt = s.mgmt := rfl
@[simp] theorem State.modTeam_monitors (s : State) (f : Team → Team) : (s.modTeam f).monitors = s.monitors := rfl
@[simp] theorem State.modTeam_pacqs (s : State) (f : Team → Team) : (s.modTeam f).pacqs = s.pacqs := rfl
@[simp] theorem State.modTeam_homeRed (s : State) (f : Team → Team) : (s.modTeam f).homeRed = s.homeRed := rfl
@[simp] theorem State.modTeam_lines (s : State) (f : Team → Team) : (s.modTeam f).lines = s.lines := rfl
@[simp] theorem State.modTeam_uses (s : State) (f : Team → Team) : (s.modTeam f).uses = s.uses := rfl
@[simp] theorem State.modTeam_completing (s : State) (f : Team → Team) : (s.modTeam f).completing = s.completing := rfl
@[simp] theorem State.modTeam_slew (s : State) (f : Team → Team) : (s.modTeam f).slew = s.slew := rfl
@[simp] theorem State.modTeam_outgoing (s : State) (f : Team → Team) : (s.modTeam f).outgoing = s.outgoing := rfl
@[simp] theorem State.modTeam_launches (s : State) (f : Team → Team) : (s.modTeam f).launches = s.launches := rfl
@[simp] theorem State.modTeam_graphs (s : State) (f : Team → Team) : (s.modTeam f).graphs = s.graphs := rfl
@[simp] theorem State.modTeam_readyNodes (s : State) (f : Team → Team) : (s.modTeam f).readyNodes = s.readyNodes := rfl
@[simp] theorem State.modTeam_saved (s : State) (f : Team → Team) : (s.modTeam f).saved = s.saved := rfl
@[simp] theorem State.modTeam_nextId (s : State) (f : Team → Team) : (s.modTeam f).nextId = s.nextId := rfl
@[simp] theorem State.modTeam_nextLid (s : State) (f : Team → Team) : (s.modTeam f).nextLid = s.nextLid := rfl
@[simp] theorem State.modTeam_mem (s : State) (f : Team → Team) : (s.modTeam f).mem = s.mem := rfl
@[simp] theorem State.modTeam_memPoison (s : State) (f : Team → Team) : (s.modTeam f).memPoison = s.memPoison := rfl
@[simp] theorem State.modTeam_hostMem (s : State) (f : Team → Team) : (s.modTeam f).hostMem = s.hostMem := rfl
@[simp] theorem State.modTeam_peerMem (s : State) (f : Team → Team) : (s.modTeam f).peerMem = s.peerMem := rfl

@[simp] theorem State.setGrp_cur (s : State) (g : Group) : (s.setGrp g).cur = s.cur := rfl
@[simp] theorem State.setGrp_gix (s : State) (g : Group) : (s.setGrp g).gix = s.gix := rfl
@[simp] theorem State.setGrp_spl (s : State) (g : Group) : (s.setGrp g).spl = s.spl := rfl
@[simp] theorem State.setGrp_sched (s : State) (g : Group) : (s.setGrp g).sched = s.sched := rfl
@[simp] theorem State.setGrp_tick (s : State) (g : Group) : (s.setGrp g).tick = s.tick := rfl
@[simp] theorem State.setGrp_blocked (s : State) (g : Group) : (s.setGrp g).blocked = s.blocked := rfl
@[simp] theorem State.setGrp_stalled (s : State) (g : Group) : (s.setGrp g).stalled = s.stalled := rfl
@[simp] theorem State.setGrp_halted (s : State) (g : Group) : (s.setGrp g).halted = s.halted := rfl
@[simp] theorem State.setGrp_reft (s : State) (g : Group) : (s.setGrp g).reft = s.reft := rfl
@[simp] theorem State.setGrp_cores (s : State) (g : Group) : (s.setGrp g).cores = s.cores := rfl
@[simp] theorem State.setGrp_clusters (s : State) (g : Group) : (s.setGrp g).clusters = s.clusters := rfl
@[simp] theorem State.setGrp_dies (s : State) (g : Group) : (s.setGrp g).dies = s.dies := rfl
@[simp] theorem State.setGrp_queues (s : State) (g : Group) : (s.setGrp g).queues = s.queues := rfl
@[simp] theorem State.setGrp_counters (s : State) (g : Group) : (s.setGrp g).counters = s.counters := rfl
@[simp] theorem State.setGrp_pennants (s : State) (g : Group) : (s.setGrp g).pennants = s.pennants := rfl
@[simp] theorem State.setGrp_slots (s : State) (g : Group) : (s.setGrp g).slots = s.slots := rfl
@[simp] theorem State.setGrp_ctxs (s : State) (g : Group) : (s.setGrp g).ctxs = s.ctxs := rfl
@[simp] theorem State.setGrp_parts (s : State) (g : Group) : (s.setGrp g).parts = s.parts := rfl
@[simp] theorem State.setGrp_mgmt (s : State) (g : Group) : (s.setGrp g).mgmt = s.mgmt := rfl
@[simp] theorem State.setGrp_monitors (s : State) (g : Group) : (s.setGrp g).monitors = s.monitors := rfl
@[simp] theorem State.setGrp_pacqs (s : State) (g : Group) : (s.setGrp g).pacqs = s.pacqs := rfl
@[simp] theorem State.setGrp_homeRed (s : State) (g : Group) : (s.setGrp g).homeRed = s.homeRed := rfl
@[simp] theorem State.setGrp_lines (s : State) (g : Group) : (s.setGrp g).lines = s.lines := rfl
@[simp] theorem State.setGrp_uses (s : State) (g : Group) : (s.setGrp g).uses = s.uses := rfl
@[simp] theorem State.setGrp_completing (s : State) (g : Group) : (s.setGrp g).completing = s.completing := rfl
@[simp] theorem State.setGrp_slew (s : State) (g : Group) : (s.setGrp g).slew = s.slew := rfl
@[simp] theorem State.setGrp_outgoing (s : State) (g : Group) : (s.setGrp g).outgoing = s.outgoing := rfl
@[simp] theorem State.setGrp_launches (s : State) (g : Group) : (s.setGrp g).launches = s.launches := rfl
@[simp] theorem State.setGrp_graphs (s : State) (g : Group) : (s.setGrp g).graphs = s.graphs := rfl
@[simp] theorem State.setGrp_readyNodes (s : State) (g : Group) : (s.setGrp g).readyNodes = s.readyNodes := rfl
@[simp] theorem State.setGrp_saved (s : State) (g : Group) : (s.setGrp g).saved = s.saved := rfl
@[simp] theorem State.setGrp_nextId (s : State) (g : Group) : (s.setGrp g).nextId = s.nextId := rfl
@[simp] theorem State.setGrp_nextLid (s : State) (g : Group) : (s.setGrp g).nextLid = s.nextLid := rfl
@[simp] theorem State.setGrp_mem (s : State) (g : Group) : (s.setGrp g).mem = s.mem := rfl
@[simp] theorem State.setGrp_memPoison (s : State) (g : Group) : (s.setGrp g).memPoison = s.memPoison := rfl
@[simp] theorem State.setGrp_hostMem (s : State) (g : Group) : (s.setGrp g).hostMem = s.hostMem := rfl
@[simp] theorem State.setGrp_peerMem (s : State) (g : Group) : (s.setGrp g).peerMem = s.peerMem := rfl

@[simp] theorem State.modGrp_cur (s : State) (f : Group → Group) : (s.modGrp f).cur = s.cur := rfl
@[simp] theorem State.modGrp_gix (s : State) (f : Group → Group) : (s.modGrp f).gix = s.gix := rfl
@[simp] theorem State.modGrp_spl (s : State) (f : Group → Group) : (s.modGrp f).spl = s.spl := rfl
@[simp] theorem State.modGrp_sched (s : State) (f : Group → Group) : (s.modGrp f).sched = s.sched := rfl
@[simp] theorem State.modGrp_tick (s : State) (f : Group → Group) : (s.modGrp f).tick = s.tick := rfl
@[simp] theorem State.modGrp_blocked (s : State) (f : Group → Group) : (s.modGrp f).blocked = s.blocked := rfl
@[simp] theorem State.modGrp_stalled (s : State) (f : Group → Group) : (s.modGrp f).stalled = s.stalled := rfl
@[simp] theorem State.modGrp_halted (s : State) (f : Group → Group) : (s.modGrp f).halted = s.halted := rfl
@[simp] theorem State.modGrp_reft (s : State) (f : Group → Group) : (s.modGrp f).reft = s.reft := rfl
@[simp] theorem State.modGrp_cores (s : State) (f : Group → Group) : (s.modGrp f).cores = s.cores := rfl
@[simp] theorem State.modGrp_clusters (s : State) (f : Group → Group) : (s.modGrp f).clusters = s.clusters := rfl
@[simp] theorem State.modGrp_dies (s : State) (f : Group → Group) : (s.modGrp f).dies = s.dies := rfl
@[simp] theorem State.modGrp_queues (s : State) (f : Group → Group) : (s.modGrp f).queues = s.queues := rfl
@[simp] theorem State.modGrp_counters (s : State) (f : Group → Group) : (s.modGrp f).counters = s.counters := rfl
@[simp] theorem State.modGrp_pennants (s : State) (f : Group → Group) : (s.modGrp f).pennants = s.pennants := rfl
@[simp] theorem State.modGrp_slots (s : State) (f : Group → Group) : (s.modGrp f).slots = s.slots := rfl
@[simp] theorem State.modGrp_ctxs (s : State) (f : Group → Group) : (s.modGrp f).ctxs = s.ctxs := rfl
@[simp] theorem State.modGrp_parts (s : State) (f : Group → Group) : (s.modGrp f).parts = s.parts := rfl
@[simp] theorem State.modGrp_mgmt (s : State) (f : Group → Group) : (s.modGrp f).mgmt = s.mgmt := rfl
@[simp] theorem State.modGrp_monitors (s : State) (f : Group → Group) : (s.modGrp f).monitors = s.monitors := rfl
@[simp] theorem State.modGrp_pacqs (s : State) (f : Group → Group) : (s.modGrp f).pacqs = s.pacqs := rfl
@[simp] theorem State.modGrp_homeRed (s : State) (f : Group → Group) : (s.modGrp f).homeRed = s.homeRed := rfl
@[simp] theorem State.modGrp_lines (s : State) (f : Group → Group) : (s.modGrp f).lines = s.lines := rfl
@[simp] theorem State.modGrp_uses (s : State) (f : Group → Group) : (s.modGrp f).uses = s.uses := rfl
@[simp] theorem State.modGrp_completing (s : State) (f : Group → Group) : (s.modGrp f).completing = s.completing := rfl
@[simp] theorem State.modGrp_slew (s : State) (f : Group → Group) : (s.modGrp f).slew = s.slew := rfl
@[simp] theorem State.modGrp_outgoing (s : State) (f : Group → Group) : (s.modGrp f).outgoing = s.outgoing := rfl
@[simp] theorem State.modGrp_launches (s : State) (f : Group → Group) : (s.modGrp f).launches = s.launches := rfl
@[simp] theorem State.modGrp_graphs (s : State) (f : Group → Group) : (s.modGrp f).graphs = s.graphs := rfl
@[simp] theorem State.modGrp_readyNodes (s : State) (f : Group → Group) : (s.modGrp f).readyNodes = s.readyNodes := rfl
@[simp] theorem State.modGrp_saved (s : State) (f : Group → Group) : (s.modGrp f).saved = s.saved := rfl
@[simp] theorem State.modGrp_nextId (s : State) (f : Group → Group) : (s.modGrp f).nextId = s.nextId := rfl
@[simp] theorem State.modGrp_nextLid (s : State) (f : Group → Group) : (s.modGrp f).nextLid = s.nextLid := rfl
@[simp] theorem State.modGrp_mem (s : State) (f : Group → Group) : (s.modGrp f).mem = s.mem := rfl
@[simp] theorem State.modGrp_memPoison (s : State) (f : Group → Group) : (s.modGrp f).memPoison = s.memPoison := rfl
@[simp] theorem State.modGrp_hostMem (s : State) (f : Group → Group) : (s.modGrp f).hostMem = s.hostMem := rfl
@[simp] theorem State.modGrp_peerMem (s : State) (f : Group → Group) : (s.modGrp f).peerMem = s.peerMem := rfl

@[simp] theorem State.modCore_cur (s : State) (c : CoreIx) (f : CoreSt → CoreSt) : (s.modCore c f).cur = s.cur := rfl
@[simp] theorem State.modCore_gix (s : State) (c : CoreIx) (f : CoreSt → CoreSt) : (s.modCore c f).gix = s.gix := rfl
@[simp] theorem State.modCore_spl (s : State) (c : CoreIx) (f : CoreSt → CoreSt) : (s.modCore c f).spl = s.spl := rfl
@[simp] theorem State.modCore_sched (s : State) (c : CoreIx) (f : CoreSt → CoreSt) : (s.modCore c f).sched = s.sched := rfl
@[simp] theorem State.modCore_tick (s : State) (c : CoreIx) (f : CoreSt → CoreSt) : (s.modCore c f).tick = s.tick := rfl
@[simp] theorem State.modCore_blocked (s : State) (c : CoreIx) (f : CoreSt → CoreSt) : (s.modCore c f).blocked = s.blocked := rfl
@[simp] theorem State.modCore_stalled (s : State) (c : CoreIx) (f : CoreSt → CoreSt) : (s.modCore c f).stalled = s.stalled := rfl
@[simp] theorem State.modCore_halted (s : State) (c : CoreIx) (f : CoreSt → CoreSt) : (s.modCore c f).halted = s.halted := rfl
@[simp] theorem State.modCore_reft (s : State) (c : CoreIx) (f : CoreSt → CoreSt) : (s.modCore c f).reft = s.reft := rfl
@[simp] theorem State.modCore_teams (s : State) (c : CoreIx) (f : CoreSt → CoreSt) : (s.modCore c f).teams = s.teams := rfl
@[simp] theorem State.modCore_clusters (s : State) (c : CoreIx) (f : CoreSt → CoreSt) : (s.modCore c f).clusters = s.clusters := rfl
@[simp] theorem State.modCore_dies (s : State) (c : CoreIx) (f : CoreSt → CoreSt) : (s.modCore c f).dies = s.dies := rfl
@[simp] theorem State.modCore_queues (s : State) (c : CoreIx) (f : CoreSt → CoreSt) : (s.modCore c f).queues = s.queues := rfl
@[simp] theorem State.modCore_counters (s : State) (c : CoreIx) (f : CoreSt → CoreSt) : (s.modCore c f).counters = s.counters := rfl
@[simp] theorem State.modCore_pennants (s : State) (c : CoreIx) (f : CoreSt → CoreSt) : (s.modCore c f).pennants = s.pennants := rfl
@[simp] theorem State.modCore_slots (s : State) (c : CoreIx) (f : CoreSt → CoreSt) : (s.modCore c f).slots = s.slots := rfl
@[simp] theorem State.modCore_ctxs (s : State) (c : CoreIx) (f : CoreSt → CoreSt) : (s.modCore c f).ctxs = s.ctxs := rfl
@[simp] theorem State.modCore_parts (s : State) (c : CoreIx) (f : CoreSt → CoreSt) : (s.modCore c f).parts = s.parts := rfl
@[simp] theorem State.modCore_mgmt (s : State) (c : CoreIx) (f : CoreSt → CoreSt) : (s.modCore c f).mgmt = s.mgmt := rfl
@[simp] theorem State.modCore_monitors (s : State) (c : CoreIx) (f : CoreSt → CoreSt) : (s.modCore c f).monitors = s.monitors := rfl
@[simp] theorem State.modCore_pacqs (s : State) (c : CoreIx) (f : CoreSt → CoreSt) : (s.modCore c f).pacqs = s.pacqs := rfl
@[simp] theorem State.modCore_homeRed (s : State) (c : CoreIx) (f : CoreSt → CoreSt) : (s.modCore c f).homeRed = s.homeRed := rfl
@[simp] theorem State.modCore_lines (s : State) (c : CoreIx) (f : CoreSt → CoreSt) : (s.modCore c f).lines = s.lines := rfl
@[simp] theorem State.modCore_uses (s : State) (c : CoreIx) (f : CoreSt → CoreSt) : (s.modCore c f).uses = s.uses := rfl
@[simp] theorem State.modCore_completing (s : State) (c : CoreIx) (f : CoreSt → CoreSt) : (s.modCore c f).completing = s.completing := rfl
@[simp] theorem State.modCore_slew (s : State) (c : CoreIx) (f : CoreSt → CoreSt) : (s.modCore c f).slew = s.slew := rfl
@[simp] theorem State.modCore_outgoing (s : State) (c : CoreIx) (f : CoreSt → CoreSt) : (s.modCore c f).outgoing = s.outgoing := rfl
@[simp] theorem State.modCore_launches (s : State) (c : CoreIx) (f : CoreSt → CoreSt) : (s.modCore c f).launches = s.launches := rfl
@[simp] theorem State.modCore_graphs (s : State) (c : CoreIx) (f : CoreSt → CoreSt) : (s.modCore c f).graphs = s.graphs := rfl
@[simp] theorem State.modCore_readyNodes (s : State) (c : CoreIx) (f : CoreSt → CoreSt) : (s.modCore c f).readyNodes = s.readyNodes := rfl
@[simp] theorem State.modCore_saved (s : State) (c : CoreIx) (f : CoreSt → CoreSt) : (s.modCore c f).saved = s.saved := rfl
@[simp] theorem State.modCore_nextId (s : State) (c : CoreIx) (f : CoreSt → CoreSt) : (s.modCore c f).nextId = s.nextId := rfl
@[simp] theorem State.modCore_nextLid (s : State) (c : CoreIx) (f : CoreSt → CoreSt) : (s.modCore c f).nextLid = s.nextLid := rfl
@[simp] theorem State.modCore_mem (s : State) (c : CoreIx) (f : CoreSt → CoreSt) : (s.modCore c f).mem = s.mem := rfl
@[simp] theorem State.modCore_memPoison (s : State) (c : CoreIx) (f : CoreSt → CoreSt) : (s.modCore c f).memPoison = s.memPoison := rfl
@[simp] theorem State.modCore_hostMem (s : State) (c : CoreIx) (f : CoreSt → CoreSt) : (s.modCore c f).hostMem = s.hostMem := rfl
@[simp] theorem State.modCore_peerMem (s : State) (c : CoreIx) (f : CoreSt → CoreSt) : (s.modCore c f).peerMem = s.peerMem := rfl

@[simp] theorem State.modDie_cur (s : State) (d : DieIx) (f : DieSt → DieSt) : (s.modDie d f).cur = s.cur := rfl
@[simp] theorem State.modDie_gix (s : State) (d : DieIx) (f : DieSt → DieSt) : (s.modDie d f).gix = s.gix := rfl
@[simp] theorem State.modDie_spl (s : State) (d : DieIx) (f : DieSt → DieSt) : (s.modDie d f).spl = s.spl := rfl
@[simp] theorem State.modDie_sched (s : State) (d : DieIx) (f : DieSt → DieSt) : (s.modDie d f).sched = s.sched := rfl
@[simp] theorem State.modDie_tick (s : State) (d : DieIx) (f : DieSt → DieSt) : (s.modDie d f).tick = s.tick := rfl
@[simp] theorem State.modDie_blocked (s : State) (d : DieIx) (f : DieSt → DieSt) : (s.modDie d f).blocked = s.blocked := rfl
@[simp] theorem State.modDie_stalled (s : State) (d : DieIx) (f : DieSt → DieSt) : (s.modDie d f).stalled = s.stalled := rfl
@[simp] theorem State.modDie_halted (s : State) (d : DieIx) (f : DieSt → DieSt) : (s.modDie d f).halted = s.halted := rfl
@[simp] theorem State.modDie_reft (s : State) (d : DieIx) (f : DieSt → DieSt) : (s.modDie d f).reft = s.reft := rfl
@[simp] theorem State.modDie_teams (s : State) (d : DieIx) (f : DieSt → DieSt) : (s.modDie d f).teams = s.teams := rfl
@[simp] theorem State.modDie_cores (s : State) (d : DieIx) (f : DieSt → DieSt) : (s.modDie d f).cores = s.cores := rfl
@[simp] theorem State.modDie_clusters (s : State) (d : DieIx) (f : DieSt → DieSt) : (s.modDie d f).clusters = s.clusters := rfl
@[simp] theorem State.modDie_queues (s : State) (d : DieIx) (f : DieSt → DieSt) : (s.modDie d f).queues = s.queues := rfl
@[simp] theorem State.modDie_counters (s : State) (d : DieIx) (f : DieSt → DieSt) : (s.modDie d f).counters = s.counters := rfl
@[simp] theorem State.modDie_pennants (s : State) (d : DieIx) (f : DieSt → DieSt) : (s.modDie d f).pennants = s.pennants := rfl
@[simp] theorem State.modDie_slots (s : State) (d : DieIx) (f : DieSt → DieSt) : (s.modDie d f).slots = s.slots := rfl
@[simp] theorem State.modDie_ctxs (s : State) (d : DieIx) (f : DieSt → DieSt) : (s.modDie d f).ctxs = s.ctxs := rfl
@[simp] theorem State.modDie_parts (s : State) (d : DieIx) (f : DieSt → DieSt) : (s.modDie d f).parts = s.parts := rfl
@[simp] theorem State.modDie_mgmt (s : State) (d : DieIx) (f : DieSt → DieSt) : (s.modDie d f).mgmt = s.mgmt := rfl
@[simp] theorem State.modDie_monitors (s : State) (d : DieIx) (f : DieSt → DieSt) : (s.modDie d f).monitors = s.monitors := rfl
@[simp] theorem State.modDie_pacqs (s : State) (d : DieIx) (f : DieSt → DieSt) : (s.modDie d f).pacqs = s.pacqs := rfl
@[simp] theorem State.modDie_homeRed (s : State) (d : DieIx) (f : DieSt → DieSt) : (s.modDie d f).homeRed = s.homeRed := rfl
@[simp] theorem State.modDie_lines (s : State) (d : DieIx) (f : DieSt → DieSt) : (s.modDie d f).lines = s.lines := rfl
@[simp] theorem State.modDie_uses (s : State) (d : DieIx) (f : DieSt → DieSt) : (s.modDie d f).uses = s.uses := rfl
@[simp] theorem State.modDie_completing (s : State) (d : DieIx) (f : DieSt → DieSt) : (s.modDie d f).completing = s.completing := rfl
@[simp] theorem State.modDie_slew (s : State) (d : DieIx) (f : DieSt → DieSt) : (s.modDie d f).slew = s.slew := rfl
@[simp] theorem State.modDie_outgoing (s : State) (d : DieIx) (f : DieSt → DieSt) : (s.modDie d f).outgoing = s.outgoing := rfl
@[simp] theorem State.modDie_launches (s : State) (d : DieIx) (f : DieSt → DieSt) : (s.modDie d f).launches = s.launches := rfl
@[simp] theorem State.modDie_graphs (s : State) (d : DieIx) (f : DieSt → DieSt) : (s.modDie d f).graphs = s.graphs := rfl
@[simp] theorem State.modDie_readyNodes (s : State) (d : DieIx) (f : DieSt → DieSt) : (s.modDie d f).readyNodes = s.readyNodes := rfl
@[simp] theorem State.modDie_saved (s : State) (d : DieIx) (f : DieSt → DieSt) : (s.modDie d f).saved = s.saved := rfl
@[simp] theorem State.modDie_nextId (s : State) (d : DieIx) (f : DieSt → DieSt) : (s.modDie d f).nextId = s.nextId := rfl
@[simp] theorem State.modDie_nextLid (s : State) (d : DieIx) (f : DieSt → DieSt) : (s.modDie d f).nextLid = s.nextLid := rfl
@[simp] theorem State.modDie_mem (s : State) (d : DieIx) (f : DieSt → DieSt) : (s.modDie d f).mem = s.mem := rfl
@[simp] theorem State.modDie_memPoison (s : State) (d : DieIx) (f : DieSt → DieSt) : (s.modDie d f).memPoison = s.memPoison := rfl
@[simp] theorem State.modDie_hostMem (s : State) (d : DieIx) (f : DieSt → DieSt) : (s.modDie d f).hostMem = s.hostMem := rfl
@[simp] theorem State.modDie_peerMem (s : State) (d : DieIx) (f : DieSt → DieSt) : (s.modDie d f).peerMem = s.peerMem := rfl

@[simp] theorem State.modCluster_cur (s : State) (c : Fin 40) (f : ClusterSt → ClusterSt) : (s.modCluster c f).cur = s.cur := rfl
@[simp] theorem State.modCluster_gix (s : State) (c : Fin 40) (f : ClusterSt → ClusterSt) : (s.modCluster c f).gix = s.gix := rfl
@[simp] theorem State.modCluster_spl (s : State) (c : Fin 40) (f : ClusterSt → ClusterSt) : (s.modCluster c f).spl = s.spl := rfl
@[simp] theorem State.modCluster_sched (s : State) (c : Fin 40) (f : ClusterSt → ClusterSt) : (s.modCluster c f).sched = s.sched := rfl
@[simp] theorem State.modCluster_tick (s : State) (c : Fin 40) (f : ClusterSt → ClusterSt) : (s.modCluster c f).tick = s.tick := rfl
@[simp] theorem State.modCluster_blocked (s : State) (c : Fin 40) (f : ClusterSt → ClusterSt) : (s.modCluster c f).blocked = s.blocked := rfl
@[simp] theorem State.modCluster_stalled (s : State) (c : Fin 40) (f : ClusterSt → ClusterSt) : (s.modCluster c f).stalled = s.stalled := rfl
@[simp] theorem State.modCluster_halted (s : State) (c : Fin 40) (f : ClusterSt → ClusterSt) : (s.modCluster c f).halted = s.halted := rfl
@[simp] theorem State.modCluster_reft (s : State) (c : Fin 40) (f : ClusterSt → ClusterSt) : (s.modCluster c f).reft = s.reft := rfl
@[simp] theorem State.modCluster_teams (s : State) (c : Fin 40) (f : ClusterSt → ClusterSt) : (s.modCluster c f).teams = s.teams := rfl
@[simp] theorem State.modCluster_cores (s : State) (c : Fin 40) (f : ClusterSt → ClusterSt) : (s.modCluster c f).cores = s.cores := rfl
@[simp] theorem State.modCluster_dies (s : State) (c : Fin 40) (f : ClusterSt → ClusterSt) : (s.modCluster c f).dies = s.dies := rfl
@[simp] theorem State.modCluster_queues (s : State) (c : Fin 40) (f : ClusterSt → ClusterSt) : (s.modCluster c f).queues = s.queues := rfl
@[simp] theorem State.modCluster_counters (s : State) (c : Fin 40) (f : ClusterSt → ClusterSt) : (s.modCluster c f).counters = s.counters := rfl
@[simp] theorem State.modCluster_pennants (s : State) (c : Fin 40) (f : ClusterSt → ClusterSt) : (s.modCluster c f).pennants = s.pennants := rfl
@[simp] theorem State.modCluster_slots (s : State) (c : Fin 40) (f : ClusterSt → ClusterSt) : (s.modCluster c f).slots = s.slots := rfl
@[simp] theorem State.modCluster_ctxs (s : State) (c : Fin 40) (f : ClusterSt → ClusterSt) : (s.modCluster c f).ctxs = s.ctxs := rfl
@[simp] theorem State.modCluster_parts (s : State) (c : Fin 40) (f : ClusterSt → ClusterSt) : (s.modCluster c f).parts = s.parts := rfl
@[simp] theorem State.modCluster_mgmt (s : State) (c : Fin 40) (f : ClusterSt → ClusterSt) : (s.modCluster c f).mgmt = s.mgmt := rfl
@[simp] theorem State.modCluster_monitors (s : State) (c : Fin 40) (f : ClusterSt → ClusterSt) : (s.modCluster c f).monitors = s.monitors := rfl
@[simp] theorem State.modCluster_pacqs (s : State) (c : Fin 40) (f : ClusterSt → ClusterSt) : (s.modCluster c f).pacqs = s.pacqs := rfl
@[simp] theorem State.modCluster_homeRed (s : State) (c : Fin 40) (f : ClusterSt → ClusterSt) : (s.modCluster c f).homeRed = s.homeRed := rfl
@[simp] theorem State.modCluster_lines (s : State) (c : Fin 40) (f : ClusterSt → ClusterSt) : (s.modCluster c f).lines = s.lines := rfl
@[simp] theorem State.modCluster_uses (s : State) (c : Fin 40) (f : ClusterSt → ClusterSt) : (s.modCluster c f).uses = s.uses := rfl
@[simp] theorem State.modCluster_completing (s : State) (c : Fin 40) (f : ClusterSt → ClusterSt) : (s.modCluster c f).completing = s.completing := rfl
@[simp] theorem State.modCluster_slew (s : State) (c : Fin 40) (f : ClusterSt → ClusterSt) : (s.modCluster c f).slew = s.slew := rfl
@[simp] theorem State.modCluster_outgoing (s : State) (c : Fin 40) (f : ClusterSt → ClusterSt) : (s.modCluster c f).outgoing = s.outgoing := rfl
@[simp] theorem State.modCluster_launches (s : State) (c : Fin 40) (f : ClusterSt → ClusterSt) : (s.modCluster c f).launches = s.launches := rfl
@[simp] theorem State.modCluster_graphs (s : State) (c : Fin 40) (f : ClusterSt → ClusterSt) : (s.modCluster c f).graphs = s.graphs := rfl
@[simp] theorem State.modCluster_readyNodes (s : State) (c : Fin 40) (f : ClusterSt → ClusterSt) : (s.modCluster c f).readyNodes = s.readyNodes := rfl
@[simp] theorem State.modCluster_saved (s : State) (c : Fin 40) (f : ClusterSt → ClusterSt) : (s.modCluster c f).saved = s.saved := rfl
@[simp] theorem State.modCluster_nextId (s : State) (c : Fin 40) (f : ClusterSt → ClusterSt) : (s.modCluster c f).nextId = s.nextId := rfl
@[simp] theorem State.modCluster_nextLid (s : State) (c : Fin 40) (f : ClusterSt → ClusterSt) : (s.modCluster c f).nextLid = s.nextLid := rfl
@[simp] theorem State.modCluster_mem (s : State) (c : Fin 40) (f : ClusterSt → ClusterSt) : (s.modCluster c f).mem = s.mem := rfl
@[simp] theorem State.modCluster_memPoison (s : State) (c : Fin 40) (f : ClusterSt → ClusterSt) : (s.modCluster c f).memPoison = s.memPoison := rfl
@[simp] theorem State.modCluster_hostMem (s : State) (c : Fin 40) (f : ClusterSt → ClusterSt) : (s.modCluster c f).hostMem = s.hostMem := rfl
@[simp] theorem State.modCluster_peerMem (s : State) (c : Fin 40) (f : ClusterSt → ClusterSt) : (s.modCluster c f).peerMem = s.peerMem := rfl

@[simp] theorem State.modCtx_cur (s : State) (c : CtxIx) (f : Ctx → Ctx) : (s.modCtx c f).cur = s.cur := rfl
@[simp] theorem State.modCtx_gix (s : State) (c : CtxIx) (f : Ctx → Ctx) : (s.modCtx c f).gix = s.gix := rfl
@[simp] theorem State.modCtx_spl (s : State) (c : CtxIx) (f : Ctx → Ctx) : (s.modCtx c f).spl = s.spl := rfl
@[simp] theorem State.modCtx_sched (s : State) (c : CtxIx) (f : Ctx → Ctx) : (s.modCtx c f).sched = s.sched := rfl
@[simp] theorem State.modCtx_tick (s : State) (c : CtxIx) (f : Ctx → Ctx) : (s.modCtx c f).tick = s.tick := rfl
@[simp] theorem State.modCtx_blocked (s : State) (c : CtxIx) (f : Ctx → Ctx) : (s.modCtx c f).blocked = s.blocked := rfl
@[simp] theorem State.modCtx_stalled (s : State) (c : CtxIx) (f : Ctx → Ctx) : (s.modCtx c f).stalled = s.stalled := rfl
@[simp] theorem State.modCtx_halted (s : State) (c : CtxIx) (f : Ctx → Ctx) : (s.modCtx c f).halted = s.halted := rfl
@[simp] theorem State.modCtx_reft (s : State) (c : CtxIx) (f : Ctx → Ctx) : (s.modCtx c f).reft = s.reft := rfl
@[simp] theorem State.modCtx_teams (s : State) (c : CtxIx) (f : Ctx → Ctx) : (s.modCtx c f).teams = s.teams := rfl
@[simp] theorem State.modCtx_cores (s : State) (c : CtxIx) (f : Ctx → Ctx) : (s.modCtx c f).cores = s.cores := rfl
@[simp] theorem State.modCtx_clusters (s : State) (c : CtxIx) (f : Ctx → Ctx) : (s.modCtx c f).clusters = s.clusters := rfl
@[simp] theorem State.modCtx_dies (s : State) (c : CtxIx) (f : Ctx → Ctx) : (s.modCtx c f).dies = s.dies := rfl
@[simp] theorem State.modCtx_queues (s : State) (c : CtxIx) (f : Ctx → Ctx) : (s.modCtx c f).queues = s.queues := rfl
@[simp] theorem State.modCtx_counters (s : State) (c : CtxIx) (f : Ctx → Ctx) : (s.modCtx c f).counters = s.counters := rfl
@[simp] theorem State.modCtx_pennants (s : State) (c : CtxIx) (f : Ctx → Ctx) : (s.modCtx c f).pennants = s.pennants := rfl
@[simp] theorem State.modCtx_slots (s : State) (c : CtxIx) (f : Ctx → Ctx) : (s.modCtx c f).slots = s.slots := rfl
@[simp] theorem State.modCtx_parts (s : State) (c : CtxIx) (f : Ctx → Ctx) : (s.modCtx c f).parts = s.parts := rfl
@[simp] theorem State.modCtx_mgmt (s : State) (c : CtxIx) (f : Ctx → Ctx) : (s.modCtx c f).mgmt = s.mgmt := rfl
@[simp] theorem State.modCtx_monitors (s : State) (c : CtxIx) (f : Ctx → Ctx) : (s.modCtx c f).monitors = s.monitors := rfl
@[simp] theorem State.modCtx_pacqs (s : State) (c : CtxIx) (f : Ctx → Ctx) : (s.modCtx c f).pacqs = s.pacqs := rfl
@[simp] theorem State.modCtx_homeRed (s : State) (c : CtxIx) (f : Ctx → Ctx) : (s.modCtx c f).homeRed = s.homeRed := rfl
@[simp] theorem State.modCtx_lines (s : State) (c : CtxIx) (f : Ctx → Ctx) : (s.modCtx c f).lines = s.lines := rfl
@[simp] theorem State.modCtx_uses (s : State) (c : CtxIx) (f : Ctx → Ctx) : (s.modCtx c f).uses = s.uses := rfl
@[simp] theorem State.modCtx_completing (s : State) (c : CtxIx) (f : Ctx → Ctx) : (s.modCtx c f).completing = s.completing := rfl
@[simp] theorem State.modCtx_slew (s : State) (c : CtxIx) (f : Ctx → Ctx) : (s.modCtx c f).slew = s.slew := rfl
@[simp] theorem State.modCtx_outgoing (s : State) (c : CtxIx) (f : Ctx → Ctx) : (s.modCtx c f).outgoing = s.outgoing := rfl
@[simp] theorem State.modCtx_launches (s : State) (c : CtxIx) (f : Ctx → Ctx) : (s.modCtx c f).launches = s.launches := rfl
@[simp] theorem State.modCtx_graphs (s : State) (c : CtxIx) (f : Ctx → Ctx) : (s.modCtx c f).graphs = s.graphs := rfl
@[simp] theorem State.modCtx_readyNodes (s : State) (c : CtxIx) (f : Ctx → Ctx) : (s.modCtx c f).readyNodes = s.readyNodes := rfl
@[simp] theorem State.modCtx_saved (s : State) (c : CtxIx) (f : Ctx → Ctx) : (s.modCtx c f).saved = s.saved := rfl
@[simp] theorem State.modCtx_nextId (s : State) (c : CtxIx) (f : Ctx → Ctx) : (s.modCtx c f).nextId = s.nextId := rfl
@[simp] theorem State.modCtx_nextLid (s : State) (c : CtxIx) (f : Ctx → Ctx) : (s.modCtx c f).nextLid = s.nextLid := rfl
@[simp] theorem State.modCtx_mem (s : State) (c : CtxIx) (f : Ctx → Ctx) : (s.modCtx c f).mem = s.mem := rfl
@[simp] theorem State.modCtx_memPoison (s : State) (c : CtxIx) (f : Ctx → Ctx) : (s.modCtx c f).memPoison = s.memPoison := rfl
@[simp] theorem State.modCtx_hostMem (s : State) (c : CtxIx) (f : Ctx → Ctx) : (s.modCtx c f).hostMem = s.hostMem := rfl
@[simp] theorem State.modCtx_peerMem (s : State) (c : CtxIx) (f : Ctx → Ctx) : (s.modCtx c f).peerMem = s.peerMem := rfl

@[simp] theorem State.at_spl (s : State) (t : TeamIx) (g : GrpIx) : (s.at t g).spl = s.spl := rfl
@[simp] theorem State.at_sched (s : State) (t : TeamIx) (g : GrpIx) : (s.at t g).sched = s.sched := rfl
@[simp] theorem State.at_tick (s : State) (t : TeamIx) (g : GrpIx) : (s.at t g).tick = s.tick := rfl
@[simp] theorem State.at_blocked (s : State) (t : TeamIx) (g : GrpIx) : (s.at t g).blocked = s.blocked := rfl
@[simp] theorem State.at_stalled (s : State) (t : TeamIx) (g : GrpIx) : (s.at t g).stalled = s.stalled := rfl
@[simp] theorem State.at_halted (s : State) (t : TeamIx) (g : GrpIx) : (s.at t g).halted = s.halted := rfl
@[simp] theorem State.at_reft (s : State) (t : TeamIx) (g : GrpIx) : (s.at t g).reft = s.reft := rfl
@[simp] theorem State.at_teams (s : State) (t : TeamIx) (g : GrpIx) : (s.at t g).teams = s.teams := rfl
@[simp] theorem State.at_cores (s : State) (t : TeamIx) (g : GrpIx) : (s.at t g).cores = s.cores := rfl
@[simp] theorem State.at_clusters (s : State) (t : TeamIx) (g : GrpIx) : (s.at t g).clusters = s.clusters := rfl
@[simp] theorem State.at_dies (s : State) (t : TeamIx) (g : GrpIx) : (s.at t g).dies = s.dies := rfl
@[simp] theorem State.at_queues (s : State) (t : TeamIx) (g : GrpIx) : (s.at t g).queues = s.queues := rfl
@[simp] theorem State.at_counters (s : State) (t : TeamIx) (g : GrpIx) : (s.at t g).counters = s.counters := rfl
@[simp] theorem State.at_pennants (s : State) (t : TeamIx) (g : GrpIx) : (s.at t g).pennants = s.pennants := rfl
@[simp] theorem State.at_slots (s : State) (t : TeamIx) (g : GrpIx) : (s.at t g).slots = s.slots := rfl
@[simp] theorem State.at_ctxs (s : State) (t : TeamIx) (g : GrpIx) : (s.at t g).ctxs = s.ctxs := rfl
@[simp] theorem State.at_parts (s : State) (t : TeamIx) (g : GrpIx) : (s.at t g).parts = s.parts := rfl
@[simp] theorem State.at_mgmt (s : State) (t : TeamIx) (g : GrpIx) : (s.at t g).mgmt = s.mgmt := rfl
@[simp] theorem State.at_monitors (s : State) (t : TeamIx) (g : GrpIx) : (s.at t g).monitors = s.monitors := rfl
@[simp] theorem State.at_pacqs (s : State) (t : TeamIx) (g : GrpIx) : (s.at t g).pacqs = s.pacqs := rfl
@[simp] theorem State.at_homeRed (s : State) (t : TeamIx) (g : GrpIx) : (s.at t g).homeRed = s.homeRed := rfl
@[simp] theorem State.at_lines (s : State) (t : TeamIx) (g : GrpIx) : (s.at t g).lines = s.lines := rfl
@[simp] theorem State.at_uses (s : State) (t : TeamIx) (g : GrpIx) : (s.at t g).uses = s.uses := rfl
@[simp] theorem State.at_completing (s : State) (t : TeamIx) (g : GrpIx) : (s.at t g).completing = s.completing := rfl
@[simp] theorem State.at_slew (s : State) (t : TeamIx) (g : GrpIx) : (s.at t g).slew = s.slew := rfl
@[simp] theorem State.at_outgoing (s : State) (t : TeamIx) (g : GrpIx) : (s.at t g).outgoing = s.outgoing := rfl
@[simp] theorem State.at_launches (s : State) (t : TeamIx) (g : GrpIx) : (s.at t g).launches = s.launches := rfl
@[simp] theorem State.at_graphs (s : State) (t : TeamIx) (g : GrpIx) : (s.at t g).graphs = s.graphs := rfl
@[simp] theorem State.at_readyNodes (s : State) (t : TeamIx) (g : GrpIx) : (s.at t g).readyNodes = s.readyNodes := rfl
@[simp] theorem State.at_saved (s : State) (t : TeamIx) (g : GrpIx) : (s.at t g).saved = s.saved := rfl
@[simp] theorem State.at_nextId (s : State) (t : TeamIx) (g : GrpIx) : (s.at t g).nextId = s.nextId := rfl
@[simp] theorem State.at_nextLid (s : State) (t : TeamIx) (g : GrpIx) : (s.at t g).nextLid = s.nextLid := rfl
@[simp] theorem State.at_mem (s : State) (t : TeamIx) (g : GrpIx) : (s.at t g).mem = s.mem := rfl
@[simp] theorem State.at_memPoison (s : State) (t : TeamIx) (g : GrpIx) : (s.at t g).memPoison = s.memPoison := rfl
@[simp] theorem State.at_hostMem (s : State) (t : TeamIx) (g : GrpIx) : (s.at t g).hostMem = s.hostMem := rfl
@[simp] theorem State.at_peerMem (s : State) (t : TeamIx) (g : GrpIx) : (s.at t g).peerMem = s.peerMem := rfl

@[simp] theorem State.setSr_cur (s : State) (r : Reg) (v : Word) : (s.setSr r v).cur = s.cur := rfl
@[simp] theorem State.setSr_gix (s : State) (r : Reg) (v : Word) : (s.setSr r v).gix = s.gix := rfl
@[simp] theorem State.setSr_spl (s : State) (r : Reg) (v : Word) : (s.setSr r v).spl = s.spl := rfl
@[simp] theorem State.setSr_sched (s : State) (r : Reg) (v : Word) : (s.setSr r v).sched = s.sched := rfl
@[simp] theorem State.setSr_tick (s : State) (r : Reg) (v : Word) : (s.setSr r v).tick = s.tick := rfl
@[simp] theorem State.setSr_blocked (s : State) (r : Reg) (v : Word) : (s.setSr r v).blocked = s.blocked := rfl
@[simp] theorem State.setSr_stalled (s : State) (r : Reg) (v : Word) : (s.setSr r v).stalled = s.stalled := rfl
@[simp] theorem State.setSr_halted (s : State) (r : Reg) (v : Word) : (s.setSr r v).halted = s.halted := rfl
@[simp] theorem State.setSr_reft (s : State) (r : Reg) (v : Word) : (s.setSr r v).reft = s.reft := rfl
@[simp] theorem State.setSr_cores (s : State) (r : Reg) (v : Word) : (s.setSr r v).cores = s.cores := rfl
@[simp] theorem State.setSr_clusters (s : State) (r : Reg) (v : Word) : (s.setSr r v).clusters = s.clusters := rfl
@[simp] theorem State.setSr_dies (s : State) (r : Reg) (v : Word) : (s.setSr r v).dies = s.dies := rfl
@[simp] theorem State.setSr_queues (s : State) (r : Reg) (v : Word) : (s.setSr r v).queues = s.queues := rfl
@[simp] theorem State.setSr_counters (s : State) (r : Reg) (v : Word) : (s.setSr r v).counters = s.counters := rfl
@[simp] theorem State.setSr_pennants (s : State) (r : Reg) (v : Word) : (s.setSr r v).pennants = s.pennants := rfl
@[simp] theorem State.setSr_slots (s : State) (r : Reg) (v : Word) : (s.setSr r v).slots = s.slots := rfl
@[simp] theorem State.setSr_ctxs (s : State) (r : Reg) (v : Word) : (s.setSr r v).ctxs = s.ctxs := rfl
@[simp] theorem State.setSr_parts (s : State) (r : Reg) (v : Word) : (s.setSr r v).parts = s.parts := rfl
@[simp] theorem State.setSr_mgmt (s : State) (r : Reg) (v : Word) : (s.setSr r v).mgmt = s.mgmt := rfl
@[simp] theorem State.setSr_monitors (s : State) (r : Reg) (v : Word) : (s.setSr r v).monitors = s.monitors := rfl
@[simp] theorem State.setSr_pacqs (s : State) (r : Reg) (v : Word) : (s.setSr r v).pacqs = s.pacqs := rfl
@[simp] theorem State.setSr_homeRed (s : State) (r : Reg) (v : Word) : (s.setSr r v).homeRed = s.homeRed := rfl
@[simp] theorem State.setSr_lines (s : State) (r : Reg) (v : Word) : (s.setSr r v).lines = s.lines := rfl
@[simp] theorem State.setSr_uses (s : State) (r : Reg) (v : Word) : (s.setSr r v).uses = s.uses := rfl
@[simp] theorem State.setSr_completing (s : State) (r : Reg) (v : Word) : (s.setSr r v).completing = s.completing := rfl
@[simp] theorem State.setSr_slew (s : State) (r : Reg) (v : Word) : (s.setSr r v).slew = s.slew := rfl
@[simp] theorem State.setSr_outgoing (s : State) (r : Reg) (v : Word) : (s.setSr r v).outgoing = s.outgoing := rfl
@[simp] theorem State.setSr_launches (s : State) (r : Reg) (v : Word) : (s.setSr r v).launches = s.launches := rfl
@[simp] theorem State.setSr_graphs (s : State) (r : Reg) (v : Word) : (s.setSr r v).graphs = s.graphs := rfl
@[simp] theorem State.setSr_readyNodes (s : State) (r : Reg) (v : Word) : (s.setSr r v).readyNodes = s.readyNodes := rfl
@[simp] theorem State.setSr_saved (s : State) (r : Reg) (v : Word) : (s.setSr r v).saved = s.saved := rfl
@[simp] theorem State.setSr_nextId (s : State) (r : Reg) (v : Word) : (s.setSr r v).nextId = s.nextId := rfl
@[simp] theorem State.setSr_nextLid (s : State) (r : Reg) (v : Word) : (s.setSr r v).nextLid = s.nextLid := rfl
@[simp] theorem State.setSr_mem (s : State) (r : Reg) (v : Word) : (s.setSr r v).mem = s.mem := rfl
@[simp] theorem State.setSr_memPoison (s : State) (r : Reg) (v : Word) : (s.setSr r v).memPoison = s.memPoison := rfl
@[simp] theorem State.setSr_hostMem (s : State) (r : Reg) (v : Word) : (s.setSr r v).hostMem = s.hostMem := rfl
@[simp] theorem State.setSr_peerMem (s : State) (r : Reg) (v : Word) : (s.setSr r v).peerMem = s.peerMem := rfl

@[simp] theorem State.setSr64_cur (s : State) (r : Reg) (v : DWord) : (s.setSr64 r v).cur = s.cur := rfl
@[simp] theorem State.setSr64_gix (s : State) (r : Reg) (v : DWord) : (s.setSr64 r v).gix = s.gix := rfl
@[simp] theorem State.setSr64_spl (s : State) (r : Reg) (v : DWord) : (s.setSr64 r v).spl = s.spl := rfl
@[simp] theorem State.setSr64_sched (s : State) (r : Reg) (v : DWord) : (s.setSr64 r v).sched = s.sched := rfl
@[simp] theorem State.setSr64_tick (s : State) (r : Reg) (v : DWord) : (s.setSr64 r v).tick = s.tick := rfl
@[simp] theorem State.setSr64_blocked (s : State) (r : Reg) (v : DWord) : (s.setSr64 r v).blocked = s.blocked := rfl
@[simp] theorem State.setSr64_stalled (s : State) (r : Reg) (v : DWord) : (s.setSr64 r v).stalled = s.stalled := rfl
@[simp] theorem State.setSr64_halted (s : State) (r : Reg) (v : DWord) : (s.setSr64 r v).halted = s.halted := rfl
@[simp] theorem State.setSr64_reft (s : State) (r : Reg) (v : DWord) : (s.setSr64 r v).reft = s.reft := rfl
@[simp] theorem State.setSr64_cores (s : State) (r : Reg) (v : DWord) : (s.setSr64 r v).cores = s.cores := rfl
@[simp] theorem State.setSr64_clusters (s : State) (r : Reg) (v : DWord) : (s.setSr64 r v).clusters = s.clusters := rfl
@[simp] theorem State.setSr64_dies (s : State) (r : Reg) (v : DWord) : (s.setSr64 r v).dies = s.dies := rfl
@[simp] theorem State.setSr64_queues (s : State) (r : Reg) (v : DWord) : (s.setSr64 r v).queues = s.queues := rfl
@[simp] theorem State.setSr64_counters (s : State) (r : Reg) (v : DWord) : (s.setSr64 r v).counters = s.counters := rfl
@[simp] theorem State.setSr64_pennants (s : State) (r : Reg) (v : DWord) : (s.setSr64 r v).pennants = s.pennants := rfl
@[simp] theorem State.setSr64_slots (s : State) (r : Reg) (v : DWord) : (s.setSr64 r v).slots = s.slots := rfl
@[simp] theorem State.setSr64_ctxs (s : State) (r : Reg) (v : DWord) : (s.setSr64 r v).ctxs = s.ctxs := rfl
@[simp] theorem State.setSr64_parts (s : State) (r : Reg) (v : DWord) : (s.setSr64 r v).parts = s.parts := rfl
@[simp] theorem State.setSr64_mgmt (s : State) (r : Reg) (v : DWord) : (s.setSr64 r v).mgmt = s.mgmt := rfl
@[simp] theorem State.setSr64_monitors (s : State) (r : Reg) (v : DWord) : (s.setSr64 r v).monitors = s.monitors := rfl
@[simp] theorem State.setSr64_pacqs (s : State) (r : Reg) (v : DWord) : (s.setSr64 r v).pacqs = s.pacqs := rfl
@[simp] theorem State.setSr64_homeRed (s : State) (r : Reg) (v : DWord) : (s.setSr64 r v).homeRed = s.homeRed := rfl
@[simp] theorem State.setSr64_lines (s : State) (r : Reg) (v : DWord) : (s.setSr64 r v).lines = s.lines := rfl
@[simp] theorem State.setSr64_uses (s : State) (r : Reg) (v : DWord) : (s.setSr64 r v).uses = s.uses := rfl
@[simp] theorem State.setSr64_completing (s : State) (r : Reg) (v : DWord) : (s.setSr64 r v).completing = s.completing := rfl
@[simp] theorem State.setSr64_slew (s : State) (r : Reg) (v : DWord) : (s.setSr64 r v).slew = s.slew := rfl
@[simp] theorem State.setSr64_outgoing (s : State) (r : Reg) (v : DWord) : (s.setSr64 r v).outgoing = s.outgoing := rfl
@[simp] theorem State.setSr64_launches (s : State) (r : Reg) (v : DWord) : (s.setSr64 r v).launches = s.launches := rfl
@[simp] theorem State.setSr64_graphs (s : State) (r : Reg) (v : DWord) : (s.setSr64 r v).graphs = s.graphs := rfl
@[simp] theorem State.setSr64_readyNodes (s : State) (r : Reg) (v : DWord) : (s.setSr64 r v).readyNodes = s.readyNodes := rfl
@[simp] theorem State.setSr64_saved (s : State) (r : Reg) (v : DWord) : (s.setSr64 r v).saved = s.saved := rfl
@[simp] theorem State.setSr64_nextId (s : State) (r : Reg) (v : DWord) : (s.setSr64 r v).nextId = s.nextId := rfl
@[simp] theorem State.setSr64_nextLid (s : State) (r : Reg) (v : DWord) : (s.setSr64 r v).nextLid = s.nextLid := rfl
@[simp] theorem State.setSr64_mem (s : State) (r : Reg) (v : DWord) : (s.setSr64 r v).mem = s.mem := rfl
@[simp] theorem State.setSr64_memPoison (s : State) (r : Reg) (v : DWord) : (s.setSr64 r v).memPoison = s.memPoison := rfl
@[simp] theorem State.setSr64_hostMem (s : State) (r : Reg) (v : DWord) : (s.setSr64 r v).hostMem = s.hostMem := rfl
@[simp] theorem State.setSr64_peerMem (s : State) (r : Reg) (v : DWord) : (s.setSr64 r v).peerMem = s.peerMem := rfl

@[simp] theorem State.count_cur (s : State) (k : Fin 16) (n : Nat) : (s.count k n).cur = s.cur := rfl
@[simp] theorem State.count_gix (s : State) (k : Fin 16) (n : Nat) : (s.count k n).gix = s.gix := rfl
@[simp] theorem State.count_spl (s : State) (k : Fin 16) (n : Nat) : (s.count k n).spl = s.spl := rfl
@[simp] theorem State.count_sched (s : State) (k : Fin 16) (n : Nat) : (s.count k n).sched = s.sched := rfl
@[simp] theorem State.count_tick (s : State) (k : Fin 16) (n : Nat) : (s.count k n).tick = s.tick := rfl
@[simp] theorem State.count_blocked (s : State) (k : Fin 16) (n : Nat) : (s.count k n).blocked = s.blocked := rfl
@[simp] theorem State.count_stalled (s : State) (k : Fin 16) (n : Nat) : (s.count k n).stalled = s.stalled := rfl
@[simp] theorem State.count_halted (s : State) (k : Fin 16) (n : Nat) : (s.count k n).halted = s.halted := rfl
@[simp] theorem State.count_reft (s : State) (k : Fin 16) (n : Nat) : (s.count k n).reft = s.reft := rfl
@[simp] theorem State.count_teams (s : State) (k : Fin 16) (n : Nat) : (s.count k n).teams = s.teams := rfl
@[simp] theorem State.count_clusters (s : State) (k : Fin 16) (n : Nat) : (s.count k n).clusters = s.clusters := rfl
@[simp] theorem State.count_dies (s : State) (k : Fin 16) (n : Nat) : (s.count k n).dies = s.dies := rfl
@[simp] theorem State.count_queues (s : State) (k : Fin 16) (n : Nat) : (s.count k n).queues = s.queues := rfl
@[simp] theorem State.count_counters (s : State) (k : Fin 16) (n : Nat) : (s.count k n).counters = s.counters := rfl
@[simp] theorem State.count_pennants (s : State) (k : Fin 16) (n : Nat) : (s.count k n).pennants = s.pennants := rfl
@[simp] theorem State.count_slots (s : State) (k : Fin 16) (n : Nat) : (s.count k n).slots = s.slots := rfl
@[simp] theorem State.count_ctxs (s : State) (k : Fin 16) (n : Nat) : (s.count k n).ctxs = s.ctxs := rfl
@[simp] theorem State.count_parts (s : State) (k : Fin 16) (n : Nat) : (s.count k n).parts = s.parts := rfl
@[simp] theorem State.count_mgmt (s : State) (k : Fin 16) (n : Nat) : (s.count k n).mgmt = s.mgmt := rfl
@[simp] theorem State.count_monitors (s : State) (k : Fin 16) (n : Nat) : (s.count k n).monitors = s.monitors := rfl
@[simp] theorem State.count_pacqs (s : State) (k : Fin 16) (n : Nat) : (s.count k n).pacqs = s.pacqs := rfl
@[simp] theorem State.count_homeRed (s : State) (k : Fin 16) (n : Nat) : (s.count k n).homeRed = s.homeRed := rfl
@[simp] theorem State.count_lines (s : State) (k : Fin 16) (n : Nat) : (s.count k n).lines = s.lines := rfl
@[simp] theorem State.count_uses (s : State) (k : Fin 16) (n : Nat) : (s.count k n).uses = s.uses := rfl
@[simp] theorem State.count_completing (s : State) (k : Fin 16) (n : Nat) : (s.count k n).completing = s.completing := rfl
@[simp] theorem State.count_slew (s : State) (k : Fin 16) (n : Nat) : (s.count k n).slew = s.slew := rfl
@[simp] theorem State.count_outgoing (s : State) (k : Fin 16) (n : Nat) : (s.count k n).outgoing = s.outgoing := rfl
@[simp] theorem State.count_launches (s : State) (k : Fin 16) (n : Nat) : (s.count k n).launches = s.launches := rfl
@[simp] theorem State.count_graphs (s : State) (k : Fin 16) (n : Nat) : (s.count k n).graphs = s.graphs := rfl
@[simp] theorem State.count_readyNodes (s : State) (k : Fin 16) (n : Nat) : (s.count k n).readyNodes = s.readyNodes := rfl
@[simp] theorem State.count_saved (s : State) (k : Fin 16) (n : Nat) : (s.count k n).saved = s.saved := rfl
@[simp] theorem State.count_nextId (s : State) (k : Fin 16) (n : Nat) : (s.count k n).nextId = s.nextId := rfl
@[simp] theorem State.count_nextLid (s : State) (k : Fin 16) (n : Nat) : (s.count k n).nextLid = s.nextLid := rfl
@[simp] theorem State.count_mem (s : State) (k : Fin 16) (n : Nat) : (s.count k n).mem = s.mem := rfl
@[simp] theorem State.count_memPoison (s : State) (k : Fin 16) (n : Nat) : (s.count k n).memPoison = s.memPoison := rfl
@[simp] theorem State.count_hostMem (s : State) (k : Fin 16) (n : Nat) : (s.count k n).hostMem = s.hostMem := rfl
@[simp] theorem State.count_peerMem (s : State) (k : Fin 16) (n : Nat) : (s.count k n).peerMem = s.peerMem := rfl

@[simp] theorem State.countScalar_cur (s : State) (n : Nat) : (s.countScalar n).cur = s.cur := rfl
@[simp] theorem State.countScalar_gix (s : State) (n : Nat) : (s.countScalar n).gix = s.gix := rfl
@[simp] theorem State.countScalar_spl (s : State) (n : Nat) : (s.countScalar n).spl = s.spl := rfl
@[simp] theorem State.countScalar_sched (s : State) (n : Nat) : (s.countScalar n).sched = s.sched := rfl
@[simp] theorem State.countScalar_tick (s : State) (n : Nat) : (s.countScalar n).tick = s.tick := rfl
@[simp] theorem State.countScalar_blocked (s : State) (n : Nat) : (s.countScalar n).blocked = s.blocked := rfl
@[simp] theorem State.countScalar_stalled (s : State) (n : Nat) : (s.countScalar n).stalled = s.stalled := rfl
@[simp] theorem State.countScalar_halted (s : State) (n : Nat) : (s.countScalar n).halted = s.halted := rfl
@[simp] theorem State.countScalar_reft (s : State) (n : Nat) : (s.countScalar n).reft = s.reft := rfl
@[simp] theorem State.countScalar_clusters (s : State) (n : Nat) : (s.countScalar n).clusters = s.clusters := rfl
@[simp] theorem State.countScalar_dies (s : State) (n : Nat) : (s.countScalar n).dies = s.dies := rfl
@[simp] theorem State.countScalar_queues (s : State) (n : Nat) : (s.countScalar n).queues = s.queues := rfl
@[simp] theorem State.countScalar_counters (s : State) (n : Nat) : (s.countScalar n).counters = s.counters := rfl
@[simp] theorem State.countScalar_pennants (s : State) (n : Nat) : (s.countScalar n).pennants = s.pennants := rfl
@[simp] theorem State.countScalar_slots (s : State) (n : Nat) : (s.countScalar n).slots = s.slots := rfl
@[simp] theorem State.countScalar_ctxs (s : State) (n : Nat) : (s.countScalar n).ctxs = s.ctxs := rfl
@[simp] theorem State.countScalar_parts (s : State) (n : Nat) : (s.countScalar n).parts = s.parts := rfl
@[simp] theorem State.countScalar_mgmt (s : State) (n : Nat) : (s.countScalar n).mgmt = s.mgmt := rfl
@[simp] theorem State.countScalar_monitors (s : State) (n : Nat) : (s.countScalar n).monitors = s.monitors := rfl
@[simp] theorem State.countScalar_pacqs (s : State) (n : Nat) : (s.countScalar n).pacqs = s.pacqs := rfl
@[simp] theorem State.countScalar_homeRed (s : State) (n : Nat) : (s.countScalar n).homeRed = s.homeRed := rfl
@[simp] theorem State.countScalar_lines (s : State) (n : Nat) : (s.countScalar n).lines = s.lines := rfl
@[simp] theorem State.countScalar_uses (s : State) (n : Nat) : (s.countScalar n).uses = s.uses := rfl
@[simp] theorem State.countScalar_completing (s : State) (n : Nat) : (s.countScalar n).completing = s.completing := rfl
@[simp] theorem State.countScalar_slew (s : State) (n : Nat) : (s.countScalar n).slew = s.slew := rfl
@[simp] theorem State.countScalar_outgoing (s : State) (n : Nat) : (s.countScalar n).outgoing = s.outgoing := rfl
@[simp] theorem State.countScalar_launches (s : State) (n : Nat) : (s.countScalar n).launches = s.launches := rfl
@[simp] theorem State.countScalar_graphs (s : State) (n : Nat) : (s.countScalar n).graphs = s.graphs := rfl
@[simp] theorem State.countScalar_readyNodes (s : State) (n : Nat) : (s.countScalar n).readyNodes = s.readyNodes := rfl
@[simp] theorem State.countScalar_saved (s : State) (n : Nat) : (s.countScalar n).saved = s.saved := rfl
@[simp] theorem State.countScalar_nextId (s : State) (n : Nat) : (s.countScalar n).nextId = s.nextId := rfl
@[simp] theorem State.countScalar_nextLid (s : State) (n : Nat) : (s.countScalar n).nextLid = s.nextLid := rfl
@[simp] theorem State.countScalar_mem (s : State) (n : Nat) : (s.countScalar n).mem = s.mem := rfl
@[simp] theorem State.countScalar_memPoison (s : State) (n : Nat) : (s.countScalar n).memPoison = s.memPoison := rfl
@[simp] theorem State.countScalar_hostMem (s : State) (n : Nat) : (s.countScalar n).hostMem = s.hostMem := rfl
@[simp] theorem State.countScalar_peerMem (s : State) (n : Nat) : (s.countScalar n).peerMem = s.peerMem := rfl

@[simp] theorem State.goto_cur (s : State) (x : Word) : (s.goto x).cur = s.cur := rfl
@[simp] theorem State.goto_gix (s : State) (x : Word) : (s.goto x).gix = s.gix := rfl
@[simp] theorem State.goto_spl (s : State) (x : Word) : (s.goto x).spl = s.spl := rfl
@[simp] theorem State.goto_sched (s : State) (x : Word) : (s.goto x).sched = s.sched := rfl
@[simp] theorem State.goto_tick (s : State) (x : Word) : (s.goto x).tick = s.tick := rfl
@[simp] theorem State.goto_blocked (s : State) (x : Word) : (s.goto x).blocked = s.blocked := rfl
@[simp] theorem State.goto_stalled (s : State) (x : Word) : (s.goto x).stalled = s.stalled := rfl
@[simp] theorem State.goto_halted (s : State) (x : Word) : (s.goto x).halted = s.halted := rfl
@[simp] theorem State.goto_reft (s : State) (x : Word) : (s.goto x).reft = s.reft := rfl
@[simp] theorem State.goto_cores (s : State) (x : Word) : (s.goto x).cores = s.cores := rfl
@[simp] theorem State.goto_clusters (s : State) (x : Word) : (s.goto x).clusters = s.clusters := rfl
@[simp] theorem State.goto_dies (s : State) (x : Word) : (s.goto x).dies = s.dies := rfl
@[simp] theorem State.goto_queues (s : State) (x : Word) : (s.goto x).queues = s.queues := rfl
@[simp] theorem State.goto_counters (s : State) (x : Word) : (s.goto x).counters = s.counters := rfl
@[simp] theorem State.goto_pennants (s : State) (x : Word) : (s.goto x).pennants = s.pennants := rfl
@[simp] theorem State.goto_slots (s : State) (x : Word) : (s.goto x).slots = s.slots := rfl
@[simp] theorem State.goto_ctxs (s : State) (x : Word) : (s.goto x).ctxs = s.ctxs := rfl
@[simp] theorem State.goto_parts (s : State) (x : Word) : (s.goto x).parts = s.parts := rfl
@[simp] theorem State.goto_mgmt (s : State) (x : Word) : (s.goto x).mgmt = s.mgmt := rfl
@[simp] theorem State.goto_monitors (s : State) (x : Word) : (s.goto x).monitors = s.monitors := rfl
@[simp] theorem State.goto_pacqs (s : State) (x : Word) : (s.goto x).pacqs = s.pacqs := rfl
@[simp] theorem State.goto_homeRed (s : State) (x : Word) : (s.goto x).homeRed = s.homeRed := rfl
@[simp] theorem State.goto_lines (s : State) (x : Word) : (s.goto x).lines = s.lines := rfl
@[simp] theorem State.goto_uses (s : State) (x : Word) : (s.goto x).uses = s.uses := rfl
@[simp] theorem State.goto_completing (s : State) (x : Word) : (s.goto x).completing = s.completing := rfl
@[simp] theorem State.goto_slew (s : State) (x : Word) : (s.goto x).slew = s.slew := rfl
@[simp] theorem State.goto_outgoing (s : State) (x : Word) : (s.goto x).outgoing = s.outgoing := rfl
@[simp] theorem State.goto_launches (s : State) (x : Word) : (s.goto x).launches = s.launches := rfl
@[simp] theorem State.goto_graphs (s : State) (x : Word) : (s.goto x).graphs = s.graphs := rfl
@[simp] theorem State.goto_readyNodes (s : State) (x : Word) : (s.goto x).readyNodes = s.readyNodes := rfl
@[simp] theorem State.goto_saved (s : State) (x : Word) : (s.goto x).saved = s.saved := rfl
@[simp] theorem State.goto_nextId (s : State) (x : Word) : (s.goto x).nextId = s.nextId := rfl
@[simp] theorem State.goto_nextLid (s : State) (x : Word) : (s.goto x).nextLid = s.nextLid := rfl
@[simp] theorem State.goto_mem (s : State) (x : Word) : (s.goto x).mem = s.mem := rfl
@[simp] theorem State.goto_memPoison (s : State) (x : Word) : (s.goto x).memPoison = s.memPoison := rfl
@[simp] theorem State.goto_hostMem (s : State) (x : Word) : (s.goto x).hostMem = s.hostMem := rfl
@[simp] theorem State.goto_peerMem (s : State) (x : Word) : (s.goto x).peerMem = s.peerMem := rfl

@[simp] theorem State.advance_cur (s : State) (n : Nat) : (s.advance n).cur = s.cur := rfl
@[simp] theorem State.advance_gix (s : State) (n : Nat) : (s.advance n).gix = s.gix := rfl
@[simp] theorem State.advance_spl (s : State) (n : Nat) : (s.advance n).spl = s.spl := rfl
@[simp] theorem State.advance_sched (s : State) (n : Nat) : (s.advance n).sched = s.sched := rfl
@[simp] theorem State.advance_tick (s : State) (n : Nat) : (s.advance n).tick = s.tick := rfl
@[simp] theorem State.advance_blocked (s : State) (n : Nat) : (s.advance n).blocked = s.blocked := rfl
@[simp] theorem State.advance_stalled (s : State) (n : Nat) : (s.advance n).stalled = s.stalled := rfl
@[simp] theorem State.advance_halted (s : State) (n : Nat) : (s.advance n).halted = s.halted := rfl
@[simp] theorem State.advance_reft (s : State) (n : Nat) : (s.advance n).reft = s.reft := rfl
@[simp] theorem State.advance_clusters (s : State) (n : Nat) : (s.advance n).clusters = s.clusters := rfl
@[simp] theorem State.advance_dies (s : State) (n : Nat) : (s.advance n).dies = s.dies := rfl
@[simp] theorem State.advance_queues (s : State) (n : Nat) : (s.advance n).queues = s.queues := rfl
@[simp] theorem State.advance_counters (s : State) (n : Nat) : (s.advance n).counters = s.counters := rfl
@[simp] theorem State.advance_pennants (s : State) (n : Nat) : (s.advance n).pennants = s.pennants := rfl
@[simp] theorem State.advance_slots (s : State) (n : Nat) : (s.advance n).slots = s.slots := rfl
@[simp] theorem State.advance_ctxs (s : State) (n : Nat) : (s.advance n).ctxs = s.ctxs := rfl
@[simp] theorem State.advance_parts (s : State) (n : Nat) : (s.advance n).parts = s.parts := rfl
@[simp] theorem State.advance_mgmt (s : State) (n : Nat) : (s.advance n).mgmt = s.mgmt := rfl
@[simp] theorem State.advance_monitors (s : State) (n : Nat) : (s.advance n).monitors = s.monitors := rfl
@[simp] theorem State.advance_pacqs (s : State) (n : Nat) : (s.advance n).pacqs = s.pacqs := rfl
@[simp] theorem State.advance_homeRed (s : State) (n : Nat) : (s.advance n).homeRed = s.homeRed := rfl
@[simp] theorem State.advance_lines (s : State) (n : Nat) : (s.advance n).lines = s.lines := rfl
@[simp] theorem State.advance_uses (s : State) (n : Nat) : (s.advance n).uses = s.uses := rfl
@[simp] theorem State.advance_completing (s : State) (n : Nat) : (s.advance n).completing = s.completing := rfl
@[simp] theorem State.advance_slew (s : State) (n : Nat) : (s.advance n).slew = s.slew := rfl
@[simp] theorem State.advance_outgoing (s : State) (n : Nat) : (s.advance n).outgoing = s.outgoing := rfl
@[simp] theorem State.advance_launches (s : State) (n : Nat) : (s.advance n).launches = s.launches := rfl
@[simp] theorem State.advance_graphs (s : State) (n : Nat) : (s.advance n).graphs = s.graphs := rfl
@[simp] theorem State.advance_readyNodes (s : State) (n : Nat) : (s.advance n).readyNodes = s.readyNodes := rfl
@[simp] theorem State.advance_saved (s : State) (n : Nat) : (s.advance n).saved = s.saved := rfl
@[simp] theorem State.advance_nextId (s : State) (n : Nat) : (s.advance n).nextId = s.nextId := rfl
@[simp] theorem State.advance_nextLid (s : State) (n : Nat) : (s.advance n).nextLid = s.nextLid := rfl
@[simp] theorem State.advance_mem (s : State) (n : Nat) : (s.advance n).mem = s.mem := rfl
@[simp] theorem State.advance_memPoison (s : State) (n : Nat) : (s.advance n).memPoison = s.memPoison := rfl
@[simp] theorem State.advance_hostMem (s : State) (n : Nat) : (s.advance n).hostMem = s.hostMem := rfl
@[simp] theorem State.advance_peerMem (s : State) (n : Nat) : (s.advance n).peerMem = s.peerMem := rfl

@[simp] theorem State.jump_cur (s : State) (x : Word) : (s.jump x).cur = s.cur := rfl
@[simp] theorem State.jump_gix (s : State) (x : Word) : (s.jump x).gix = s.gix := rfl
@[simp] theorem State.jump_spl (s : State) (x : Word) : (s.jump x).spl = s.spl := rfl
@[simp] theorem State.jump_sched (s : State) (x : Word) : (s.jump x).sched = s.sched := rfl
@[simp] theorem State.jump_tick (s : State) (x : Word) : (s.jump x).tick = s.tick := rfl
@[simp] theorem State.jump_blocked (s : State) (x : Word) : (s.jump x).blocked = s.blocked := rfl
@[simp] theorem State.jump_stalled (s : State) (x : Word) : (s.jump x).stalled = s.stalled := rfl
@[simp] theorem State.jump_halted (s : State) (x : Word) : (s.jump x).halted = s.halted := rfl
@[simp] theorem State.jump_reft (s : State) (x : Word) : (s.jump x).reft = s.reft := rfl
@[simp] theorem State.jump_clusters (s : State) (x : Word) : (s.jump x).clusters = s.clusters := rfl
@[simp] theorem State.jump_dies (s : State) (x : Word) : (s.jump x).dies = s.dies := rfl
@[simp] theorem State.jump_queues (s : State) (x : Word) : (s.jump x).queues = s.queues := rfl
@[simp] theorem State.jump_counters (s : State) (x : Word) : (s.jump x).counters = s.counters := rfl
@[simp] theorem State.jump_pennants (s : State) (x : Word) : (s.jump x).pennants = s.pennants := rfl
@[simp] theorem State.jump_slots (s : State) (x : Word) : (s.jump x).slots = s.slots := rfl
@[simp] theorem State.jump_ctxs (s : State) (x : Word) : (s.jump x).ctxs = s.ctxs := rfl
@[simp] theorem State.jump_parts (s : State) (x : Word) : (s.jump x).parts = s.parts := rfl
@[simp] theorem State.jump_mgmt (s : State) (x : Word) : (s.jump x).mgmt = s.mgmt := rfl
@[simp] theorem State.jump_monitors (s : State) (x : Word) : (s.jump x).monitors = s.monitors := rfl
@[simp] theorem State.jump_pacqs (s : State) (x : Word) : (s.jump x).pacqs = s.pacqs := rfl
@[simp] theorem State.jump_homeRed (s : State) (x : Word) : (s.jump x).homeRed = s.homeRed := rfl
@[simp] theorem State.jump_lines (s : State) (x : Word) : (s.jump x).lines = s.lines := rfl
@[simp] theorem State.jump_uses (s : State) (x : Word) : (s.jump x).uses = s.uses := rfl
@[simp] theorem State.jump_completing (s : State) (x : Word) : (s.jump x).completing = s.completing := rfl
@[simp] theorem State.jump_slew (s : State) (x : Word) : (s.jump x).slew = s.slew := rfl
@[simp] theorem State.jump_outgoing (s : State) (x : Word) : (s.jump x).outgoing = s.outgoing := rfl
@[simp] theorem State.jump_launches (s : State) (x : Word) : (s.jump x).launches = s.launches := rfl
@[simp] theorem State.jump_graphs (s : State) (x : Word) : (s.jump x).graphs = s.graphs := rfl
@[simp] theorem State.jump_readyNodes (s : State) (x : Word) : (s.jump x).readyNodes = s.readyNodes := rfl
@[simp] theorem State.jump_saved (s : State) (x : Word) : (s.jump x).saved = s.saved := rfl
@[simp] theorem State.jump_nextId (s : State) (x : Word) : (s.jump x).nextId = s.nextId := rfl
@[simp] theorem State.jump_nextLid (s : State) (x : Word) : (s.jump x).nextLid = s.nextLid := rfl
@[simp] theorem State.jump_mem (s : State) (x : Word) : (s.jump x).mem = s.mem := rfl
@[simp] theorem State.jump_memPoison (s : State) (x : Word) : (s.jump x).memPoison = s.memPoison := rfl
@[simp] theorem State.jump_hostMem (s : State) (x : Word) : (s.jump x).hostMem = s.hostMem := rfl
@[simp] theorem State.jump_peerMem (s : State) (x : Word) : (s.jump x).peerMem = s.peerMem := rfl

@[simp] theorem State.sendFatal_cur (s : State) (c : CtxIx) (r : TrapRec) : (s.sendFatal c r).cur = s.cur := rfl
@[simp] theorem State.sendFatal_gix (s : State) (c : CtxIx) (r : TrapRec) : (s.sendFatal c r).gix = s.gix := rfl
@[simp] theorem State.sendFatal_spl (s : State) (c : CtxIx) (r : TrapRec) : (s.sendFatal c r).spl = s.spl := rfl
@[simp] theorem State.sendFatal_sched (s : State) (c : CtxIx) (r : TrapRec) : (s.sendFatal c r).sched = s.sched := rfl
@[simp] theorem State.sendFatal_tick (s : State) (c : CtxIx) (r : TrapRec) : (s.sendFatal c r).tick = s.tick := rfl
@[simp] theorem State.sendFatal_blocked (s : State) (c : CtxIx) (r : TrapRec) : (s.sendFatal c r).blocked = s.blocked := rfl
@[simp] theorem State.sendFatal_stalled (s : State) (c : CtxIx) (r : TrapRec) : (s.sendFatal c r).stalled = s.stalled := rfl
@[simp] theorem State.sendFatal_halted (s : State) (c : CtxIx) (r : TrapRec) : (s.sendFatal c r).halted = s.halted := rfl
@[simp] theorem State.sendFatal_reft (s : State) (c : CtxIx) (r : TrapRec) : (s.sendFatal c r).reft = s.reft := rfl
@[simp] theorem State.sendFatal_teams (s : State) (c : CtxIx) (r : TrapRec) : (s.sendFatal c r).teams = s.teams := rfl
@[simp] theorem State.sendFatal_cores (s : State) (c : CtxIx) (r : TrapRec) : (s.sendFatal c r).cores = s.cores := rfl
@[simp] theorem State.sendFatal_clusters (s : State) (c : CtxIx) (r : TrapRec) : (s.sendFatal c r).clusters = s.clusters := rfl
@[simp] theorem State.sendFatal_dies (s : State) (c : CtxIx) (r : TrapRec) : (s.sendFatal c r).dies = s.dies := rfl
@[simp] theorem State.sendFatal_queues (s : State) (c : CtxIx) (r : TrapRec) : (s.sendFatal c r).queues = s.queues := rfl
@[simp] theorem State.sendFatal_counters (s : State) (c : CtxIx) (r : TrapRec) : (s.sendFatal c r).counters = s.counters := rfl
@[simp] theorem State.sendFatal_pennants (s : State) (c : CtxIx) (r : TrapRec) : (s.sendFatal c r).pennants = s.pennants := rfl
@[simp] theorem State.sendFatal_slots (s : State) (c : CtxIx) (r : TrapRec) : (s.sendFatal c r).slots = s.slots := rfl
@[simp] theorem State.sendFatal_parts (s : State) (c : CtxIx) (r : TrapRec) : (s.sendFatal c r).parts = s.parts := rfl
@[simp] theorem State.sendFatal_mgmt (s : State) (c : CtxIx) (r : TrapRec) : (s.sendFatal c r).mgmt = s.mgmt := rfl
@[simp] theorem State.sendFatal_monitors (s : State) (c : CtxIx) (r : TrapRec) : (s.sendFatal c r).monitors = s.monitors := rfl
@[simp] theorem State.sendFatal_pacqs (s : State) (c : CtxIx) (r : TrapRec) : (s.sendFatal c r).pacqs = s.pacqs := rfl
@[simp] theorem State.sendFatal_homeRed (s : State) (c : CtxIx) (r : TrapRec) : (s.sendFatal c r).homeRed = s.homeRed := rfl
@[simp] theorem State.sendFatal_lines (s : State) (c : CtxIx) (r : TrapRec) : (s.sendFatal c r).lines = s.lines := rfl
@[simp] theorem State.sendFatal_uses (s : State) (c : CtxIx) (r : TrapRec) : (s.sendFatal c r).uses = s.uses := rfl
@[simp] theorem State.sendFatal_completing (s : State) (c : CtxIx) (r : TrapRec) : (s.sendFatal c r).completing = s.completing := rfl
@[simp] theorem State.sendFatal_slew (s : State) (c : CtxIx) (r : TrapRec) : (s.sendFatal c r).slew = s.slew := rfl
@[simp] theorem State.sendFatal_outgoing (s : State) (c : CtxIx) (r : TrapRec) : (s.sendFatal c r).outgoing = s.outgoing := rfl
@[simp] theorem State.sendFatal_launches (s : State) (c : CtxIx) (r : TrapRec) : (s.sendFatal c r).launches = s.launches := rfl
@[simp] theorem State.sendFatal_graphs (s : State) (c : CtxIx) (r : TrapRec) : (s.sendFatal c r).graphs = s.graphs := rfl
@[simp] theorem State.sendFatal_readyNodes (s : State) (c : CtxIx) (r : TrapRec) : (s.sendFatal c r).readyNodes = s.readyNodes := rfl
@[simp] theorem State.sendFatal_saved (s : State) (c : CtxIx) (r : TrapRec) : (s.sendFatal c r).saved = s.saved := rfl
@[simp] theorem State.sendFatal_nextId (s : State) (c : CtxIx) (r : TrapRec) : (s.sendFatal c r).nextId = s.nextId := rfl
@[simp] theorem State.sendFatal_nextLid (s : State) (c : CtxIx) (r : TrapRec) : (s.sendFatal c r).nextLid = s.nextLid := rfl
@[simp] theorem State.sendFatal_mem (s : State) (c : CtxIx) (r : TrapRec) : (s.sendFatal c r).mem = s.mem := rfl
@[simp] theorem State.sendFatal_memPoison (s : State) (c : CtxIx) (r : TrapRec) : (s.sendFatal c r).memPoison = s.memPoison := rfl
@[simp] theorem State.sendFatal_hostMem (s : State) (c : CtxIx) (r : TrapRec) : (s.sendFatal c r).hostMem = s.hostMem := rfl
@[simp] theorem State.sendFatal_peerMem (s : State) (c : CtxIx) (r : TrapRec) : (s.sendFatal c r).peerMem = s.peerMem := rfl

@[simp] theorem State.sendReplay_cur (s : State) (c : CtxIx) (r : TrapRec) (w : Option ReplyFor) : (s.sendReplay c r w).cur = s.cur := rfl
@[simp] theorem State.sendReplay_gix (s : State) (c : CtxIx) (r : TrapRec) (w : Option ReplyFor) : (s.sendReplay c r w).gix = s.gix := rfl
@[simp] theorem State.sendReplay_spl (s : State) (c : CtxIx) (r : TrapRec) (w : Option ReplyFor) : (s.sendReplay c r w).spl = s.spl := rfl
@[simp] theorem State.sendReplay_sched (s : State) (c : CtxIx) (r : TrapRec) (w : Option ReplyFor) : (s.sendReplay c r w).sched = s.sched := rfl
@[simp] theorem State.sendReplay_tick (s : State) (c : CtxIx) (r : TrapRec) (w : Option ReplyFor) : (s.sendReplay c r w).tick = s.tick := rfl
@[simp] theorem State.sendReplay_blocked (s : State) (c : CtxIx) (r : TrapRec) (w : Option ReplyFor) : (s.sendReplay c r w).blocked = s.blocked := rfl
@[simp] theorem State.sendReplay_stalled (s : State) (c : CtxIx) (r : TrapRec) (w : Option ReplyFor) : (s.sendReplay c r w).stalled = s.stalled := rfl
@[simp] theorem State.sendReplay_halted (s : State) (c : CtxIx) (r : TrapRec) (w : Option ReplyFor) : (s.sendReplay c r w).halted = s.halted := rfl
@[simp] theorem State.sendReplay_reft (s : State) (c : CtxIx) (r : TrapRec) (w : Option ReplyFor) : (s.sendReplay c r w).reft = s.reft := rfl
@[simp] theorem State.sendReplay_teams (s : State) (c : CtxIx) (r : TrapRec) (w : Option ReplyFor) : (s.sendReplay c r w).teams = s.teams := rfl
@[simp] theorem State.sendReplay_cores (s : State) (c : CtxIx) (r : TrapRec) (w : Option ReplyFor) : (s.sendReplay c r w).cores = s.cores := rfl
@[simp] theorem State.sendReplay_clusters (s : State) (c : CtxIx) (r : TrapRec) (w : Option ReplyFor) : (s.sendReplay c r w).clusters = s.clusters := rfl
@[simp] theorem State.sendReplay_dies (s : State) (c : CtxIx) (r : TrapRec) (w : Option ReplyFor) : (s.sendReplay c r w).dies = s.dies := rfl
@[simp] theorem State.sendReplay_queues (s : State) (c : CtxIx) (r : TrapRec) (w : Option ReplyFor) : (s.sendReplay c r w).queues = s.queues := rfl
@[simp] theorem State.sendReplay_counters (s : State) (c : CtxIx) (r : TrapRec) (w : Option ReplyFor) : (s.sendReplay c r w).counters = s.counters := rfl
@[simp] theorem State.sendReplay_pennants (s : State) (c : CtxIx) (r : TrapRec) (w : Option ReplyFor) : (s.sendReplay c r w).pennants = s.pennants := rfl
@[simp] theorem State.sendReplay_slots (s : State) (c : CtxIx) (r : TrapRec) (w : Option ReplyFor) : (s.sendReplay c r w).slots = s.slots := rfl
@[simp] theorem State.sendReplay_parts (s : State) (c : CtxIx) (r : TrapRec) (w : Option ReplyFor) : (s.sendReplay c r w).parts = s.parts := rfl
@[simp] theorem State.sendReplay_mgmt (s : State) (c : CtxIx) (r : TrapRec) (w : Option ReplyFor) : (s.sendReplay c r w).mgmt = s.mgmt := rfl
@[simp] theorem State.sendReplay_monitors (s : State) (c : CtxIx) (r : TrapRec) (w : Option ReplyFor) : (s.sendReplay c r w).monitors = s.monitors := rfl
@[simp] theorem State.sendReplay_pacqs (s : State) (c : CtxIx) (r : TrapRec) (w : Option ReplyFor) : (s.sendReplay c r w).pacqs = s.pacqs := rfl
@[simp] theorem State.sendReplay_homeRed (s : State) (c : CtxIx) (r : TrapRec) (w : Option ReplyFor) : (s.sendReplay c r w).homeRed = s.homeRed := rfl
@[simp] theorem State.sendReplay_lines (s : State) (c : CtxIx) (r : TrapRec) (w : Option ReplyFor) : (s.sendReplay c r w).lines = s.lines := rfl
@[simp] theorem State.sendReplay_uses (s : State) (c : CtxIx) (r : TrapRec) (w : Option ReplyFor) : (s.sendReplay c r w).uses = s.uses := rfl
@[simp] theorem State.sendReplay_completing (s : State) (c : CtxIx) (r : TrapRec) (w : Option ReplyFor) : (s.sendReplay c r w).completing = s.completing := rfl
@[simp] theorem State.sendReplay_slew (s : State) (c : CtxIx) (r : TrapRec) (w : Option ReplyFor) : (s.sendReplay c r w).slew = s.slew := rfl
@[simp] theorem State.sendReplay_outgoing (s : State) (c : CtxIx) (r : TrapRec) (w : Option ReplyFor) : (s.sendReplay c r w).outgoing = s.outgoing := rfl
@[simp] theorem State.sendReplay_launches (s : State) (c : CtxIx) (r : TrapRec) (w : Option ReplyFor) : (s.sendReplay c r w).launches = s.launches := rfl
@[simp] theorem State.sendReplay_graphs (s : State) (c : CtxIx) (r : TrapRec) (w : Option ReplyFor) : (s.sendReplay c r w).graphs = s.graphs := rfl
@[simp] theorem State.sendReplay_readyNodes (s : State) (c : CtxIx) (r : TrapRec) (w : Option ReplyFor) : (s.sendReplay c r w).readyNodes = s.readyNodes := rfl
@[simp] theorem State.sendReplay_saved (s : State) (c : CtxIx) (r : TrapRec) (w : Option ReplyFor) : (s.sendReplay c r w).saved = s.saved := rfl
@[simp] theorem State.sendReplay_nextId (s : State) (c : CtxIx) (r : TrapRec) (w : Option ReplyFor) : (s.sendReplay c r w).nextId = s.nextId := rfl
@[simp] theorem State.sendReplay_nextLid (s : State) (c : CtxIx) (r : TrapRec) (w : Option ReplyFor) : (s.sendReplay c r w).nextLid = s.nextLid := rfl
@[simp] theorem State.sendReplay_mem (s : State) (c : CtxIx) (r : TrapRec) (w : Option ReplyFor) : (s.sendReplay c r w).mem = s.mem := rfl
@[simp] theorem State.sendReplay_memPoison (s : State) (c : CtxIx) (r : TrapRec) (w : Option ReplyFor) : (s.sendReplay c r w).memPoison = s.memPoison := rfl
@[simp] theorem State.sendReplay_hostMem (s : State) (c : CtxIx) (r : TrapRec) (w : Option ReplyFor) : (s.sendReplay c r w).hostMem = s.hostMem := rfl
@[simp] theorem State.sendReplay_peerMem (s : State) (c : CtxIx) (r : TrapRec) (w : Option ReplyFor) : (s.sendReplay c r w).peerMem = s.peerMem := rfl

@[simp] theorem State.resumeAt_cur (s : State) : (s.resumeAt).cur = s.cur := rfl
@[simp] theorem State.resumeAt_gix (s : State) : (s.resumeAt).gix = s.gix := rfl
@[simp] theorem State.resumeAt_spl (s : State) : (s.resumeAt).spl = s.spl := rfl
@[simp] theorem State.resumeAt_sched (s : State) : (s.resumeAt).sched = s.sched := rfl
@[simp] theorem State.resumeAt_tick (s : State) : (s.resumeAt).tick = s.tick := rfl
@[simp] theorem State.resumeAt_blocked (s : State) : (s.resumeAt).blocked = s.blocked := rfl
@[simp] theorem State.resumeAt_stalled (s : State) : (s.resumeAt).stalled = s.stalled := rfl
@[simp] theorem State.resumeAt_halted (s : State) : (s.resumeAt).halted = s.halted := rfl
@[simp] theorem State.resumeAt_reft (s : State) : (s.resumeAt).reft = s.reft := rfl
@[simp] theorem State.resumeAt_cores (s : State) : (s.resumeAt).cores = s.cores := rfl
@[simp] theorem State.resumeAt_clusters (s : State) : (s.resumeAt).clusters = s.clusters := rfl
@[simp] theorem State.resumeAt_dies (s : State) : (s.resumeAt).dies = s.dies := rfl
@[simp] theorem State.resumeAt_queues (s : State) : (s.resumeAt).queues = s.queues := rfl
@[simp] theorem State.resumeAt_counters (s : State) : (s.resumeAt).counters = s.counters := rfl
@[simp] theorem State.resumeAt_pennants (s : State) : (s.resumeAt).pennants = s.pennants := rfl
@[simp] theorem State.resumeAt_slots (s : State) : (s.resumeAt).slots = s.slots := rfl
@[simp] theorem State.resumeAt_ctxs (s : State) : (s.resumeAt).ctxs = s.ctxs := rfl
@[simp] theorem State.resumeAt_parts (s : State) : (s.resumeAt).parts = s.parts := rfl
@[simp] theorem State.resumeAt_mgmt (s : State) : (s.resumeAt).mgmt = s.mgmt := rfl
@[simp] theorem State.resumeAt_monitors (s : State) : (s.resumeAt).monitors = s.monitors := rfl
@[simp] theorem State.resumeAt_pacqs (s : State) : (s.resumeAt).pacqs = s.pacqs := rfl
@[simp] theorem State.resumeAt_homeRed (s : State) : (s.resumeAt).homeRed = s.homeRed := rfl
@[simp] theorem State.resumeAt_lines (s : State) : (s.resumeAt).lines = s.lines := rfl
@[simp] theorem State.resumeAt_uses (s : State) : (s.resumeAt).uses = s.uses := rfl
@[simp] theorem State.resumeAt_completing (s : State) : (s.resumeAt).completing = s.completing := rfl
@[simp] theorem State.resumeAt_slew (s : State) : (s.resumeAt).slew = s.slew := rfl
@[simp] theorem State.resumeAt_outgoing (s : State) : (s.resumeAt).outgoing = s.outgoing := rfl
@[simp] theorem State.resumeAt_launches (s : State) : (s.resumeAt).launches = s.launches := rfl
@[simp] theorem State.resumeAt_graphs (s : State) : (s.resumeAt).graphs = s.graphs := rfl
@[simp] theorem State.resumeAt_readyNodes (s : State) : (s.resumeAt).readyNodes = s.readyNodes := rfl
@[simp] theorem State.resumeAt_saved (s : State) : (s.resumeAt).saved = s.saved := rfl
@[simp] theorem State.resumeAt_nextId (s : State) : (s.resumeAt).nextId = s.nextId := rfl
@[simp] theorem State.resumeAt_nextLid (s : State) : (s.resumeAt).nextLid = s.nextLid := rfl
@[simp] theorem State.resumeAt_mem (s : State) : (s.resumeAt).mem = s.mem := rfl
@[simp] theorem State.resumeAt_memPoison (s : State) : (s.resumeAt).memPoison = s.memPoison := rfl
@[simp] theorem State.resumeAt_hostMem (s : State) : (s.resumeAt).hostMem = s.hostMem := rfl
@[simp] theorem State.resumeAt_peerMem (s : State) : (s.resumeAt).peerMem = s.peerMem := rfl

/-! ## Teams and groups -/

theorem State.setTeam_teams (s : State) (t : Team) : (s.setTeam t).teams = s.teams.set s.cur t := rfl

@[simp] theorem State.setTeam_team (s : State) (t : Team) : (s.setTeam t).team = t := by simp [State.team, State.setTeam]

@[simp] theorem State.modTeam_team (s : State) (f : Team → Team) : (s.modTeam f).team = f s.team := by simp [State.modTeam]

@[simp] theorem State.setTeam_setTeam (s : State) (t u : Team) : (s.setTeam t).setTeam u = s.setTeam u := by
  simp [State.setTeam, Vector.set_set]

@[simp] theorem State.setTeam_self (s : State) : s.setTeam s.team = s := by simp [State.setTeam, State.team]

theorem State.setGrp_team (s : State) (g : Group) : (s.setGrp g).team = { s.team with groups := s.team.groups.set s.gix g } := by
  simp [State.setGrp]

@[simp] theorem State.setGrp_grp (s : State) (g : Group) : (s.setGrp g).grp = g := by
  simp [State.grp, State.setGrp_team]

@[simp] theorem State.modGrp_grp (s : State) (f : Group → Group) : (s.modGrp f).grp = f s.grp := by simp [State.modGrp]

theorem State.modGrp_team (s : State) (f : Group → Group) :
    (s.modGrp f).team = { s.team with groups := s.team.groups.set s.gix (f s.grp) } := by simp [State.modGrp, State.setGrp_team]

@[simp] theorem State.setGrp_setGrp (s : State) (g h : Group) : (s.setGrp g).setGrp h = s.setGrp h := by
  simp [State.setGrp, State.modTeam, Vector.set_set]

@[simp] theorem State.setGrp_self (s : State) : s.setGrp s.grp = s := by
  show s.setTeam { s.team with groups := s.team.groups.set s.gix.val s.team.groups[s.gix.val] } = s
  rw [Vector.set_getElem_self]
  exact s.setTeam_self

@[simp] theorem State.modGrp_modGrp (s : State) (f g : Group → Group) : (s.modGrp f).modGrp g = s.modGrp fun x => g (f x) := by
  simp [State.modGrp]

theorem State.modGrp_setGrp (s : State) (g : Group) (f : Group → Group) : (s.setGrp g).modGrp f = s.setGrp (f g) := by simp [State.modGrp]

@[simp] theorem State.modTeam_modTeam (s : State) (f g : Team → Team) : (s.modTeam f).modTeam g = s.modTeam fun x => g (f x) := by
  simp [State.modTeam]

@[simp] theorem State.setGrp_team_live (s : State) (g : Group) : (s.setGrp g).team.live = s.team.live := by rw [State.setGrp_team]
@[simp] theorem State.setGrp_team_launch (s : State) (g : Group) : (s.setGrp g).team.launch = s.team.launch := by rw [State.setGrp_team]
@[simp] theorem State.setGrp_team_launchId (s : State) (g : Group) : (s.setGrp g).team.launchId = s.team.launchId := by rw [State.setGrp_team]
@[simp] theorem State.setGrp_team_ctx (s : State) (g : Group) : (s.setGrp g).team.ctx = s.team.ctx := by rw [State.setGrp_team]
@[simp] theorem State.setGrp_team_part (s : State) (g : Group) : (s.setGrp g).team.part = s.team.part := by rw [State.setGrp_team]
@[simp] theorem State.setGrp_team_coord (s : State) (g : Group) : (s.setGrp g).team.coord = s.team.coord := by rw [State.setGrp_team]
@[simp] theorem State.setGrp_team_dims (s : State) (g : Group) : (s.setGrp g).team.dims = s.team.dims := by rw [State.setGrp_team]
@[simp] theorem State.setGrp_team_obj (s : State) (g : Group) : (s.setGrp g).team.obj = s.team.obj := by rw [State.setGrp_team]
@[simp] theorem State.setGrp_team_handler (s : State) (g : Group) : (s.setGrp g).team.handler = s.team.handler := by rw [State.setGrp_team]
@[simp] theorem State.setGrp_team_prio (s : State) (g : Group) : (s.setGrp g).team.prio = s.team.prio := by rw [State.setGrp_team]
@[simp] theorem State.setGrp_team_scope (s : State) (g : Group) : (s.setGrp g).team.scope = s.team.scope := by rw [State.setGrp_team]
@[simp] theorem State.setGrp_team_race (s : State) (g : Group) : (s.setGrp g).team.race = s.team.race := by rw [State.setGrp_team]
@[simp] theorem State.setGrp_team_raceTrap (s : State) (g : Group) : (s.setGrp g).team.raceTrap = s.team.raceTrap := by rw [State.setGrp_team]
@[simp] theorem State.setGrp_team_core (s : State) (g : Group) : (s.setGrp g).team.core = s.team.core := by rw [State.setGrp_team]
@[simp] theorem State.setGrp_team_slots (s : State) (g : Group) : (s.setGrp g).team.slots = s.team.slots := by rw [State.setGrp_team]
@[simp] theorem State.setGrp_team_spadBase (s : State) (g : Group) : (s.setGrp g).team.spadBase = s.team.spadBase := by rw [State.setGrp_team]
@[simp] theorem State.setGrp_team_spadSize (s : State) (g : Group) : (s.setGrp g).team.spadSize = s.team.spadSize := by rw [State.setGrp_team]
@[simp] theorem State.setGrp_team_index (s : State) (g : Group) : (s.setGrp g).team.index = s.team.index := by rw [State.setGrp_team]
@[simp] theorem State.setGrp_team_spad (s : State) (g : Group) : (s.setGrp g).team.spad = s.team.spad := by rw [State.setGrp_team]
@[simp] theorem State.setGrp_team_spadPoison (s : State) (g : Group) : (s.setGrp g).team.spadPoison = s.team.spadPoison := by rw [State.setGrp_team]
@[simp] theorem State.setGrp_team_pool (s : State) (g : Group) : (s.setGrp g).team.pool = s.team.pool := by rw [State.setGrp_team]
@[simp] theorem State.setGrp_team_poolGrp (s : State) (g : Group) : (s.setGrp g).team.poolGrp = s.team.poolGrp := by rw [State.setGrp_team]
@[simp] theorem State.setGrp_team_tiles (s : State) (g : Group) : (s.setGrp g).team.tiles = s.team.tiles := by rw [State.setGrp_team]
@[simp] theorem State.setGrp_team_accs (s : State) (g : Group) : (s.setGrp g).team.accs = s.team.accs := by rw [State.setGrp_team]
@[simp] theorem State.setGrp_team_tabs (s : State) (g : Group) : (s.setGrp g).team.tabs = s.team.tabs := by rw [State.setGrp_team]
@[simp] theorem State.setGrp_team_hoists (s : State) (g : Group) : (s.setGrp g).team.hoists = s.team.hoists := by rw [State.setGrp_team]
@[simp] theorem State.setGrp_team_bars (s : State) (g : Group) : (s.setGrp g).team.bars = s.team.bars := by rw [State.setGrp_team]
@[simp] theorem State.setGrp_team_rowCnt (s : State) (g : Group) : (s.setGrp g).team.rowCnt = s.team.rowCnt := by rw [State.setGrp_team]
@[simp] theorem State.setGrp_team_filling (s : State) (g : Group) : (s.setGrp g).team.filling = s.team.filling := by rw [State.setGrp_team]
@[simp] theorem State.setGrp_team_epoch (s : State) (g : Group) : (s.setGrp g).team.epoch = s.team.epoch := by rw [State.setGrp_team]
@[simp] theorem State.setGrp_team_shadow (s : State) (g : Group) : (s.setGrp g).team.shadow = s.team.shadow := by rw [State.setGrp_team]
@[simp] theorem State.setGrp_team_cmds (s : State) (g : Group) : (s.setGrp g).team.cmds = s.team.cmds := by rw [State.setGrp_team]
@[simp] theorem State.setGrp_team_reqs (s : State) (g : Group) : (s.setGrp g).team.reqs = s.team.reqs := by rw [State.setGrp_team]
@[simp] theorem State.setGrp_team_mxAge (s : State) (g : Group) : (s.setGrp g).team.mxAge = s.team.mxAge := by rw [State.setGrp_team]
@[simp] theorem State.setGrp_team_waitSince (s : State) (g : Group) : (s.setGrp g).team.waitSince = s.team.waitSince := by rw [State.setGrp_team]
@[simp] theorem State.setGrp_team_errs (s : State) (g : Group) : (s.setGrp g).team.errs = s.team.errs := by rw [State.setGrp_team]
@[simp] theorem State.modGrp_team_live (s : State) (f : Group → Group) : (s.modGrp f).team.live = s.team.live := by rw [State.modGrp_team]
@[simp] theorem State.modGrp_team_launch (s : State) (f : Group → Group) : (s.modGrp f).team.launch = s.team.launch := by rw [State.modGrp_team]
@[simp] theorem State.modGrp_team_launchId (s : State) (f : Group → Group) : (s.modGrp f).team.launchId = s.team.launchId := by rw [State.modGrp_team]
@[simp] theorem State.modGrp_team_ctx (s : State) (f : Group → Group) : (s.modGrp f).team.ctx = s.team.ctx := by rw [State.modGrp_team]
@[simp] theorem State.modGrp_team_part (s : State) (f : Group → Group) : (s.modGrp f).team.part = s.team.part := by rw [State.modGrp_team]
@[simp] theorem State.modGrp_team_coord (s : State) (f : Group → Group) : (s.modGrp f).team.coord = s.team.coord := by rw [State.modGrp_team]
@[simp] theorem State.modGrp_team_dims (s : State) (f : Group → Group) : (s.modGrp f).team.dims = s.team.dims := by rw [State.modGrp_team]
@[simp] theorem State.modGrp_team_obj (s : State) (f : Group → Group) : (s.modGrp f).team.obj = s.team.obj := by rw [State.modGrp_team]
@[simp] theorem State.modGrp_team_handler (s : State) (f : Group → Group) : (s.modGrp f).team.handler = s.team.handler := by rw [State.modGrp_team]
@[simp] theorem State.modGrp_team_prio (s : State) (f : Group → Group) : (s.modGrp f).team.prio = s.team.prio := by rw [State.modGrp_team]
@[simp] theorem State.modGrp_team_scope (s : State) (f : Group → Group) : (s.modGrp f).team.scope = s.team.scope := by rw [State.modGrp_team]
@[simp] theorem State.modGrp_team_race (s : State) (f : Group → Group) : (s.modGrp f).team.race = s.team.race := by rw [State.modGrp_team]
@[simp] theorem State.modGrp_team_raceTrap (s : State) (f : Group → Group) : (s.modGrp f).team.raceTrap = s.team.raceTrap := by rw [State.modGrp_team]
@[simp] theorem State.modGrp_team_core (s : State) (f : Group → Group) : (s.modGrp f).team.core = s.team.core := by rw [State.modGrp_team]
@[simp] theorem State.modGrp_team_slots (s : State) (f : Group → Group) : (s.modGrp f).team.slots = s.team.slots := by rw [State.modGrp_team]
@[simp] theorem State.modGrp_team_spadBase (s : State) (f : Group → Group) : (s.modGrp f).team.spadBase = s.team.spadBase := by rw [State.modGrp_team]
@[simp] theorem State.modGrp_team_spadSize (s : State) (f : Group → Group) : (s.modGrp f).team.spadSize = s.team.spadSize := by rw [State.modGrp_team]
@[simp] theorem State.modGrp_team_index (s : State) (f : Group → Group) : (s.modGrp f).team.index = s.team.index := by rw [State.modGrp_team]
@[simp] theorem State.modGrp_team_spad (s : State) (f : Group → Group) : (s.modGrp f).team.spad = s.team.spad := by rw [State.modGrp_team]
@[simp] theorem State.modGrp_team_spadPoison (s : State) (f : Group → Group) : (s.modGrp f).team.spadPoison = s.team.spadPoison := by rw [State.modGrp_team]
@[simp] theorem State.modGrp_team_pool (s : State) (f : Group → Group) : (s.modGrp f).team.pool = s.team.pool := by rw [State.modGrp_team]
@[simp] theorem State.modGrp_team_poolGrp (s : State) (f : Group → Group) : (s.modGrp f).team.poolGrp = s.team.poolGrp := by rw [State.modGrp_team]
@[simp] theorem State.modGrp_team_tiles (s : State) (f : Group → Group) : (s.modGrp f).team.tiles = s.team.tiles := by rw [State.modGrp_team]
@[simp] theorem State.modGrp_team_accs (s : State) (f : Group → Group) : (s.modGrp f).team.accs = s.team.accs := by rw [State.modGrp_team]
@[simp] theorem State.modGrp_team_tabs (s : State) (f : Group → Group) : (s.modGrp f).team.tabs = s.team.tabs := by rw [State.modGrp_team]
@[simp] theorem State.modGrp_team_hoists (s : State) (f : Group → Group) : (s.modGrp f).team.hoists = s.team.hoists := by rw [State.modGrp_team]
@[simp] theorem State.modGrp_team_bars (s : State) (f : Group → Group) : (s.modGrp f).team.bars = s.team.bars := by rw [State.modGrp_team]
@[simp] theorem State.modGrp_team_rowCnt (s : State) (f : Group → Group) : (s.modGrp f).team.rowCnt = s.team.rowCnt := by rw [State.modGrp_team]
@[simp] theorem State.modGrp_team_filling (s : State) (f : Group → Group) : (s.modGrp f).team.filling = s.team.filling := by rw [State.modGrp_team]
@[simp] theorem State.modGrp_team_epoch (s : State) (f : Group → Group) : (s.modGrp f).team.epoch = s.team.epoch := by rw [State.modGrp_team]
@[simp] theorem State.modGrp_team_shadow (s : State) (f : Group → Group) : (s.modGrp f).team.shadow = s.team.shadow := by rw [State.modGrp_team]
@[simp] theorem State.modGrp_team_cmds (s : State) (f : Group → Group) : (s.modGrp f).team.cmds = s.team.cmds := by rw [State.modGrp_team]
@[simp] theorem State.modGrp_team_reqs (s : State) (f : Group → Group) : (s.modGrp f).team.reqs = s.team.reqs := by rw [State.modGrp_team]
@[simp] theorem State.modGrp_team_mxAge (s : State) (f : Group → Group) : (s.modGrp f).team.mxAge = s.team.mxAge := by rw [State.modGrp_team]
@[simp] theorem State.modGrp_team_waitSince (s : State) (f : Group → Group) : (s.modGrp f).team.waitSince = s.team.waitSince := by rw [State.modGrp_team]
@[simp] theorem State.modGrp_team_errs (s : State) (f : Group → Group) : (s.modGrp f).team.errs = s.team.errs := by rw [State.modGrp_team]

/-! ## Registers -/

theorem State.setSr_grp (s : State) (r : Reg) (v : Word) :
    (s.setSr r v).grp = { s.grp with sregs := s.grp.sregs.set r.toNat v, errs := mendErrs (fun e => e == .sreg r) s.grp.errs } := by
  simp [State.setSr]

/-- A scalar register read after a write (spec/03 R56). -/
theorem State.sr_setSr (s : State) (r q : Reg) (v : Word) : (s.setSr r v).sr q = if q = r then v else s.sr q := by
  simp only [State.sr, State.setSr_grp, Vector.getElem_set]
  by_cases h : q = r
  · simp [h]
  · have : ¬ r.toNat = q.toNat := fun e => h (BitVec.eq_of_toNat_eq e.symm)
    simp [h, this]

theorem State.advance_grp (s : State) (n : Nat) :
    (s.advance n).grp = { s.grp with scalCnt := s.grp.scalCnt + BitVec.ofNat 64 (n / 4), prevSpc := s.grp.spc, spc := s.grp.spc + BitVec.ofNat 32 n } := by
  simp only [State.advance, State.goto, State.modGrp_grp, State.countScalar, State.count, State.countAt]
  rfl

@[simp] theorem State.advance_sr (s : State) (n : Nat) (r : Reg) : (s.advance n).sr r = s.sr r := by simp [State.sr, State.advance_grp]

theorem State.jump_grp (s : State) (x : Word) :
    (s.jump x).grp = { s.grp with scalCnt := s.grp.scalCnt + 1, prevSpc := s.grp.spc, spc := x } := by
  simp only [State.jump, State.goto, State.modGrp_grp, State.countScalar, State.count, State.countAt]
  rfl

@[simp] theorem State.jump_sr (s : State) (x : Word) (r : Reg) : (s.jump x).sr r = s.sr r := by simp [State.sr, State.jump_grp]

/-- A q predicate read after a write; q7 reads true (spec/02 R25). -/
theorem State.qr_seven (s : State) : s.qr 7 = true := rfl

/-! ## Updates outside the team in hand -/

@[simp] theorem State.sendFatal_team (s : State) (c : CtxIx) (r : TrapRec) : (s.sendFatal c r).team = s.team := rfl
@[simp] theorem State.sendFatal_grp (s : State) (c : CtxIx) (r : TrapRec) : (s.sendFatal c r).grp = s.grp := rfl
@[simp] theorem State.sendReplay_team (s : State) (c : CtxIx) (r : TrapRec) (w : Option ReplyFor) : (s.sendReplay c r w).team = s.team := rfl
@[simp] theorem State.sendReplay_grp (s : State) (c : CtxIx) (r : TrapRec) (w : Option ReplyFor) : (s.sendReplay c r w).grp = s.grp := rfl
@[simp] theorem State.modCtx_team (s : State) (c : CtxIx) (f : Ctx → Ctx) : (s.modCtx c f).team = s.team := rfl
@[simp] theorem State.modCtx_grp (s : State) (c : CtxIx) (f : Ctx → Ctx) : (s.modCtx c f).grp = s.grp := rfl
@[simp] theorem State.modCore_team (s : State) (c : CoreIx) (f : CoreSt → CoreSt) : (s.modCore c f).team = s.team := rfl
@[simp] theorem State.modCore_grp (s : State) (c : CoreIx) (f : CoreSt → CoreSt) : (s.modCore c f).grp = s.grp := rfl
@[simp] theorem State.modDie_team (s : State) (d : DieIx) (f : DieSt → DieSt) : (s.modDie d f).team = s.team := rfl
@[simp] theorem State.modDie_grp (s : State) (d : DieIx) (f : DieSt → DieSt) : (s.modDie d f).grp = s.grp := rfl
@[simp] theorem State.modCluster_team (s : State) (c : Fin 40) (f : ClusterSt → ClusterSt) : (s.modCluster c f).team = s.team := rfl
@[simp] theorem State.modCluster_grp (s : State) (c : Fin 40) (f : ClusterSt → ClusterSt) : (s.modCluster c f).grp = s.grp := rfl
@[simp] theorem State.count_team (s : State) (k : Fin 16) (n : Nat) : (s.count k n).team = s.team := rfl
@[simp] theorem State.count_grp (s : State) (k : Fin 16) (n : Nat) : (s.count k n).grp = s.grp := rfl
@[simp] theorem State.countAt_team (s : State) (c : CoreIx) (k : Fin 16) (n : Nat) : (s.countAt c k n).team = s.team := rfl
@[simp] theorem State.countAt_grp (s : State) (c : CoreIx) (k : Fin 16) (n : Nat) : (s.countAt c k n).grp = s.grp := rfl

@[simp] theorem Team.dropWaiters_groups (t : Team) (g : GrpIx) : (t.dropWaiters g).groups = t.groups := rfl
@[simp] theorem Team.dropWaiters_spad (t : Team) (g : GrpIx) : (t.dropWaiters g).spad = t.spad := rfl
@[simp] theorem Team.dropWaiters_tiles (t : Team) (g : GrpIx) : (t.dropWaiters g).tiles = t.tiles := rfl

end Sys2Proof.Machine
end

