-- ==== Sys2Proof/Laws/Scalar.lean ====
section
/-! SUPPORT. What the shared ends of scalar words do, once for all: a register written, a jump, a trap. -/

namespace Sys2Proof.Machine

open Sys2Proof.Safety

theorem State.advance_cores (s : State) (n : Nat) (c : CoreIx) :
    (s.advance n).cores[c] = { s.cores[c] with cnt := (s.advance n).cores[c].cnt } := by
  simp only [State.advance, State.goto, State.modGrp, State.countScalar, State.count, State.countAt, State.modCore, State.setGrp, State.modTeam,
    State.setTeam, Fin.getElem_fin, Vector.getElem_set]
  by_cases h : (s.teams[s.cur]).core.val = c.val
  · have : s.team.core.val = c.val := h
    simp only [this]
    simp
  · have : ¬ s.team.core.val = c.val := h
    simp only [this]
    simp

/-- A scalar word that ends by moving on after the group in hand changed its own registers. -/
theorem groupOnly_advance (s : State) (g : Group) (n : Nat) : groupOnly s ((s.setGrp g).advance n) := by
  constructor
  · simp only [State.advance, State.goto, State.countScalar, State.count, State.countAt, State.modCore, State.modGrp, State.setGrp, State.modTeam,
      State.setTeam, State.grp, State.team]
    simp [Vector.set_set]
  · intro c
    exact State.advance_cores (s.setGrp g) n c

theorem groupOnly_jump (s : State) (g : Group) (x : Word) : groupOnly s ((s.setGrp g).jump x) := by
  constructor
  · simp only [State.jump, State.goto, State.countScalar, State.count, State.countAt, State.modCore, State.modGrp, State.setGrp, State.modTeam,
      State.setTeam, State.grp, State.team]
    simp [Vector.set_set]
  · intro c
    exact State.advance_cores (s.setGrp g) 4 c

/-- Everything a scalar word that writes one register does. -/
theorem scalarPut_end (s : State) (n : Nat) (d : Reg) (v : Word) :
    ∃ t, s.scalarPut n d v = .next t ∧ t.sr d = v ∧ scalarEnd s t n [d] := by
  refine ⟨_, rfl, ?_, ?_, ?_, ?_⟩
  · simp [State.sr_setSr]
  · exact groupOnly_advance s _ n
  · simp [wordDone, State.advance_grp, State.setSr_grp]
  · intro r hr
    simp only [List.mem_singleton] at hr
    simp [State.sr_setSr, hr]

end Sys2Proof.Machine
end

