-- ==== Sys2Proof/Laws/Lane.lean ====
section
/-! SUPPORT. What the shared shapes of lane words do, once for all: the chain they open, hold or close, the results they write, and what they leave alone. -/

namespace Sys2Proof.Machine

open Sys2Proof.Safety


@[simp] theorem State.countLane_grp (s : State) : s.countLane.grp = { s.grp with laneCnt := s.grp.laneCnt + 1 } := by
  simp [State.countLane]

@[simp] theorem State.sendHw_team (s : State) (r : TrapRec) : (s.sendHw r).team = s.team := by
  unfold State.sendHw; split <;> simp
@[simp] theorem State.sendHw_grp (s : State) (r : TrapRec) : (s.sendHw r).grp = s.grp := by
  unfold State.sendHw; split <;> simp
@[simp] theorem State.sendHw_mem (s : State) (r : TrapRec) : (s.sendHw r).mem = s.mem := by
  unfold State.sendHw; split <;> simp

@[simp] theorem State.dropWaits_mem (s : State) : s.dropWaits.mem = s.mem := rfl
@[simp] theorem State.dropWaits_hostMem (s : State) : s.dropWaits.hostMem = s.hostMem := rfl
@[simp] theorem State.dropWaits_peerMem (s : State) : s.dropWaits.peerMem = s.peerMem := rfl
@[simp] theorem State.dropWaits_cur (s : State) : s.dropWaits.cur = s.cur := rfl
@[simp] theorem State.dropWaits_gix (s : State) : s.dropWaits.gix = s.gix := rfl
@[simp] theorem State.sendHw_cur (s : State) (r : TrapRec) : (s.sendHw r).cur = s.cur := by unfold State.sendHw; split <;> simp
@[simp] theorem State.sendHw_gix (s : State) (r : TrapRec) : (s.sendHw r).gix = s.gix := by unfold State.sendHw; split <;> simp
@[simp] theorem State.sendHw_hostMem (s : State) (r : TrapRec) : (s.sendHw r).hostMem = s.hostMem := by unfold State.sendHw; split <;> simp
@[simp] theorem State.sendHw_peerMem (s : State) (r : TrapRec) : (s.sendHw r).peerMem = s.peerMem := by unfold State.sendHw; split <;> simp

@[simp] theorem State.dropWaits_grp (s : State) : s.dropWaits.grp = s.grp.dropWaits := by
  unfold State.dropWaits
  rw [State.modGrp_grp]
  rfl

theorem State.dropWaits_team (s : State) : s.dropWaits.team = { s.team with groups := s.team.groups.set s.gix s.grp.dropWaits } := by
  unfold State.dropWaits
  rw [State.modGrp_team]
  rfl

@[simp] theorem State.dropWaits_team_spad (s : State) : s.dropWaits.team.spad = s.team.spad := by rw [State.dropWaits_team]
@[simp] theorem State.dropWaits_team_tiles (s : State) : s.dropWaits.team.tiles = s.team.tiles := by rw [State.dropWaits_team]

theorem State.modTeam_grp (s : State) (f : Team → Team) : (s.modTeam f).grp = (f s.team).groups[s.gix] := by
  simp [State.grp]

/-- What a trap of the group in hand leaves as it was, with or without a handler. -/
theorem State.takeTrap_keeps (s : State) (r : TrapRec) (epc elpc : Word) (k : Option SplitIx) :
    storesNothing s (s.takeTrap r epc elpc k) ∧
    (s.takeTrap r epc elpc k).grp =
      { s.grp.dropWaits with phase := (s.takeTrap r epc elpc k).grp.phase, priv := (s.takeTrap r epc elpc k).grp.priv,
                             handler := (s.takeTrap r epc elpc k).grp.handler, prevSpc := (s.takeTrap r epc elpc k).grp.prevSpc,
                             spc := (s.takeTrap r epc elpc k).grp.spc } := by
  unfold State.takeTrap storesNothing
  split
  · simp [Group.dropWaits]
  · cases h : s.handlerFor r.cause <;> simp [State.modTeam_grp, State.modGrp_team, State.modTeam_team, State.dropWaits_team, Group.dropWaits]

/-- The chain that a word of split p finds open, or opens. -/
def chainOf (s : State) (p : Split) : Chain :=
  match s.grp.chain with
  | some c => c
  | none => { split := s.spl, head := p.lpc, pos := 0, reads := [], savedV := s.grp.vregs, savedP := s.grp.preds, savedR := s.grp.blockResults,
              savedE := s.grp.errs, flags := [], hash := none }

theorem opened_grp (s : State) (p : Split) :
    (opened s p).grp = { s.grp with latches := (opened s p).grp.latches, errs := (opened s p).grp.errs, chain := some (chainOf s p) } := by
  unfold opened State.openChain chainOf
  simp only [State.modGrp_grp]
  cases h : s.grp.chain <;> simp
  rw [← h]

theorem opened_setGrp (s : State) (p : Split) (g : Group) : (opened s p).setGrp g = s.setGrp g := by
  simp [opened, State.openChain, State.modGrp]

theorem chainFlags_of (s : State) (p : Split) : (chainOf s p).flags.foldl (fun a f => a ||| joinFlags f.2) 0 = chainFlags s := by
  unfold chainOf chainFlags
  cases s.grp.chain <;> rfl

theorem groupOnly_countLane (s : State) (g h : Group) : groupOnly s ((((s.setGrp g).count 0 1)).setGrp h) := by
  constructor
  · simp only [State.count, State.countAt, State.modCore, State.setGrp, State.modTeam, State.setTeam, State.grp, State.team]
    simp [Vector.set_set]
  · intro c
    have hc : ((s.setGrp g).count 0 1).cores[c] = { s.cores[c] with cnt := ((s.setGrp g).count 0 1).cores[c].cnt } := by
      simp only [State.count, State.countAt, State.modCore, Fin.getElem_fin, Vector.getElem_set, State.setGrp_cores, State.setGrp_team_core]
      by_cases h : s.team.core.val = c.val
      · simp only [h]; simp
      · simp [h]
    exact hc

/-- What the end of a chain leaves, trap or no trap. -/
theorem State.closeChain_keeps (s : State) (fls : List (Nat × List (Nat × BitVec 5))) (head : Word) (pos : Nat) (x : Option (Cause × Fin 64 × DWord)) :
    let t := s.closeChain fls head pos x
    let all := fls.foldl (fun a f => a ||| joinFlags f.2) 0
    storesNothing s t ∧ t.grp.vregs = s.grp.vregs ∧ t.grp.preds = s.grp.preds ∧ t.grp.latches = s.grp.latches ∧ t.grp.splits = s.grp.splits ∧
    t.grp.laneCnt = s.grp.laneCnt ∧ t.grp.chain = none ∧ t.grp.blocks = (s.grp.modBlock fun b => { b with flags := b.flags ||| all }).blocks ∧
    (all &&& s.grp.enables.extractLsb' 0 5 = 0 → x = none →
      t = s.modGrp fun g => { g.modBlock fun b => { b with flags := b.flags ||| all } with chain := none }) := by
  intro t all
  have key (t' : State) (r : TrapRec) (epc elpc : Word) (k : Option SplitIx)
      (ht : t' = (s.modGrp fun g => { g.modBlock fun b => { b with flags := b.flags ||| all } with chain := none }).takeTrap r epc elpc k) :
      storesNothing s t' ∧ t'.grp.vregs = s.grp.vregs ∧ t'.grp.preds = s.grp.preds ∧ t'.grp.latches = s.grp.latches ∧ t'.grp.splits = s.grp.splits ∧
      t'.grp.laneCnt = s.grp.laneCnt ∧ t'.grp.chain = none ∧ t'.grp.blocks = (s.grp.modBlock fun b => { b with flags := b.flags ||| all }).blocks := by
    obtain ⟨h1, h2⟩ := State.takeTrap_keeps (s.modGrp fun g => { g.modBlock fun b => { b with flags := b.flags ||| all } with chain := none }) r epc elpc k
    rw [← ht] at h1 h2
    simp only [storesNothing, State.modGrp_grp, State.modGrp_team_spad, State.modGrp_team_tiles, Group.modBlock, Group.dropWaits, State.modGrp_mem, State.modGrp_hostMem, State.modGrp_peerMem] at h1 h2 ⊢
    exact ⟨h1, by rw [h2], by rw [h2], by rw [h2], by rw [h2], by rw [h2], by rw [h2], by rw [h2]⟩
  cases hc : flagCause (all &&& s.grp.enables.extractLsb' 0 5) with
  | some c =>
    have ht : ∃ r e l k, t = (s.modGrp fun g => { g.modBlock fun b => { b with flags := b.flags ||| all } with chain := none }).takeTrap r e l k :=
      ⟨_, _, _, _, by simp only [t, State.closeChain]; rw [hc]⟩
    obtain ⟨r, e, l, k, ht⟩ := ht
    obtain ⟨h1, h2, h3, h4, h5, h6, h7, h8⟩ := key t r e l k ht
    refine ⟨h1, h2, h3, h4, h5, h6, h7, h8, fun h0 _ => ?_⟩
    rw [h0, show flagCause 0 = none by decide] at hc; cases hc
  | none =>
    cases x with
    | some y =>
      have ht : ∃ r e l k, t = (s.modGrp fun g => { g.modBlock fun b => { b with flags := b.flags ||| all } with chain := none }).takeTrap r e l k :=
        ⟨_, _, _, _, by simp only [t, State.closeChain]; rw [hc]⟩
      obtain ⟨r, e, l, k, ht⟩ := ht
      obtain ⟨h1, h2, h3, h4, h5, h6, h7, h8⟩ := key t r e l k ht
      exact ⟨h1, h2, h3, h4, h5, h6, h7, h8, fun _ h => by simp at h⟩
    | none =>
      have ht : t = s.modGrp fun g => { g.modBlock fun b => { b with flags := b.flags ||| all } with chain := none } := by
        simp only [t, State.closeChain]; rw [hc]
      rw [ht]
      simp [storesNothing, Group.modBlock]

theorem laneDone_fell (s : State) (p : Split) (w : LaneWord) (opc : Nat) (fl : List (Nat × BitVec 5)) (g : Group) (hin : inHand s p)
    (hg : g = { (opened s p).grp with vregs := g.vregs, preds := g.preds, latches := g.latches, errs := g.errs, late := g.late }) :
    ∃ t, ((opened s p).setGrp g).laneDone opc w fl = .next t ∧ laneFell s t p w (joinFlags fl) ∧ t.grp.vregs = g.vregs ∧ t.grp.preds = g.preds ∧
      t.grp.latches = g.latches := by
  obtain ⟨hs, hc⟩ := hin
  refine ⟨_, rfl, ?_⟩
  rw [opened_setGrp]
  rw [opened_grp] at hg
  have hsp : g.splits = s.grp.splits := by rw [hg]
  have hch : g.chain = some (chainOf s p) := by rw [hg]
  have hst : (s.setGrp g).stepLpc = s.setGrp (g.setLpc s.spl (p.lpc + 1)) := by
    simp [State.stepLpc, State.modGrp, hsp, hs]
  have hsl : g.setLpc s.spl (p.lpc + 1) = { g with splits := s.grp.splits.set s.spl (some { p with lpc := p.lpc + 1, atBar := none }) } := by
    have : p.lpc ≠ p.lpc + 1 := by bv_omega
    have h2 : g.splits[s.spl] = some p := by rw [hsp]; exact hs
    rw [hsp] at h2
    simp only [Group.setLpc, hsp]
    simp only [Fin.getElem_fin] at h2
    have h3 : ¬ p.lpc + 1#32 + 1#32 = p.lpc := by bv_omega
    simp [h2, h3]
  simp only [hst, hsl, State.laneEnd, State.setGrp_grp, hch]
  have hcl (h : Group) : (s.setGrp h).countLane = ((s.setGrp h).count 0 1).setGrp { h with laneCnt := h.laneCnt + 1 } := by
    simp [State.countLane, State.modGrp]
  simp only [hcl]
  cases hh : w.hold
  · simp only [Bool.false_eq_true, if_false]
    generalize hfls : (if fl.isEmpty = true then (chainOf s p).flags else (chainOf s p).flags ++ [((chainOf s p).pos, fl)]) = fls
    have hall : fls.foldl (fun a f => a ||| joinFlags f.2) 0 = chainFlags s ||| joinFlags fl := by
      rw [← hfls]
      cases fl with
      | nil =>
        show (chainOf s p).flags.foldl _ 0 = chainFlags s ||| 0
        rw [chainFlags_of]; simp
      | cons a r =>
        show List.foldl _ 0 ((chainOf s p).flags ++ [_]) = _
        rw [List.foldl_append, chainFlags_of]; rfl
    generalize hX : State.setGrp (State.count _ _ _) _ = X
    obtain ⟨k1, k2, k3, k4, k5, k6, k7, k8, k9⟩ := X.closeChain_keeps fls (chainOf s p).head (chainOf s p).pos none
    rw [hall] at k8 k9
    have hXg : X.grp = { g with splits := s.grp.splits.set s.spl (some { p with lpc := p.lpc + 1, atBar := none }), chain := some (chainOf s p), laneCnt := g.laneCnt + 1 } := by
      rw [← hX]; simp
    refine ⟨⟨?_, ?_⟩, ?_⟩
    · rw [← hX] at k1 ⊢
      simp only [storesNothing, State.setGrp_grp, State.setGrp_team_spad, State.setGrp_team_tiles, State.count_team, State.setGrp_mem, State.setGrp_hostMem, State.setGrp_peerMem] at k1 ⊢
      rw [show s.grp.sregs = g.sregs by rw [hg], show s.grp.qregs = g.qregs by rw [hg]]
      exact k1
    · intro hq
      have hz : (chainFlags s ||| joinFlags fl) &&& X.grp.enables.extractLsb' 0 5 = 0 := by
        have : X.grp.enables = s.grp.enables := by
          rw [hXg]; simp only [Group.enables, Group.block]; rw [hg]
        rw [this]; simpa [noFlagTrap, hh] using hq
      rw [k9 hz rfl]
      refine ⟨?_, by simp [hh], ?_⟩
      · rw [← hX]; simpa [State.modGrp] using groupOnly_countLane s _ _
      · simp only [State.modGrp_grp, hXg, hh, Group.modBlock]
        rw [hg]; simp
    · rw [k2, k3, k4, hXg]; simp
  · simp only [if_true, State.modGrp, State.setGrp_grp, State.setGrp_setGrp]
    refine ⟨⟨?_, ?_⟩, ?_⟩
    · simp [storesNothing, State.setGrp_team]
      rw [hg]; simp
    · intro _
      refine ⟨groupOnly_countLane _ _ _, by simp [hh], ?_⟩
      simp only [State.setGrp_grp, hh, if_true]
      rw [hg]
    · simp

theorem laneWord_inHand (s : State) (p : Split) (w : LaneWord) (k : State → Mask → Host.Outcome State Fault Refusal) (hin : inHand s p) :
    s.laneWord w k = k (opened s p) (lanesOf s p w) := by
  obtain ⟨hs, hc, hp⟩ := hin
  have hf : s.grp.chainFree s.spl = true := by
    unfold Group.chainFree
    cases h : s.grp.chain with
    | none => rfl
    | some c => simp [hc c h]
  unfold State.laneWord
  rw [hs]
  simp [hf, opened, lanesOf]

theorem Group.setVec_get (g : Group) (d : Reg) (e : Mask) (v : Fin 64 → Word) (r : Reg) (l : Fin 64) :
    (g.setVec d e v).vregs[r.toNat][l] = if r = d ∧ e.getLsbD l.val = true then v l else g.vregs[r.toNat][l] := by
  simp only [Group.setVec, Vector.getElem_set]
  by_cases h : r = d
  · subst h; simp
  · have : d.toNat ≠ r.toNat := fun x => h (BitVec.eq_of_toNat_eq x.symm)
    simp [this, h]

theorem Group.setLatch_get (g : Group) (d : BitVec 2) (e : Mask) (v : Fin 64 → DWord) (r : BitVec 2) (l : Fin 64) :
    (g.setLatch d e v).latches[r.toNat][l] = if r = d ∧ e.getLsbD l.val = true then v l else g.latches[r.toNat][l] := by
  simp only [Group.setLatch, Vector.getElem_set]
  by_cases h : r = d
  · subst h; simp
  · have : d.toNat ≠ r.toNat := fun x => h (BitVec.eq_of_toNat_eq x.symm)
    simp [this, h]

@[simp] theorem opened_vregs (s : State) (p : Split) : (opened s p).grp.vregs = s.grp.vregs := by rw [opened_grp]
@[simp] theorem opened_preds (s : State) (p : Split) : (opened s p).grp.preds = s.grp.preds := by rw [opened_grp]

/-- Everything a lane-local word with a 32-bit result does. -/
theorem laneOp32_end (s : State) (p : Split) (opc : Nat) (w : LaneWord) (f : State → Mask → Fin 64 → Word × BitVec 5) (hin : inHand s p) :
    ∃ t, s.laneOp32 opc w f = .next t ∧
      laneFell s t p w (joinFlags (raisedFlags (lanesOf s p w) fun l => (f (opened s p) (lanesOf s p w) l).2)) ∧
      wrote32 s t p w fun l => (f (opened s p) (lanesOf s p w) l).1 := by
  unfold State.laneOp32
  rw [laneWord_inHand s p w _ hin]
  obtain ⟨t, h1, h2, h3, h4, h5⟩ := laneDone_fell s p w opc (raisedFlags (lanesOf s p w) fun l => (f (opened s p) (lanesOf s p w) l).2)
    ((opened s p).grp.result32 w (lanesOf s p w) fun l => (f (opened s p) (lanesOf s p w) l).1) hin
    (by unfold Group.result32; split <;> rfl)
  refine ⟨t, h1, h2, ?_⟩
  have hp : t.grp.preds = s.grp.preds := by
    rw [h4, ← opened_preds s p]; unfold Group.result32; split <;> rfl
  refine ⟨hp, ?_, ?_⟩
  · intro r l
    rw [h3]
    cases hn : w.nowb
    · have : ((opened s p).grp.result32 w (lanesOf s p w) fun l => (f (opened s p) (lanesOf s p w) l).1).vregs =
        ((opened s p).grp.setVec w.dst (lanesOf s p w) fun l => (f (opened s p) (lanesOf s p w) l).1).vregs := by
        simp [Group.result32, hn, Group.setLatch]
      simp only [this, Group.setVec_get, opened_vregs]
      simp
    · have : ((opened s p).grp.result32 w (lanesOf s p w) fun l => (f (opened s p) (lanesOf s p w) l).1).vregs = s.grp.vregs := by
        simp [Group.result32, hn, Group.setLatch]
      simp [this]
  · intro b l
    rw [h5]
    simp only [Group.result32, Group.setLatch_get]
    by_cases hb : b = w.dlat ∧ (lanesOf s p w).getLsbD l.val = true
    · simp [hb]
    · simp only [if_neg hb]; split <;> rfl

theorem Group.result64_shape (g : Group) (w : LaneWord) (e : Mask) (v : Fin 64 → DWord) :
    g.result64 w e v = { g with vregs := (g.result64 w e v).vregs, latches := (g.result64 w e v).latches, errs := (g.result64 w e v).errs } := by
  cases hn : w.nowb <;> simp [Group.result64, hn, Group.setLatch, Group.setVec]

/-- Everything a lane-local word with a 64-bit result does. -/
theorem laneOp64_end (s : State) (p : Split) (opc : Nat) (w : LaneWord) (f : State → Mask → Fin 64 → DWord × BitVec 5) (hin : inHand s p) :
    ∃ t, s.laneOp64 opc w f = .next t ∧
      laneFell s t p w (joinFlags (raisedFlags (lanesOf s p w) fun l => (f (opened s p) (lanesOf s p w) l).2)) ∧
      wrote64 s t p w fun l => (f (opened s p) (lanesOf s p w) l).1 := by
  unfold State.laneOp64
  rw [laneWord_inHand s p w _ hin]
  obtain ⟨t, h1, h2, h3, h4, h5⟩ := laneDone_fell s p w opc (raisedFlags (lanesOf s p w) fun l => (f (opened s p) (lanesOf s p w) l).2)
    ((opened s p).grp.result64 w (lanesOf s p w) fun l => (f (opened s p) (lanesOf s p w) l).1) hin
    (by rw [Group.result64_shape])
  refine ⟨t, h1, h2, ?_⟩
  have hp : t.grp.preds = s.grp.preds := by
    rw [h4, ← opened_preds s p, Group.result64_shape]
  refine ⟨hp, ?_, ?_⟩
  · intro r l
    rw [h3]
    generalize (fun l => (f (opened s p) (lanesOf s p w) l).1) = v
    cases hn : w.nowb
    · have : ((opened s p).grp.result64 w (lanesOf s p w) v).vregs =
        (((opened s p).grp.setVec w.dst (lanesOf s p w) fun l => (v l).extractLsb' 0 32).setVec (w.dst + 1) (lanesOf s p w) fun l =>
          (v l).extractLsb' 32 32).vregs := by
        simp [Group.result64, hn, Group.setLatch]
      rw [this, Group.setVec_get, Group.setVec_get, opened_vregs]
      have hd : w.dst ≠ w.dst + 1 := by bv_omega
      by_cases h1 : r = w.dst
      · subst h1; simp
      · by_cases h2 : r = w.dst + 1 <;> simp [h1, h2, and_comm]
    · have : ((opened s p).grp.result64 w (lanesOf s p w) v).vregs = s.grp.vregs := by
        simp [Group.result64, hn, Group.setLatch]
      simp [this]
  · intro b l
    rw [h5]
    simp only [Group.result64, Group.setLatch_get]
    by_cases hb : b = w.dlat ∧ (lanesOf s p w).getLsbD l.val = true
    · simp [hb]
    · simp only [if_neg hb]; split <;> rfl

theorem mask_blend (v e x : Mask) (l : Fin 64) :
    ((v &&& e) ||| (x &&& ~~~e)).getLsbD l.val = if e.getLsbD l.val = true then v.getLsbD l.val else x.getLsbD l.val := by
  have hl : l.val < 64 := l.isLt
  rw [BitVec.getLsbD_or, BitVec.getLsbD_and, BitVec.getLsbD_and, BitVec.getLsbD_not]
  cases e.getLsbD l.val <;> simp [hl]

theorem Group.setPred_get (g : Group) (k j : Nat) (e v : Mask) (l : Fin 64) :
    ((g.setPred k e v).pred j).getLsbD l.val = if j = k ∧ k < 7 ∧ e.getLsbD l.val = true then v.getLsbD l.val else (g.pred j).getLsbD l.val := by
  unfold Group.setPred Group.pred
  by_cases hk : k < 7
  · by_cases hj : j < 7
    · simp only [hk, hj, dif_pos, Vector.getElem_set]
      by_cases h : k = j
      · subst h
        rw [if_pos rfl, mask_blend]
        simp
      · have : ¬ j = k := fun x => h x.symm
        simp [h, this]
    · have : ¬ j = k := by omega
      simp [hk, hj, this]
  · simp [hk]

theorem maskOf_get (f : Fin 64 → Bool) (l : Fin 64) : (maskOf f).getLsbD l.val = f l := by
  have key : ∀ k, k ≤ 64 → ∀ n, n = ((List.finRange 64).take k).foldl (fun n l => if f l then n + 2 ^ l.val else n) 0 →
      n < 2 ^ k ∧ ∀ j : Fin 64, n.testBit j.val = (decide (j.val < k) && f j) := by
    intro k
    induction k with
    | zero => intro _ n hn; subst hn; simp
    | succ k ih =>
      intro hk n hn
      have hk' : k < (List.finRange 64).length := by rw [List.length_finRange]; omega
      obtain ⟨h1, h2⟩ := ih (by omega) _ rfl
      rw [List.take_add_one, List.getElem?_eq_getElem hk', List.foldl_append] at hn
      simp only [Option.toList_some, List.foldl_cons, List.foldl_nil, List.getElem_finRange] at hn
      generalize ((List.finRange 64).take k).foldl (fun n l => if f l then n + 2 ^ l.val else n) 0 = m at h1 h2 hn
      replace hn : n = if f ⟨k, by omega⟩ then m + 2 ^ k else m := hn
      have hp : 2 ^ (k + 1) = 2 ^ k + 2 ^ k := by rw [Nat.pow_succ]; omega
      rw [hn]
      clear hn
      constructor
      · split <;> omega
      · intro j
        by_cases hjk : j.val < k
        · have : j.val < k + 1 := by omega
          split
          · rw [Nat.add_comm, Nat.testBit_two_pow_add_gt hjk, h2]; simp [hjk, this]
          · rw [h2]; simp [hjk, this]
        · by_cases hj : j.val = k
          · have hm : m.testBit k = false := Nat.testBit_lt_two_pow h1
            have hjf : f j = f ⟨k, by omega⟩ := by congr 1; exact Fin.ext hj
            rw [hjf, hj]
            split
            · rename_i hf; rw [Nat.add_comm, Nat.testBit_two_pow_add_eq, hm]; simp [hf]
            · rename_i hf; rw [hm]; simp [hf]
          · have : ¬ j.val < k + 1 := by omega
            have hle : 2 ^ (k + 1) ≤ 2 ^ j.val := Nat.pow_le_pow_right (by omega) (by omega)
            rw [Nat.testBit_lt_two_pow]
            · simp [this]
            · split <;> omega
  have := (key 64 (by omega) _ rfl).2 l
  unfold maskOf
  rw [BitVec.getLsbD_ofNat]
  rw [List.take_of_length_le (by simp)] at this
  rw [this]
  simp

/-- Everything a lane-local word with a predicate result does. -/
theorem laneOpPred_end (s : State) (p : Split) (opc : Nat) (w : LaneWord) (k : Nat) (f : State → Fin 64 → Bool × BitVec 5) (hin : inHand s p) :
    ∃ t, s.laneOpPred opc w k f = .next t ∧
      laneFell s t p w (joinFlags (raisedFlags (lanesOf s p w) fun l => (f (opened s p) l).2)) ∧
      wrotePred s t p w k fun l => (f (opened s p) l).1 := by
  unfold State.laneOpPred
  rw [laneWord_inHand s p w _ hin]
  obtain ⟨t, h1, h2, h3, h4, h5⟩ := laneDone_fell s p w opc (raisedFlags (lanesOf s p w) fun l => (f (opened s p) l).2)
    ((opened s p).grp.setPred k (lanesOf s p w) (maskOf fun l => (f (opened s p) l).1)) hin
    (by unfold Group.setPred; split <;> rfl)
  refine ⟨t, h1, h2, ?_, ?_⟩
  · rw [h3, ← opened_vregs s p]; unfold Group.setPred; split <;> rfl
  · intro j l
    have : t.grp.pred j = ((opened s p).grp.setPred k (lanesOf s p w) (maskOf fun l => (f (opened s p) l).1)).pred j := by
      simp only [Group.pred, h4]
    rw [this, Group.setPred_get, maskOf_get]
    simp only [Group.pred, opened_preds]

/-- Everything a lane-local word with a result of the width of its type does. -/
theorem laneOp_end (s : State) (p : Split) (opc : Nat) (w : LaneWord) (f : State → Mask → Fin 64 → Nat × BitVec 5) (hin : inHand s p) :
    ∃ t, s.laneOp opc w f = .next t ∧
      laneFell s t p w (joinFlags (raisedFlags (lanesOf s p w) fun l => (f (opened s p) (lanesOf s p w) l).2)) ∧
      wrote s t p w fun l => (f (opened s p) (lanesOf s p w) l).1 := by
  unfold State.laneOp wrote
  split
  · exact laneOp64_end s p opc w _ hin
  · exact laneOp32_end s p opc w _ hin

/-- A word that raises no flag in any lane raises none. -/
theorem joinFlags_none (e : Mask) : joinFlags (raisedFlags e fun _ => 0) = 0 := by
  have : raisedFlags e (fun _ => 0) = [] := by simp [raisedFlags]
  rw [this]; rfl

end Sys2Proof.Machine
end

