-- ==== Sys2Proof/Laws/Memory.lean ====
section
/-! SUPPORT. The laws of byte stores: reads after writes, and the canonical form that every operation keeps. -/

namespace Sys2Proof.Machine

theorem Memory.write_nil (a : Nat) (v : Byte) : Memory.write [] a v = if v = 0#8 then [] else [(a, v)] := rfl

theorem Memory.write_cons (k : Nat) (b : Byte) (r : Mem) (a : Nat) (v : Byte) :
    Memory.write ((k, b) :: r) a v =
      if a < k then (if v = 0#8 then (k, b) :: r else (a, v) :: (k, b) :: r)
      else if a = k then (if v = 0#8 then r else (a, v) :: r)
      else (k, b) :: Memory.write r a v := rfl

/-- The bound of wfAbove as a condition on one address. -/
def Memory.above (lo : Option Nat) (k : Nat) : Prop := match lo with | none => True | some a => a < k

theorem Memory.wfAbove_cons (lo : Option Nat) (k : Nat) (b : Byte) (r : Mem) :
    Memory.wfAbove lo ((k, b) :: r) = true ↔ Memory.above lo k ∧ b ≠ 0 ∧ Memory.wfAbove (some k) r = true := by
  cases lo <;> simp [Memory.wfAbove, Memory.above, and_assoc]

theorem Memory.wfAbove_lower {lo : Option Nat} {k : Nat} {m : Mem} (hk : Memory.above lo k) (h : Memory.wfAbove (some k) m = true) :
    Memory.wfAbove lo m = true := by
  cases m with
  | nil => simp [Memory.wfAbove]
  | cons x r =>
    rw [Memory.wfAbove_cons] at h ⊢
    refine ⟨?_, h.2⟩
    have h1 := h.1
    cases lo <;> simp_all [Memory.above]
    omega

theorem Memory.read_of_above {k a : Nat} {m : Mem} (h : Memory.wfAbove (some k) m = true) (ha : a ≤ k) : Memory.read m a = 0 := by
  induction m generalizing k with
  | nil => rfl
  | cons x r ih =>
    rw [Memory.wfAbove_cons] at h
    have h1 : k < x.1 := h.1
    have hne : ¬ x.1 = a := by omega
    simp only [Memory.read, hne, if_false]
    exact ih h.2.2 (by omega)

theorem Memory.write_wfAbove {lo : Option Nat} {m : Mem} {a : Nat} (v : Byte) (hlo : Memory.above lo a) (h : Memory.wfAbove lo m = true) :
    Memory.wfAbove lo (Memory.write m a v) = true := by
  induction m generalizing lo with
  | nil =>
    by_cases hv : v = 0#8
    · simp [Memory.write_nil, hv, Memory.wfAbove]
    · simp only [Memory.write_nil, hv, if_false]
      rw [Memory.wfAbove_cons]
      exact ⟨hlo, hv, rfl⟩
  | cons x r ih =>
    obtain ⟨k, b⟩ := x
    have hc := (Memory.wfAbove_cons lo k b r).1 h
    by_cases h1 : a < k
    · by_cases hv : v = 0#8
      · simpa [Memory.write_nil, Memory.write_cons, h1, hv] using h
      · simp only [Memory.write_cons, h1, hv, if_true, if_false]
        rw [Memory.wfAbove_cons]
        refine ⟨hlo, hv, ?_⟩
        rw [Memory.wfAbove_cons]
        exact ⟨h1, hc.2⟩
    · by_cases h2 : a = k
      · by_cases hv : v = 0#8
        · simp only [Memory.write_cons, h2, hv, if_true, if_false, Nat.lt_irrefl]
          exact Memory.wfAbove_lower hc.1 hc.2.2
        · simp only [Memory.write_cons, h2, hv, if_true, if_false, Nat.lt_irrefl]
          rw [Memory.wfAbove_cons]
          exact ⟨hc.1, hv, hc.2.2⟩
      · simp only [Memory.write_cons, h1, h2, if_false]
        rw [Memory.wfAbove_cons]
        exact ⟨hc.1, hc.2.1, ih (by simp only [Memory.above]; omega) hc.2.2⟩

/-- Writing one byte keeps the canonical form. -/
theorem Memory.write_wf {m : Mem} (a : Nat) (v : Byte) (h : Memory.wf m = true) : Memory.wf (Memory.write m a v) = true :=
  Memory.write_wfAbove v trivial h

/-- Writing bytes keeps the canonical form. -/
theorem Memory.writeBytes_wf {m : Mem} (a : Nat) (l : List Byte) (h : Memory.wf m = true) : Memory.wf (Memory.writeBytes m a l) = true := by
  induction l generalizing m a with
  | nil => exact h
  | cons b r ih => exact ih (a + 1) (Memory.write_wf a b h)

/-- Writing a number keeps the canonical form. -/
theorem Memory.writeLe_wf {m : Mem} (a n v : Nat) (h : Memory.wf m = true) : Memory.wf (Memory.writeLe m a n v) = true :=
  Memory.writeBytes_wf a _ h

theorem Memory.filter_wfAbove {lo : Option Nat} {m : Mem} (p : Host.Cell → Bool) (h : Memory.wfAbove lo m = true) :
    Memory.wfAbove lo (m.filter p) = true := by
  induction m generalizing lo with
  | nil => simp [Memory.wfAbove]
  | cons x r ih =>
    obtain ⟨k, b⟩ := x
    have hc := (Memory.wfAbove_cons lo k b r).1 h
    by_cases hp : p (k, b) = true
    · simp only [List.filter, hp]
      rw [Memory.wfAbove_cons]
      exact ⟨hc.1, hc.2.1, ih hc.2.2⟩
    · simp only [List.filter, hp]
      exact ih (Memory.wfAbove_lower hc.1 hc.2.2)

/-- Dropping a range keeps the canonical form. -/
theorem Memory.clear_wf {m : Mem} (a n : Nat) (h : Memory.wf m = true) : Memory.wf (Memory.clear m a n) = true := Memory.filter_wfAbove _ h

/-- Dropping the upper part keeps the canonical form. -/
theorem Memory.truncate_wf {m : Mem} (a : Nat) (h : Memory.wf m = true) : Memory.wf (Memory.truncate m a) = true := Memory.filter_wfAbove _ h

/-- Nothing listed is in canonical form. -/
theorem Memory.nil_wf : Memory.wf [] = true := rfl

theorem Memory.read_write_above {lo : Option Nat} {m : Mem} (a c : Nat) (v : Byte) (h : Memory.wfAbove lo m = true) :
    Memory.read (Memory.write m a v) c = if c = a then v else Memory.read m c := by
  induction m generalizing lo with
  | nil =>
    by_cases hv : v = 0#8
    · simp [Memory.write_nil, Memory.read, hv]
    · by_cases hca : a = c
      · simp [Memory.write_nil, Memory.read, hv, hca]
      · have : ¬ c = a := fun e => hca e.symm
        simp [Memory.write_nil, Memory.read, hv, hca, this]
  | cons x r ih =>
    obtain ⟨k, b⟩ := x
    have hc := (Memory.wfAbove_cons lo k b r).1 h
    have hk := fun d (hd : d ≤ k) => Memory.read_of_above hc.2.2 hd
    by_cases h1 : a < k
    · have hka : ¬ k = a := by omega
      by_cases hv : v = 0#8
      · by_cases hca : c = a
        · subst hca
          simp [Memory.write_cons, Memory.read, h1, hv, hka, hk c (by omega)]
        · simp [Memory.write_cons, h1, hv, hca]
      · by_cases hca : c = a
        · simp [Memory.write_cons, Memory.read, h1, hv, hca]
        · have : ¬ a = c := fun e => hca e.symm
          simp [Memory.write_cons, Memory.read, h1, hv, hca, this]
    · by_cases h2 : a = k
      · subst h2
        by_cases hca : c = a
        · subst hca
          by_cases hv : v = 0#8
          · simp [Memory.write_cons, hv, hk c (Nat.le_refl c)]
          · simp [Memory.write_cons, Memory.read, hv]
        · have hac : ¬ a = c := fun e => hca e.symm
          by_cases hv : v = 0#8 <;> simp [Memory.write_cons, Memory.read, hv, hca, hac]
      · simp only [Memory.write_cons, h1, h2, if_false, Memory.read]
        by_cases hkc : k = c
        · have : ¬ c = a := by omega
          simp [hkc, this]
        · simp only [hkc, if_false]
          exact ih hc.2.2

/-- A byte read after a byte written: the value at its address, and what was there before at any other. -/
theorem Memory.read_write {m : Mem} (a c : Nat) (v : Byte) (h : Memory.wf m = true) :
    Memory.read (Memory.write m a v) c = if c = a then v else Memory.read m c := Memory.read_write_above a c v h

/-- A byte read after bytes written. -/
theorem Memory.read_writeBytes {m : Mem} (a c : Nat) (l : List Byte) (h : Memory.wf m = true) :
    Memory.read (Memory.writeBytes m a l) c = if a ≤ c ∧ c < a + l.length then l.getD (c - a) 0 else Memory.read m c := by
  induction l generalizing m a with
  | nil =>
    have : ¬ (a ≤ c ∧ c < a + ([] : List Byte).length) := by simp only [List.length_nil]; omega
    simp only [Memory.writeBytes, this, if_false]
  | cons b r ih =>
    simp only [Memory.writeBytes, ih (a + 1) (Memory.write_wf a b h), Memory.read_write a c b h, List.length_cons]
    by_cases h1 : c = a
    · subst h1
      have h2 : ¬ (c + 1 ≤ c ∧ c < c + 1 + r.length) := by omega
      have h3 : c ≤ c ∧ c < c + (r.length + 1) := by omega
      simp only [h2, h3, and_self, if_true, if_false, Nat.sub_self, List.getD_cons_zero]
    · by_cases h2 : a + 1 ≤ c ∧ c < a + 1 + r.length
      · have h3 : a ≤ c ∧ c < a + (r.length + 1) := by omega
        obtain ⟨d, rfl⟩ : ∃ d, c = a + 1 + d := ⟨c - (a + 1), by omega⟩
        have e1 : a + 1 + d - (a + 1) = d := by omega
        have e2 : a + 1 + d - a = d + 1 := by omega
        simp only [h2, h3, e1, e2, h1, and_self, if_true, if_false, List.getD_cons_succ]
      · have h3 : ¬ (a ≤ c ∧ c < a + (r.length + 1)) := by omega
        simp only [h1, h2, h3, if_false]

end Sys2Proof.Machine
end

