-- ==== Sys2Proof/Tests/Slice0.lean ====
section
/-! SUPPORT. The model's own tests: words that the spec writes out decode to what they stand for, ill-formed terms are refused, worked results of the spec
come out, single steps on small states, and for every statement with hypotheses a state and operands that meet them. -/

namespace Sys2Proof.Tests

set_option Elab.async false

open Sys2Proof Sys2Proof.Machine Sys2Proof.Safety

/-- The cause with which a word is refused. -/
def causeOf (x : Except Cause Instr) : Option Cause :=
  match x with
  | .error c => some c
  | .ok _ => none

/-! ## Words that the spec writes out (spec/02 to spec/17, at the rules named) -/

/-- R53 and R73 worked programs: 0x3050_0345, 0x1060_0C03, 0x2460_0055, 0x4060_5800, 0x5054_0000, 0x1404_1079. -/
theorem test_decode_scalar_arithmetic :
    (decodeScalar 0x30500345).toOption = some (.saddi 20 0 0x345) ∧ (decodeScalar 0x10600C03).toOption = some (.smov 24 3) ∧ (decodeScalar 0x24600055).toOption = some (.smad64 24 0 21) ∧
    (decodeScalar 0x40605800).toOption = some (.sstsD 24 22 0) ∧ (decodeScalar 0x3C507800).toOption = some (.ssts 20 30 0) ∧ (decodeScalar 0x50540000).toOption = some (.sli 21 0) ∧
    (decodeScalar 0x14041079).toOption = some (.scmpNe 1 4 30) ∧ (decodeScalar 0x58000048).toOption = some (.ximm 0x48) := by decide +kernel

/-- R28 worked branch, R73 and R328 worked programs: SBR, SLOOP, LRUN, LWAIT, SRD, TRAP, ERET, SRDP, GEXIT, SNOP. -/
theorem test_decode_scalar_control :
    (decodeScalar 0x5EFFFFFD).toOption = some (.sbr 0b1011 (-3)) ∧ (decodeScalar 0x685003FB).toOption = some (.sloop 20 (-5)) ∧ (decodeScalar 0x6C5C0000).toOption = some (.lrun 23 0) ∧
    (decodeScalar 0x70005C00).toOption = some (.lwait 23) ∧ (decodeScalar 0x74A00014).toOption = some (.srd 40 0x14) ∧ (decodeScalar 0xEC000007).toOption = some (.trap 7) ∧
    (decodeScalar 0xF0000001).toOption = some .eret ∧ (decodeScalar 0xF4A40008).toOption = some (.srdp 41 8) ∧ (decodeScalar 0xE0000003).toOption = some .gexit ∧
    (decodeScalar 0xF0000002).toOption = some .snop := by decide +kernel

/-- R191, R204-R209 (copy), R172, R173, R184, R185 (hash). -/
theorem test_decode_copy_and_hash :
    (decodeScalar 0x80A00030).toOption = some (.cten 40 12) ∧ (decodeScalar 0x80A00031).toOption = some (.cgth 40 12) ∧ (decodeScalar 0x80A00032).toOption = some (.csct 40 12) ∧
    (decodeScalar 0x84A00030).toOption = some (.cpack 40 12) ∧ (decodeScalar 0x84A00031).toOption = some (.cunpk 40 12) ∧ (decodeScalar 0x84A00032).toOption = some (.cfill 40 12) ∧
    (decodeScalar 0x88500000).toOption = some (.cbatch 20) ∧ (decodeScalar 0x88005001).toOption = some (.cwait 20) ∧ (decodeScalar 0x8800545A).toOption = some (.crows 21 22) ∧
    (decodeScalar 0x885C5003).toOption = some (.cstat 23 20) ∧ (decodeScalar 0x8C005000).toOption = some (.ccncl 20) ∧ (decodeScalar 0xA000A000).toOption = some (.hclaim 40 0) ∧
    (decodeScalar 0xA4000001).toOption = some (.hrel 1) ∧ (decodeScalar 0xA8C00000).toOption = some (.hstat 48 0) ∧ (decodeScalar 0xACB00000).toOption = some (.hdrain 44 0) := by decide +kernel

/-- R273, R284, R286, R287, R280 and R159. -/
theorem test_decode_matrix :
    (decodeScalar 0xB0600004).toOption = some (.mma 24 0 0 1) ∧ (decodeScalar 0xB0600085).toOption = some (.mmaSpec 24 0 0 1 1) ∧ (decodeScalar 0xB0600006).toOption = some (.mmas 24 0 0 1) ∧
    (decodeScalar 0xB0600087).toOption = some (.mmasSpec 24 0 0 1 1) ∧ (decodeScalar 0xB4018000).toOption = some (.mzero 3) ∧ (decodeScalar 0xB8690014).toOption = some (.mout 26 2 5) ∧
    (decodeScalar 0xB868006D).toOption = some (.moutS 26 0 27) ∧ (decodeScalar 0xB4000001).toOption = some (.mwait 0) ∧ (decodeScalar 0xB4005002).toOption = some (.mpri 20) ∧
    (decodeScalar 0xBC501400).toOption = some (.tshape 20 5) := by decide +kernel

/-- R236, R245-R249, R152, R267, R305, R300, R307, R308 and R348-R351. -/
theorem test_decode_ordering_launch_and_debug :
    (decodeScalar 0xC8000004).toOption = some (.fenceAcq 1) ∧ (decodeScalar 0xC8000011).toOption = some (.fenceRel 4) ∧ (decodeScalar 0xC800000E).toOption = some (.fenceAcqrel 3) ∧
    (decodeScalar 0xC8000017).toOption = some (.fenceSc 5) ∧ (decodeScalar 0xCCA05001).toOption = some (.pbind 40 20 1) ∧ (decodeScalar 0xD4005058).toOption = some (.prelAdd 20 22) ∧
    (decodeScalar 0xD0005058).toOption = some (.pacqGe 20 22) ∧ (decodeScalar 0xD8605000).toOption = some (.ptest 24 20) ∧ (decodeScalar 0xD8005059).toOption = some (.rcomb 20 22) ∧
    (decodeScalar 0xDC046858).toOption = some (.waitaGe 1 26 22) ∧ (decodeScalar 0xE0005000).toOption = some (.lnch 20) ∧ (decodeScalar 0xE0605001).toOption = some (.cntr 24 20) ∧
    (decodeScalar 0xE0005002).toOption = some (.cncl 20) ∧ (decodeScalar 0xE4600000).toOption = some (.tref 24) ∧ (decodeScalar 0xE4006001).toOption = some (.twait 24) ∧
    (decodeScalar 0xF0047803).toOption = some (.spresize 1 30) ∧ (decodeScalar 0xF8005000).toOption = some (.pmark 20) ∧ (decodeScalar 0xF8605001).toOption = some (.pcnt 24 20) ∧
    (decodeScalar 0xF8005002).toOption = some (.race 20) ∧ (decodeScalar 0xF8000003).toOption = some .dstop := by decide +kernel

/-- The lane word with every field at its plain value: always executed, no HOLD, sources v0. -/
def plain : LaneWord :=
  { guard := 7, hold := false, nowb := false, dlat := 0, dst := 0, srcA := 0, srcB := 0, srcC := 0, type := 0, sub := 0, imm := 0 }

/-- R53 and R90 worked programs, R114, R112 and R140. -/
theorem test_decode_lane_arithmetic_and_branches :
    (decodeLane 0x004A41406C00001000000064).toOption = some (.vadd { plain with guard := 2, hold := true, dlat := 1, dst := 5, srcA := 6, srcB := 0x300, type := 1, imm := 100 }) ∧
    (decodeLane 0x454002C0A000000100000000).toOption = some (.vmatch { plain with guard := 0, dst := 11, srcA := 0x00A, sub := 1 }) ∧
    (decodeLane 0x450403300000000800000001).toOption = some (.vscan { plain with guard := 1, dst := 12, srcA := 0x300, sub := 8, imm := 1 }) ∧
    (decodeLane 0x20DC02001008038200000000).toOption = some (.ffma { plain with dst := 8, srcA := 1, srcB := 2, srcC := 3, type := 8, sub := 2 }) ∧
    (decodeLane 0x3C5C0080100000F800000E08).toOption = some (.cvtq { plain with dst := 2, srcA := 1, type := 15, sub := 8, imm := 0x0E08 }) ∧
    (decodeLane 0x500400000000000000030004).toOption = some (.vbr { plain with guard := 1, imm := 0x00030004 }) ∧
    (decodeLane 0x51DC00000000000000000000).toOption = some (.vstop plain) := by decide +kernel

/-- R153, R176, R255, R257, R241 and R348-R351. -/
theorem test_decode_lane_memory_and_debug :
    (decodeLane 0x601C01002000000000000010).toOption = some (.lds { plain with dst := 4, srcA := 2, imm := 16 }) ∧
    (decodeLane 0x70C000C01008000000000204).toOption = some (.hacc { plain with guard := 0, dst := 3, srcA := 1, srcB := 2, imm := 0x204 }) ∧
    (decodeLane 0x78000140200C000000000040).toOption = some (.ats { plain with guard := 0, dst := 5, srcA := 2, srcB := 3, imm := 0x40 }) ∧
    (decodeLane 0x785C0000401808270084000C).toOption = some (.atm { plain with srcA := 4, srcB := 6, srcC := 8, type := 2, sub := 7, imm := 0x0084000C }) ∧
    (decodeLane 0x7A1C00000000000100000001).toOption = some (.laneFence { plain with sub := 1, imm := 1 }) ∧
    (decodeLane 0x801C00014000000000000000).toOption = some (.lanePmark { plain with srcA := 20 }) ∧
    (decodeLane 0x805C01700000000000000010).toOption = some (.lanePcnt { plain with dst := 5, srcA := 0x300, imm := 0x10 }) ∧
    (decodeLane 0x809C00002000000000000000).toOption = some (.laneRace { plain with srcA := 2 }) ∧
    (decodeLane 0x80DC00000000000000000000).toOption = some (.laneDstop plain) := by decide +kernel

/-! ## The well-formedness check refuses -/

theorem test_wf_scalar_group : WellFormed.wf (.sad64 1 0 0) = false ∧ WellFormed.wf (.cten 4 0) = false ∧ WellFormed.wf (.hstat 2 0) = false := by decide +kernel
theorem test_wf_scalar_guard : WellFormed.wf (.sbr 15 0) = false := by decide +kernel
theorem test_wf_scope : WellFormed.wf (.fenceAcq 6) = false ∧ WellFormed.wf (.fenceAcq 5) = true := by decide +kernel
theorem test_wf_lane_guard : WellFormed.wf (.vadd { plain with guard := 15 }) = false ∧ WellFormed.wf (.vstop { plain with guard := 0 }) = false := by decide +kernel
theorem test_wf_lane_unused_fields : WellFormed.wf (.vmov { plain with srcB := 1 }) = false ∧ WellFormed.wf (.vstop { plain with dst := 1 }) = false ∧
    WellFormed.wf (.vcmp { plain with dst := 8 }) = false ∧ WellFormed.wf (.vadd { plain with nowb := true, dst := 1 }) = false := by decide +kernel
theorem test_wf_lane_latch : WellFormed.wf (.vmov { plain with srcA := 0x104 }) = false := by decide +kernel
theorem test_wf_lane_special : WellFormed.wf (.vmov { plain with srcA := 0x304 }) = false ∧ WellFormed.wf (.lds { plain with srcA := 0x300 }) = false := by decide +kernel
theorem test_wf_lane_sub : WellFormed.wf (.vadd { plain with sub := 1 }) = false ∧ WellFormed.wf (.vcmp { plain with sub := 6 }) = false := by decide +kernel
theorem test_wf_lane_imm : WellFormed.wf (.vbr plain) = false ∧ WellFormed.wf (.bar { plain with imm := 0x10 }) = false := by decide +kernel
theorem test_wf_lane_type : WellFormed.wf (.vadd { plain with type := 8 }) = false ∧ WellFormed.wf (.fadd plain) = false := by decide +kernel
theorem test_wf_lane_formats : WellFormed.wf (.cvt { plain with type := 15, imm := 0x0012 }) = false := by decide +kernel
theorem test_wf_lane_alignment : WellFormed.wf (.vadd { plain with type := 2, dst := 1 }) = false ∧ WellFormed.wf (.vadd { plain with type := 2, srcA := 3 }) = false := by decide +kernel

/-- R29, R37: reserved bits and unassigned opcodes name their causes. -/
theorem test_decode_refuses :
    causeOf (decodeScalar 0) = some 0x040 ∧ causeOf (decodeScalar 0x10600C07) = some 0x041 ∧ causeOf (decodeScalar 0x24640055) = some 0x043 ∧
    causeOf (decodeLane 0xFFC000000000000000000000) = some 0x001 ∧ causeOf (decodeLane 0x003C00000000000000000000) = some 0x001 := by decide +kernel

/-! ## Results that the spec works out -/

/-- R116 (spec/06), its table. -/
theorem test_float_arithmetic_edges :
    fp32.add .rne 0x7F800000 0xFF800000 = (0x7FC00000, 16) ∧ fp32.sub .rdn 0x3FC00000 0x3FC00000 = (0x80000000, 0) ∧
    fp32.mul .rtz 0x71800000 0x71800000 = (0x7F7FFFFF, 5) ∧ fp32.mul .rne 0x1A000000 0x1A000000 = (0, 3) ∧
    fp32.fma .rne 0 0x7F800000 0x7FC00000 = (0x7FC00000, 16) ∧ fp32.fma .rne 0x80000000 0x3F800000 0 = (0, 0) ∧
    fp32.add .rne 0x7FA00000 0x3F800000 = (0x7FC00000, 16) := by decide +kernel

/-- R120-R122 (spec/06). -/
theorem test_float_scale_edges :
    fp32.frc 0xB0800000 = (0x3F7FFFFF, 1) ∧ fp32.scale .rup 0x3F800000 (-150) = (1, 3) ∧ fp32.scale .rne 1 149 = (0x3F800000, 0) ∧
    fp32.scale .rne 0x3FC00000 128 = (0x7F800000, 5) ∧ fp32.scale .rtz 0x3FC00000 128 = (0x7F7FFFFF, 5) ∧ fp32.scale .rne 0x80000000 200 = (0x80000000, 0) ∧
    (fp32.expx 1).1 = 0xFFFFFF6B := by decide +kernel

/-- R107 and R108 (spec/05): the edges of CVT from FP32, and two from other formats. -/
theorem test_convert_edges :
    convert 8 13 .rne false 0x43E80000 = (0x7E, 1) ∧ convert 8 13 .rne false 0x43EB0000 = (0x7F, 5) ∧ convert 8 13 .rne true 0x43EB0000 = (0x7E, 5) ∧
    convert 8 10 .rne false 0x477FF000 = (0x7C00, 5) ∧ (convert 8 10 .rtz false 0x477FF000).1 = 0x7BFF ∧ convert 8 11 .rne false 0x3F808000 = (0x3F80, 1) ∧
    convert 8 11 .rna false 0x3F808000 = (0x3F81, 1) ∧ convert 8 1 .rne false 0x4F000000 = (0x80000000, 16) ∧ convert 8 1 .rne true 0x4F000000 = (0x7FFFFFFF, 16) ∧
    convert 8 1 .rne true 0x7FA00000 = (0, 16) ∧ convert 8 10 .rne false 0x7FA00000 = (0x7E00, 16) ∧ convert 8 13 .rne true 0xFF800000 = (0xFE, 16) ∧
    convert 8 1 .rne false 0x80000000 = (0, 0) ∧ convert 17 8 .rne false 0x7C = (0x3E000000, 0) ∧
    convert 8 4 .rtz false 0xBF400000 = (0, 1) ∧ (convert 8 4 .rne false 0xBF400000).2 = 16 := by decide +kernel

/-- R75 and R76 (spec/04): the edges of the integer words. -/
theorem test_integer_edges :
    intResult 1 true (0x80000000 : Int) = 0x7FFFFFFF ∧ intResult 1 false (0x80000000 : Int) = 0x80000000 ∧ intResult 6 true 300 = 0xFF ∧
    intResult 7 false (-3) = 0xFFFFFFFD := by decide +kernel

/-- R174 (spec/09): the hash of small keys. -/
theorem test_hash_vectors : hash32 1 = 0x4EF788BA ∧ hash32 5 = 0xCAA6D98C ∧ foldKey (0x100000000 + 5) = 0x0D9E3693 := by decide +kernel

/-! ## Single steps -/

/-- The state after a step, or the state that stopped. -/
def after (s : State) : State := match step s with | .next t => t | _ => s

/-- TREF s24:s25 placed at reset runs as the first instruction: SPC moves on. -/
theorem test_step_scalar : (after (State.reset.withFetchWord 32 0xE4600000)).grp.spc = 4 := by decide +kernel

/-- VADD.n32 v5, v6, #100 on every lane: lane 63 of a zero v6 receives 100, and the split moves on. -/
theorem test_step_lane :
    let t := after (State.reset.withFetchWord 96 0x005C01406C00000000000064)
    (t.grp.vregs[5][63] = 100 ∧ t.grp.vregs[6][63] = 0) ∧ (t.grp.splits[0].map fun p => p.lpc) = some 1 := by decide +kernel

/-- R57: SMULH of -1 and 1 is -1, and SSRA by 32 or more fills with the sign (R57); s1 is -1, s2 is 1, s3 is 200. -/
theorem test_scalar_signs :
    let s := ((State.reset.setSr 1 0xFFFFFFFF).setSr 2 1).setSr 3 200
    let reg (i : Instr) : Option Word := match exec i s with | .next t => some (t.sr 9) | _ => none
    reg (.smulh 9 1 2) = some 0xFFFFFFFF ∧ reg (.smulhN 9 1 2) = some 0 ∧ reg (.ssra 9 1 3) = some 0xFFFFFFFF ∧ reg (.sshr 9 1 3) = some 0 := by decide +kernel

/-- R67, R68: SCALL past sixteen entries takes 0x048, and a scalar store off its alignment 0x141. -/
theorem test_scalar_traps :
    let s := State.reset.modGrp fun g => { g with calls := List.replicate 16 4 }
    let cause (i : Instr) : Option Word := match exec i s with | .next t => some t.grp.priv.ecause | _ => none
    cause (.scall 7 1) = some 0x048 ∧ cause (.ssts 0 0 2) = some 0x141 ∧ cause (.ssts 0 0 4) = some 0x140 := by decide +kernel

/-! ## States and operands that meet the statements' hypotheses -/

/-- Split 0 of a block that has just started. -/
def p0 : Split := { lpc := 0, mask := BitVec.allOnes 64, rank := 0, join := none, cstack := [], hist := 0, atBar := none, dbgSkip := none }

/-- A group that runs a lane block with every lane in split 0, in a team with a page of 4 KiB of scratchpad and two of every unit, over the page table of one page. -/
def demo : State :=
  (State.reset.withFetchWord 96 0).modTeam fun t =>
    { t with spadSize := 4096, obj := { t.obj with tiles := 2, accs := 2, htabs := 2, hoists := 2, bars := 2, groups := 1 },
             hoists := t.hoists.set 0 { cap := 64, items := List.replicate 64 5, allow := 64, resv := 0, waiters := [] },
             groups := t.groups.set 0 { t.groups[0] with preds := t.groups[0].preds.set 1 0xFFFFFFFF } }

/-- A split in hand where no chain is open. -/
theorem hand {s : State} {p : Split} (h : s.grp.splits[s.spl] = some p ∧ s.grp.chain = none ∧ s.grp.parked = []) : inHand s p :=
  ⟨h.1, fun c hc => absurd (h.2.1.symm.trans hc) (by simp), fun c hc => by simp [h.2.2] at hc⟩

theorem demo_hand : inHand demo p0 := hand (by decide +kernel)

/-- demo with the scalar registers of the list. -/
def withRegs (l : List (Nat × Nat)) : State := l.foldl (fun s x => s.setSr (BitVec.ofNat 8 x.1) (BitVec.ofNat 32 x.2)) demo

/-- demo with a change of its group. -/
def withGrp (f : Group → Group) : State := demo.modGrp f

theorem wit_ScalarComparesAndSelects : (31 : BitVec 5) ≠ 0 := by decide
theorem wit_ScalarAddressSumsAndBitFields :
    ((254 : Reg).getLsbD 0 = false ∧ (0 : Reg).getLsbD 0 = false) ∧ ((255 : Reg).getLsbD 0 = true ∨ (0 : Reg).getLsbD 0 = true) := by decide

theorem wit_ScalarLoadsStoresAndTheirTraps :
    let s := withRegs [(1, 4092), (2, 4088)]
    let u := demo.modTeam fun t => { t with pool := t.pool.set 0 (.path 0 false 0 1 0 []) }
    ((s.sr 1 + (0 : BitVec 10).signExtend 32).toNat = 4092 ∧ padFree s 4092 4 ∧ poisoned s.team.spadPoison 4092 4 = false) ∧
    ((s.sr 2 + (0 : BitVec 10).signExtend 32).toNat = 4088 ∧ padFree s 4088 8 ∧ poisoned s.team.spadPoison 4088 8 = false) ∧
    (Memory.wf s.team.spad = true ∧ s.team.race = false ∧ s.grp.chain = none ∧ s.grp.handler = false) ∧
    (s.sr 1 + (1 : BitVec 10).signExtend 32).toNat % 4 ≠ 0 ∧ s.team.spadSize < (s.sr 1 + (4 : BitVec 10).signExtend 32).toNat + 4 ∧
    (u.grp.chain = none ∧ u.grp.handler = false ∧ u.team.poolTouched 4032 4 = false ∧ u.team.poolTouched (u.team.poolAddr 0) 4 = true) := by
  unfold Safety.padFree; decide +kernel

/-- The word after the first one of the scalar text. -/
def withPartner (w : Nat) : State := { demo with mem := Memory.writeLe demo.mem (loadPage + 0x1004) 4 w }

theorem wit_ImmediatesAndXimmUnits :
    let y : Word := (3 : BitVec 22) ++ (1020 : BitVec 10)
    ((withPartner 0x300003FC).partner = some (.saddi 0 0 1020) ∧ (withPartner 0x340003FC).partner = some (.slds 0 0 1020) ∧
     (withPartner 0x380003FC).partner = some (.sldsD 0 0 1020) ∧ (withPartner 0x3C0003FC).partner = some (.ssts 0 0 1020) ∧
     (withPartner 0x400003FC).partner = some (.sstsD 0 0 1020) ∧ (withPartner 0x6C0003FC).partner = some (.lrun 0 1020)) ∧
    ((demo.sr 0 + y).toNat = 4092 ∧ padFree demo 4092 4 ∧ padFree demo (4092 - 4) 8 ∧ poisoned demo.team.spadPoison 4088 8 = false ∧
     Memory.wf demo.team.spad = true ∧ demo.grp.handler = false ∧ demo.grp.blocks.length < 2 ∧ demo.team.race = false) := by
  unfold Safety.padFree; decide +kernel

theorem wit_ScalarControlFlowAndItsTraps :
    let full := withGrp fun g => { g with calls := List.replicate 16 8 }
    let s := withRegs [(1, 0xFFFFFFFC), (2, 0xFFFFFFFD)]
    ((demo.qr 7 != false) = true ∧ (List.replicate 15 (8 : Word)).length < 16 ∧ (s.sr 1).toNat % 4 = 0 ∧ full.grp.calls = 8 :: List.replicate 15 8) ∧
    (full.grp.chain = none ∧ full.grp.handler = false ∧ 16 ≤ full.grp.calls.length ∧ (full.qr 7 != false) = true) ∧
    (s.grp.calls = [] ∧ (s.sr 2).toNat % 4 ≠ 0 ∧ s.grp.chain = none ∧ s.grp.handler = false) := by decide +kernel

theorem wit_LaneBlocksStartAndApply :
    let s := withGrp fun g => { g with blocks := g.blocks.map fun b => { b with done := true }, lticket := 1 }
    (demo.grp.handler = false ∧ demo.grp.blocks.length = 1) ∧ ((∀ b ∈ s.grp.blocks, b.done = true) ∧ (s.setSr 4 1).sr 4 = s.grp.lticket) ∧
    (State.reset.grp.handler = false ∧ (State.reset.grp.lticket - State.reset.sr 0).toNat < 2 ^ 31 ∧ State.reset.grp.blocks = []) := by decide +kernel

theorem wit_SpecialRegisters :
    (0x01B ≤ (0x01B : BitVec 10).toNat ∧ 0x01B ≤ (0x3FF : BitVec 10).toNat ∧ demo.grp.chain = none ∧ demo.grp.handler = false) ∧
    ((0x01A : BitVec 10) ≠ 0x017 ∧ (0x01A : BitVec 10) ≠ 0x018 ∧ (0x01B : BitVec 10) ≠ 0x017 ∧ (0x01B : BitVec 10) ≠ 0x018) := by decide +kernel

/-- demo in handler mode, after a trap of split 0. -/
def inHandler : State := withGrp fun g => { g with handler := true, priv := { g.priv with split := some 0 } }

theorem wit_TrapsAndTheReturnFromThem :
    let fwd := withGrp fun g => { g with handler := true, priv := { g.priv with fwd := true } }
    let full := inHandler.modGrp fun g => { g with calls := List.replicate 16 4 }
    let off := (inHandler.setSr 1 1).setSr 2 4096
    let waiting := inHandler.modGrp fun g => { g with priv := { g.priv with waited := true, elpc := 0xFFFFFFFF } }
    let barred := { inHandler.grp with splits := inHandler.grp.splits.set 0 (some { p0 with atBar := some 1 }), priv := { inHandler.grp.priv with elpc := 0 } }
    (demo.grp.chain = none ∧ demo.grp.handler = false) ∧
    (inHandler.grp.chain = none ∧ inHandler.grp.handler = true ∧ inHandler.grp.calls = []) ∧
    (full.guardQ 7 = true ∧ full.grp.calls.length = 16 ∧ full.grp.handler = true ∧ full.grp.chain = none) ∧
    ((off.sr 1).extractLsb' 0 2 ≠ 0 ∧ 0x01A < (0x01B : BitVec 10).toNat ∧ (0x016 : BitVec 10).toNat ≤ 0x01A ∧ (0x016 : BitVec 10) ≠ 0x017 ∧ (0x016 : BitVec 10) ≠ 0x018 ∧
     0x00F < (0x010 : BitVec 9).toNat ∧ (0x00F : BitVec 9).toNat ∉ [0x000, 0x001, 0x00A, 0x00B, 0x00C, 0x00D, 0x00E]) ∧
    (off.scalarAccessFault (off.scalarAddr 1 ((0 : BitVec 10).signExtend 32)) 4 true = some 0x141 ∧
     off.scalarAccessFault (off.scalarAddr 2 ((0 : BitVec 10).signExtend 32)) 4 false = some 0x140) ∧
    (inHandler.grp.priv.fwd = false ∧ inHandler.grp.priv.split = some 0 ∧ inHandler.grp.splits[(0 : SplitIx)] = some p0) ∧
    (waiting.grp.priv.waited = true ∧ p0.lpc = waiting.grp.priv.elpc + 1) ∧ (barred.splits[(0 : SplitIx)] = some { p0 with atBar := some 1 } ∧ barred.priv.elpc = p0.lpc) ∧
    (fwd.grp.handler = true ∧ fwd.grp.priv.fwd = true) := by decide +kernel

theorem wit_TrapsAndTheReturnFromThem_double : exec .sret inHandler = inHandler.scalarTrap 0x049 0 0 := rfl

theorem wit_PrivilegedRegisters : inHandler.grp.handler = true ∧ demo.grp.handler = false ∧ demo.grp.chain = none := by decide +kernel

theorem wit_TimeWordsAndTheEndOfAGroup :
    let s := State.reset.withFetchWord 32 0xE4006001
    (s.reft + BitVec.ofNat 64 s.die.skew.val - 4 - s.sr64 24).toNat < 2 ^ 63 ∧ s.team.live = true ∧ s.grp.phase = .running ∧ s.grp.pend = [] ∧
    s.grp.stopReq = false ∧ s.grp.stepping = false ∧ s.scalarInstr = .twait 24 ∧ s.grp.errs = [] ∧ (∀ b ∈ s.grp.blocks, b.done = true) := by decide +kernel

theorem wit_IntegerResultsWrapOrSaturate : (7 : BitVec 4).toNat < 8 := by decide
theorem wit_LaneIntegerArithmetic : inHand demo p0 := demo_hand
theorem wit_LaneLogicAndShifts : inHand demo p0 := demo_hand
theorem wit_LaneBitsSelectsAndPredicates :
    inHand demo p0 ∧ ({ plain with type := 2 } : LaneWord).type = 2 ∧ ({ plain with sub := 5 } : LaneWord).sub.toNat < 6 := ⟨demo_hand, by decide⟩

theorem wit_CrossLaneWords :
    inHand demo p0 ∧ (lanesOf demo p0 plain).getLsbD 63 = true ∧
    (lanesOf demo p0 { plain with guard := 1 }).getLsbD 31 = true ∧ (lanesOf demo p0 { plain with guard := 1 }).getLsbD 32 = false ∧
    (∀ j : Fin 64, (lanesOf demo p0 plain).getLsbD j.val = true → (0 : Fin 64) ≤ j ∧ j ≤ 63) ∧
    ((opened demo p0).srcN { plain with imm := 63 } 0x300 0).toNat = 63 ∧ ({ plain with sub := 8 } : LaneWord).sub.getLsbD 3 = true :=
  ⟨demo_hand, by unfold lanesOf opened; decide +kernel⟩

theorem wit_FloatArithmeticWords : inHand demo p0 ∧ demo.grp.enables.extractLsb' 0 5 = 0 ∧ (fp32.decode ((opened demo p0).operand { plain with type := 8 } 0 0)).isNan = false :=
  ⟨demo_hand, by unfold opened; decide +kernel⟩

theorem wit_FloatNaNRules :
    (fp32.decode 0x7FA00000).isNan = true ∧ (fp64.decode 0xFFF8000000000000).isNan = true ∧ fp32.decode 0x7F800000 = .inf false ∧
    fp32.decode 0xFF800000 = .inf true ∧ fp32.decode 0 = .fin false 0 (-149) ∧ fp32.decode 0x80000000 = .fin true 0 (-149) ∧
    fp32.decode 0x7FC00000 = .nan false := by decide +kernel

theorem wit_FloatExactSumsAndProducts :
    fp32.decode 0x3F800000 = .fin false (2 ^ 23) (-23) ∧ fp32.decode 0x40000000 = .fin false (2 ^ 23) (-22) ∧
    ((2 ^ 23 * 2 ^ ((-23 : Int) + 1100).toNat : Nat) : Int) + (2 ^ 23 * 2 ^ ((-23 : Int) + 1100).toNat : Nat) = (2 ^ 23 * 2 ^ ((-22 : Int) + 1100).toNat : Nat) ∧
    ((2 ^ 23 * 2 ^ ((-23 : Int) + 1100).toNat : Nat) : Int) * (2 ^ 23 * 2 ^ ((-22 : Int) + 1100).toNat : Nat) = (2 ^ 23 * 2 ^ ((-22 : Int) + 2200).toNat : Nat) := by
  decide +kernel

theorem wit_FloatClassScaleAndApproximateWords :
    inHand demo p0 ∧ fp32.decode 0x7FC00000 = .nan false ∧ fp32.decode 0xFF800000 = .inf true ∧ fp32.decode 0x80000000 = .fin true 0 (-149) ∧
    fp32.decode 0x80000001 = .fin true 1 (-149) ∧ ((opened demo p0).operand { plain with imm := 0xFF800000, type := 8 } 0x300 0) = 0xFF800000 ∧
    ({ plain with sub := 8 } : LaneWord).sub.getLsbD 3 = true ∧ ((opened demo p0).srcN { plain with imm := 8192 } 0x300 0).toInt.natAbs ≤ 8192 :=
  ⟨demo_hand, by unfold opened; decide +kernel⟩

theorem wit_ConversionWords :
    inHand demo p0 ∧ (floatFmt 8).isSome = true ∧ 12 ≤ 14 ∧ (lanesOf demo p0 plain).getLsbD 31 = true ∧ (31 : Nat) / 32 = 0 / 32 ∧
    numFinite (fmtDecode 8 0x7F800000) = false ∧ numZero (fmtDecode 8 0x80000000) = true := ⟨demo_hand, by unfold lanesOf; decide +kernel⟩

/-- demo with case words after the lane word: value 0 goes 2 words on, and any other value 3 words on. -/
def withCases : State :=
  { demo with mem := Memory.writeLe (Memory.writeLe demo.mem (loadPage + 12) 12 (2 * 2 ^ 32)) (loadPage + 24) 12 (1 * 2 ^ 64 + 3 * 2 ^ 32) }

theorem wit_LaneBranches :
    let w : LaneWord := { plain with imm := 0x00030004 }
    (lanesOf demo p0 plain = p0.mask ∧ lanesOf demo p0 { plain with guard := 0 } = 0 ∧ p0.mask ≠ 0) ∧
    ([1, 2, 3, 4, 5, 6, 7] : List Word).length < 8 ∧ ([1, 2] : List Word) = [1] ++ [2] ∧
    (lanesOf demo p0 { w with guard := 1 } ≠ 0 ∧ lanesOf demo p0 { w with guard := 1 } ≠ p0.mask ∧ demo.freeEntry = some 0 ∧ p0.join = none ∧
     p0.lpc + 1 ≠ p0.lpc + (w.imm.extractLsb' 0 16).signExtend 32 ∧ demo.grp.splits[(1 : SplitIx)] = none ∧ demo.grp.splits[(0 : SplitIx)] ≠ none ∧
     p0.lpc + (w.imm.extractLsb' 16 16).signExtend 32 ≠ p0.lpc + (w.imm.extractLsb' 0 16).signExtend 32) ∧
    p0.lpc + ((0x00040004 : Word).extractLsb' 16 16).signExtend 32 = p0.lpc + ((0x00040004 : Word).extractLsb' 0 16).signExtend 32 := by
  unfold lanesOf; decide +kernel

theorem wit_SwitchSendsEachLaneToItsCase :
    inHand withCases p0 ∧
    (let w : LaneWord := { plain with sub := 1, imm := 0x00050004 }
     (withCases.caseBits (p0.lpc + 1) w.sub.toNat).toOption = some [BitVec.ofNat 96 (2 * 2 ^ 32)] ∧ (opened withCases p0).srcN w w.srcA 63 = 0 ∧ p0.mask ≠ 0) ∧
    (let w : LaneWord := { plain with sub := 2, srcA := 0x301, imm := 0x00050004 }
     (withCases.caseBits (p0.lpc + 1) w.sub.toNat).toOption = some [BitVec.ofNat 96 (2 * 2 ^ 32), BitVec.ofNat 96 (1 * 2 ^ 64 + 3 * 2 ^ 32)] ∧ (opened withCases p0).srcN w w.srcA 0 = 0 ∧ (opened withCases p0).srcN w w.srcA 1 = 1 ∧
     (opened withCases p0).srcN w w.srcA 63 = 63 ∧ withCases.freeEntry = some 0 ∧ p0.join = none ∧
     ([2, 3, 5] : List Word).eraseDups.length ≤ 1 + ((List.finRange 4).filter fun k => withCases.grp.splits[k].isNone).length) :=
  ⟨hand (by decide +kernel), by unfold opened; decide +kernel, by unfold opened; decide +kernel⟩

theorem wit_LanesRetireAndSplitsMeet :
    let queued := withGrp fun g => { g with blocks := g.blocks.map fun b => { b with started := false } }
    let met (m : Mask) := withGrp fun g => { g with stack := g.stack.set 0 (.join none 0 (BitVec.allOnes 64) 0 0 []),
                                                    splits := g.splits.set 0 (some { p0 with join := some 0, mask := m }) }
    let path := withGrp fun g => { g with stack := (g.stack.set 0 (.join none 9 (BitVec.allOnes 64) 0 0 [])).set 1 (.path 0 false 4 1 0 []) }
    (inHand demo p0 ∧ p0.join = none) ∧
    (p0.mask &&& ~~~lanesOf demo p0 { plain with guard := 1 } ≠ 0 ∧ p0.mask &&& ~~~lanesOf demo p0 plain = 0) ∧
    (demo.team.live = true ∧ demo.grp.phase = .running ∧ demo.grp.handler = false ∧ demo.grp.chain = none ∧ demo.grp.stepping = false) ∧
    (queued.grp.blocks.length = 1 ∧ (∀ b ∈ queued.grp.blocks, b.started = false) ∧ queued.team.live = true ∧ queued.grp.phase = .running ∧
     queued.grp.handler = false ∧ queued.grp.chain = none) ∧
    ((met 1).stackEntry 0 = .join none 0 (BitVec.allOnes 64) 0 0 [] ∧ (0 : Mask) ||| 1 ≠ BitVec.allOnes 64 ∧ (0 : Mask) ||| BitVec.allOnes 64 = BitVec.allOnes 64 ∧
     (met 1).team.live = true ∧ (met 1).grp.phase = .running ∧ (met 1).grp.splits[(0 : SplitIx)] = some { p0 with join := some 0, mask := 1 }) ∧
    (path.stackEntry 1 = .path 0 false 4 1 0 [] ∧ path.grp.splits[(3 : SplitIx)] = none ∧ (∀ n < 48, 1 < n → path.owns n = true → path.loadable n = false) ∧
     ErrAt.stack 1 ∉ path.grp.errs) :=
  ⟨⟨demo_hand, rfl⟩, by unfold lanesOf; decide +kernel⟩

/-- demo with a predictor entry that foresees every lane taken, at a VBR on the predicate p0, which is false and not yet readable. -/
def guessing : State :=
  { withGrp fun g => { g with late := g.late.set 0 (BitVec.allOnes 64) } with
              mem := Memory.writeLe demo.mem loadPage 12 0x500000000000000000030004,
              cores := demo.cores.set 0 { demo.cores[0] with guidon := [(0, BitVec.allOnes 64, 3)] } }

theorem wit_LanesRetireAndSplitsMeet_prediction :
    ({ guessing with spl := 0 } : State).lanePick 0 = some (.vbr { plain with guard := 0, imm := 0x00030004 }) ∧
    guessing.predicts { plain with guard := 0, imm := 0x00030004 } p0 = true ∧ guessing.grp.splits[(0 : SplitIx)] = some p0 ∧
    (guessing.core.guidonEntry (guidonIx p0.lpc p0.hist)).1 &&& p0.mask = p0.mask ∧ p0.mask ≠ 0 ∧
    lanesOf guessing p0 { plain with guard := 0, imm := 0x00030004 } = 0 ∧ guessing.grp.stepping = false ∧
    guessing.team.live = true ∧ guessing.grp.phase = .running ∧ guessing.grp.handler = false ∧ guessing.grp.chain = none := by
  unfold lanesOf; decide +kernel

theorem wit_LaneScratchpadWords :
    inHand demo p0 ∧
    (∀ l : Fin 64, (lanesOf demo p0 { plain with imm := 4092 }).getLsbD l.val = true →
      Safety.padFree demo ((opened demo p0).srcN { plain with imm := 4092 } 0 l + 4092).toNat (accessBytes 0) ∧ poisoned demo.team.spadPoison 4092 4 = false) ∧
    teamStores demo.team = true ∧ demo.team.race = false := ⟨demo_hand, by unfold lanesOf opened Safety.padFree; decide +kernel⟩

/-- demo with a buffer of 64 bytes at 4,032 under handle 3. -/
def withBuffer : State := demo.modTeam fun t => { t with spad := Memory.writeLe (Memory.writeLe t.spad 24 4 4032) 28 4 64 }

theorem wit_BufferAndTileWords :
    let h := (opened withBuffer p0).srcN { plain with imm := 3 } 0x300 0
    inHand withBuffer p0 ∧
    (h.toNat = 3 ∧ 8 * 3 + 8 ≤ withBuffer.team.spadSize ∧ padNum withBuffer 24 4 = 4032 ∧ padNum withBuffer 28 4 = 64 ∧ poisoned withBuffer.team.spadPoison 24 8 = false ∧ 4032 % 16 = 0 ∧ 64 % 16 = 0 ∧
     4032 + 64 ≤ withBuffer.team.spadSize ∧ withBuffer.team.filling.getLsbD 3 = false ∧ 60 + 4 ≤ 64 ∧ (4032 + 60) % 4 = 0 ∧
     withBuffer.team.poolTouched 4092 4 = false ∧ poisoned withBuffer.team.spadPoison 4092 4 = false ∧ teamStores withBuffer.team = true) ∧
    (1 < withBuffer.team.obj.tiles ∧ 252 % 4 = 0 ∧ 63 < (withBuffer.team.tile 1).shape.rows ∧ 252 + 4 ≤ (withBuffer.team.tile 1).shape.rb ∧
     (withBuffer.team.tile 1).poisonedAt 63 252 4 = false) := ⟨hand (by decide +kernel), by unfold opened; decide +kernel⟩

theorem wit_HoistQueuesAndBarriers :
    let one := { plain with guard := 0 }
    let u := withGrp fun g => { g with preds := g.preds.set 0 1 }
    let h := demo.team.hoist 0
    inHand demo p0 ∧ inHand u p0 ∧
    (lanesOf demo p0 plain ≠ 0 ∧ 0 < demo.team.obj.hoists ∧ (maskLanes (lanesOf demo p0 plain)).length = 64 ∧ 64 ≤ h.cap ∧ h.waiters = [] ∧
     64 ≤ h.items.length ∧ ¬ (64 + h.items.length + h.resv ≤ h.cap ∧ 64 ≤ h.allow)) ∧
    (0 + 64 + 0 ≤ (h.cap - 0) ∧ (demo.team.hoist 1).items.length < 1 ∧ lanesOf u p0 one = 1) ∧
    (1 < demo.team.obj.bars ∧ 16 ≤ 16 ∧ (demo.team.barrier 1).count + 1 < 16 ∧ 1 ≤ (demo.team.barrier 1).count + 1 ∧ (demo.team.barrier 1).count = 0) :=
  ⟨demo_hand, hand (by decide +kernel), by unfold lanesOf; decide +kernel⟩

/-- demo with an empty hoist queue of room for 64 and a full allowance. -/
def withRoom : State := demo.modTeam fun t => { t with hoists := t.hoists.set 0 { cap := 64, items := [], allow := 64, resv := 0, waiters := [] } }

theorem wit_HoistQueuesAndBarriers_room :
    let h := withRoom.team.hoist 0
    inHand withRoom p0 ∧ 64 + h.items.length + h.resv ≤ h.cap ∧ 64 ≤ h.allow ∧ h.waiters = [] ∧ h.items.length < 64 ∧
    h.allow + ((opened withRoom p0).srcN { plain with imm := 65471 } 0x300 0).toNat < 65536 := ⟨hand (by decide +kernel), by unfold opened; decide +kernel⟩

theorem wit_ScratchpadAtomicsRunInLaneOrder :
    inHand demo p0 ∧ teamStores demo.team = true ∧ ({ plain with imm := 4088, type := 2 } : LaneWord).type ≠ 15 ∧
    (∀ l : Fin 64, (lanesOf demo p0 plain).getLsbD l.val = true →
      Safety.padFree demo ((opened demo p0).srcN { plain with imm := 4088, type := 2 } 0 l + 4088).toNat 8 ∧ poisoned demo.team.spadPoison 4088 8 = false) :=
  ⟨demo_hand, by unfold lanesOf opened Safety.padFree; decide +kernel⟩

/-- demo with a claimed table of 16 buckets at 0 whose slots hold the key 0 but for an empty home bucket of the key 5; v1 holds 5 and v2 holds 7. -/
def table0 : HashTab := { HashTab.zero with claimed := true, desc := #v[0, 0x4000, 0, 0] }
def withTable : State :=
  (demo.modTeam fun t => { t with tabs := t.tabs.set 0 table0, spad := Memory.writeBytes t.spad 768 (List.replicate 64 255) }).modGrp fun g =>
    { g with vregs := (g.vregs.set 1 (Vector.replicate 64 5)).set 2 (Vector.replicate 64 7) }

theorem wit_HashLookups :
    (withTable.team.lookup table0 0).found = some 0 ∧ (withTable.team.lookup table0 5).found = none ∧ (withTable.team.lookup table0 5).room = some 768 ∧
    (withTable.team.lookup table0 7).found = none ∧ (withTable.team.lookup table0 7).room = none := by decide +kernel

theorem wit_HashWords :
    inHand withTable p0 ∧ lanesOf withTable p0 plain ≠ 0 ∧ withTable.team.table 0 = some table0 ∧ table0.dstate = false ∧ teamStores withTable.team = true ∧
    (∀ l : Fin 64, (opened withTable p0).hashSource plain table0.wideKey 0 l = 0 ∧ (opened withTable p0).hashSource plain table0.wideKey 1 l = 5 ∧
      (opened withTable p0).hashSource plain table0.wideKey 2 l = 7 ∧ 0 ≤ l) ∧
    (lanesOf withTable p0 plain).getLsbD 0 = true ∧ (hashOdd plain table0 .prb = false ∧ hashOdd plain table0 .ins = false ∧ hashOdd plain table0 .del = false ∧
      hashOdd plain table0 (.acc 3) = false ∧ table0.isFloat = false ∧ table0.spills = false) ∧
    (0 ≠ table0.empty ∧ 0 ≠ table0.tombstone ∧ 5 ≠ table0.empty ∧ 7 ≠ table0.tombstone) ∧
    ((withTable.team.lookup table0 0).bad = none ∧ (withTable.team.lookup table0 5).bad = none ∧ (withTable.team.lookup table0 7).bad = none) :=
  ⟨hand (by decide +kernel), by unfold lanesOf opened; decide +kernel⟩

theorem wit_HashTablesAreClaimedReadDrainedAndFreed :
    let s := withRegs [(40, 0), (41, 0x4000), (42, 0), (43, 0)]
    let h : HashTab := { HashTab.zero with claimed := true, desc := Vector.ofFn fun i : Fin 4 => s.sr (40 + BitVec.ofNat 8 i.val) }
    let c (n : Nat) : Claim := { tbl := 0, base := h.base, size := h.size, ringP := 0, ringC := 0, left := n, words := [] }
    let inWord (n : Nat) : State := s.modGrp fun g => { g with claim := some (c n) }
    (s.team.tabs[0].dstate = false ∧ s.team.tabs[0].claimed = false ∧ 0 < s.team.obj.htabs ∧ descriptorBad h.desc = false ∧ h.base + h.size ≤ s.team.spadSize ∧
     s.team.inTable h.base h.size = false ∧ s.team.poolTouched h.base h.size = false ∧ h.spills = false ∧ h.ringP = 0 ∧ h.ringC = 0 ∧ teamStores s.team = true) ∧
    (s.grp.claim = none ∧ s.team.claiming 0 = false ∧ (inWord 1).grp.claim = some (c 1) ∧ (c 1).left = 0 + 1 ∧ (inWord 0).grp.claim = some (c 0) ∧ (c 0).left = 0 ∧ (c 0).ringP = h.ringP) ∧
    (demo.team.table 1 = none ∧ demo.grp.uses = none ∧ demo.team.claimed 1 = none ∧ demo.grp.chain = none ∧ demo.grp.handler = false) ∧
    (withTable.team.claimed 0 = some table0 ∧ table0.dstate = false ∧ table0.rel = none ∧ withTable.team.hashBusy 0 = false ∧ withTable.team.tableUsed 0 = false ∧ 0 ∉ withTable.grp.hashTables) ∧
    (withTable.team.table 0 = some table0 ∧ (withTable.setSr 41 2048).drainFault table0 40 = none ∧ withTable.team.spadPoison = [] ∧
     (withTable.setSr 41 4).drainFault table0 40 = some (0x14B, 0)) := by decide +kernel

/-- withTable whose lanes hold the keys 5 and 7 by turns in v3, before an HPRB of v3 into v4 and v5, and between its two steps. -/
def twoKeys : State := withTable.modGrp fun g => { g with vregs := g.vregs.set 3 (Vector.ofFn fun l : Fin 64 => if l.val % 2 = 0 then 5 else 7) }
def probe : LaneWord := { plain with srcA := 3, dst := 4, imm := 5 + 7 * 256 }
def midHash (ls : Nat) : State :=
  twoKeys.modGrp fun g =>
    let q := ({ twoKeys with spl := 0 } : State).hashPlan probe table0 .prb (BitVec.allOnes 64)
    { g with chain := some { split := 0, head := 0, pos := 0, reads := [], savedV := g.vregs, savedP := g.preds, savedR := [], savedE := [], flags := [],
                             hash := some { q with left := q.left.drop ls } } }

theorem wit_HashWordsRunKeyByKey :
    inHand twoKeys p0 ∧ probe.hold = false ∧ twoKeys.team.table 0 = some table0 ∧ table0.dstate = false ∧ hashOdd probe table0 .prb = false ∧ twoKeys.team.spadPoison = [] ∧
    (opened twoKeys p0).sourceErr p0 0x1C1 probe = none ∧ 2 ≤ ((opened twoKeys p0).hashPlan probe table0 .prb (lanesOf twoKeys p0 probe)).left.length :=
  ⟨hand (by decide +kernel), by unfold lanesOf opened; decide +kernel⟩

theorem wit_HashWordsRunKeyByKey_between :
    let left (s : State) : Option (List Nat) := (s.grp.chain.bind fun c => c.hash).map fun q => q.left.map fun x => x.1
    let word (s : State) : Option LaneWord := (s.grp.chain.bind fun c => c.hash).map fun q => q.word
    let none_ (s : State) : Bool := match s.grp.chain.bind fun c => c.hash with | some q => q.writes.isEmpty && q.kind == .prb | none => false
    ((midHash 0).grp.splits[(midHash 0).spl] = some p0 ∧ left (midHash 0) = some [5, 7] ∧ left (midHash 1) = some [7] ∧ word (midHash 0) = some probe ∧ none_ (midHash 1) = true ∧
     (midHash 1).team.claimed 0 = some table0 ∧ probe.hold = false) ∧
    ((midHash 1).team.hashBusy 0 = true ∧ 0 ∈ (midHash 1).grp.hashTables ∧ table0.rel = none ∧ (midHash 1).grp.parked = [] ∧ (midHash 1).team.spadPoison = []) := by decide +kernel

/-- demo while its group drains the table, from the home bucket of the key 0. -/
def draining : State := withTable.modTeam fun t => { t with tabs := t.tabs.set 0 { table0 with dstate := true, live := 120 } }

theorem wit_HashTablesAreClaimedReadDrainedAndFreed_drain :
    let s := (draining.setSr 42 16)
    let h : HashTab := { table0 with dstate := true, live := 120 }
    s.team.table 0 = some h ∧ h.dstate = true ∧ h.dgrp = s.gix ∧ (h.dcur.toNat % 2 ^ 16 < 2 ^ h.logb ∧ h.dcnt.toNat < (s.sr 42).toNat) ∧ s.team.drainBad h = none ∧
    (s.modTeam fun t => { t with spadPoison := [0] }).team.drainBad h = some 0 ∧
    ((s.team.homeEntries h 0)[0]?.isSome = true ∧ s.team.poolTouched (s.sr 41).toNat h.slotBytes = false ∧ s.grp.chain = none ∧ s.grp.handler = false) ∧
    ((s.modTeam fun t => { t with pool := t.pool.set 0 (.path 0 false 0 1 0 []) }).setSr 41 (BitVec.ofNat 32 (s.team.poolAddr 0)) |>.team.poolTouched (s.team.poolAddr 0) h.slotBytes) = true ∧ ¬ (h.dcnt.toNat < (draining.sr 42).toNat) ∧ h.live ≠ 0 := by decide +kernel

theorem wit_ScalarDebugWords :
    let s := withRegs [(1, 4095), (2, 4096), (3, 0x1FF)]
    let y : Session := { mask := 1, log2 := 16, buf := 0, start := 0, trunc := false, full := false, written := 0, dropped := 0, last := [], held := [] }
    let traced : State := { demo with ctxs := demo.ctxs.set 0 { demo.ctxs[0] with session := some y } }
    let stops : State := { demo with ctxs := demo.ctxs.set 0 { demo.ctxs[0] with dsen := true } }
    (demo.ctxs[demo.team.ctx].session = none ∧ traced.ctxs[traced.team.ctx].session = some y ∧ y.mask.getLsbD 0 = true ∧ ({ y with mask := 0 } : Session).mask.getLsbD 0 = false) ∧
    ((s.sr 1).toNat < s.team.spadSize ∧ s.team.spadSize ≤ (s.sr 2).toNat ∧ (s.sr 3).getLsbD 8 = true ∧ (s.sr 1).getLsbD 8 = true ∧ (s.sr 2).getLsbD 8 = false ∧
     s.grp.chain = none ∧ s.grp.handler = false) ∧
    (demo.grp.dbgSkip ≠ some demo.grp.spc ∧ demo.ctxs[demo.team.ctx].dsen = false ∧ stops.ctxs[stops.team.ctx].dsen = true ∧ stops.grp.dbgSkip ≠ some stops.grp.spc ∧
     (withGrp fun g => { g with dbgSkip := some 0 }).grp.dbgSkip = some 0) := by decide +kernel

theorem wit_LaneDebugWordsAndFence :
    inHand demo p0 ∧ (lanesOf demo p0 plain).getLsbD 0 = true ∧ (∀ k : Fin 64, k < 0 → (lanesOf demo p0 plain).getLsbD k.val = false) ∧
    (∀ l : Fin 64, (lanesOf demo p0 plain).getLsbD l.val = true → ((opened demo p0).srcN { plain with imm := 4095 } 0x300 l).toNat < demo.team.spadSize) ∧
    lanesOf demo p0 plain ≠ 0 ∧ p0.dbgSkip ≠ some (chainHead demo p0) ∧ demo.ctxs[demo.team.ctx].dsen = false ∧ demo.splitPending = false :=
  ⟨demo_hand, by unfold lanesOf opened; decide +kernel⟩

theorem wit_LaneTrapsAndWordsThatAreNoInstruction :
    let stops : State := { demo with ctxs := demo.ctxs.set 0 { demo.ctxs[0] with dsen := true } }
    (inHand demo p0 ∧ demo.grp.handler = false ∧ demo.grp.chain = none) ∧
    ((lanesOf demo p0 plain).getLsbD 0 = true ∧ ((opened demo p0).srcN { plain with imm := 1 } 0 0 + 1).toNat % accessBytes 0 ≠ 0) ∧
    demo.team.spadSize ≤ ((opened demo p0).srcN { plain with imm := 4096 } 0x300 0).toNat ∧
    (stops.ctxs[stops.team.ctx].dsen = true ∧ p0.dbgSkip ≠ some (chainHead stops p0) ∧ lanesOf stops p0 plain ≠ 0) ∧
    8 ≤ (List.replicate 8 (1 : Word)).length ∧ p0.cstack = [] ∧ (0x040 : Cause) ≠ 0x044 :=
  ⟨⟨demo_hand, by decide +kernel⟩, by unfold lanesOf opened; decide +kernel⟩

/-- demo at VADD v5, v6, #100, where lane 3 of v6 holds an uncorrectable error. -/
def upsetLane : State :=
  { withGrp fun g => { g with errs := [.vreg 6 3] } with mem := Memory.writeLe demo.mem loadPage 12 0x005C01406C00000000000064 }

theorem wit_LaneTrapsAndWordsThatAreNoInstruction_errors :
    inHand upsetLane p0 ∧ upsetLane.grp.handler = false ∧ upsetLane.laneErrOf 0 (upsetLane.laneInstrAt 0) = some (0x100, some 3) ∧
    (withGrp fun g => { g with errs := [.sreg 6] }).scalarErr (.smov 7 6) = some 0x100 ∧ (ErrAt.sreg 6).holds = true := ⟨hand (by decide +kernel), by decide +kernel⟩

/-- A shape-table entry of the context: one-dimensional or more, with its rights, valid. -/
def withShape (s : State) (i base fmt rank rights : Nat) (ext str : List Nat) : State :=
  let a := 64 * i
  let put (m : Mem) (x : Nat × Nat × Nat) : Mem := Memory.writeLe m (a + x.1) x.2.1 x.2.2
  let l := [(0, 8, base), (8, 1, fmt), (9, 1, rank), (10, 1, rights), (14, 1, 1)] ++ (ext.zipIdx.map fun x => (16 + 4 * x.2, 4, x.1)) ++ str.zipIdx.map fun x => (0x24 + 6 * x.2, 6, x.1)
  { s with mem := l.foldl put s.mem }

/-- R213 (spec/10), its worked example: a 4 by 32 box of FP32 values, rows counted by counter 2. -/
def boxRegs : List (Nat × Nat) := [(40, 0x0002C200), (41, 0x2000), (42, 0x0009001F), (43, 16), (44, 40), (45, 0), (46, 0x200000), (47, 0x01010104)]
def copying : State :=
  withShape ((boxRegs.foldl (fun s x => s.setSr (BitVec.ofNat 8 x.1) (BitVec.ofNat 32 x.2)) demo).modTeam fun t => { t with spadSize := 16384 }) 12 0x3000 8 2 1 [300, 1000] [320]

theorem wit_CopyWordsPostTheirCommand :
    let w := copying.descriptor 40
    copying.postFault .cten w (copying.shapeEntry copying.team.ctx 12) = none ∧ copying.inFlight copying.team.core < 96 ∧ dPub w = false ∧
    (CmdOp.cten, Instr.cten 40 12) ∈ [(CmdOp.cten, Instr.cten 40 12)] ∧
    (demo.shapeEntry demo.team.ctx 1).ctx = demo.team.ctx.val ∧ (demo.shapeEntry demo.team.ctx 1).valid = false ∧ demo.grp.chain = none ∧ demo.grp.handler = false := by
  decide +kernel

/-- demo in which an entry belongs to context 1, and one where the core has 96 commands in flight. -/
theorem wit_CopyWordsPostTheirCommand_refused :
    let other : State := { copying with mem := Memory.writeLe copying.mem (64 * 12 + 12) 2 1 }
    (other.shapeEntry other.team.ctx 12).ctx ≠ other.team.ctx.val ∧ other.grp.chain = none ∧ other.grp.handler = false := by decide +kernel

/-- A command of the group in demo. -/
def cmd0 : Cmd := copying.newCmd .cten (copying.descriptor 40) (copying.shapeEntry 0 12)
def crowded : State := copying.modTeam fun t => { t with cmds := List.replicate 96 cmd0 }

theorem wit_CopyWordsPostTheirCommand_full :
    crowded.postFault .cten (crowded.descriptor 40) (crowded.shapeEntry crowded.team.ctx 12) = none ∧ ¬ (crowded.inFlight crowded.team.core < 96) := by decide +kernel

/-- demo where batch 1 has been closed with one command that still runs, and where it is complete. -/
def rec0 (st : CmdStat) : CmdRec := { seq := cmd0.seq, sub := 0, stat := st, stop := 0, crcOn := false, crc := [] }
def batched (st : CmdStat) : State := (withRegs [(1, 1), (2, 0x10000), (3, 16)]).modGrp fun g => { g with batchSeq := 1, batches := [{ seq := 1, cmds := [rec0 st] }] }

theorem wit_BatchWords :
    let s := batched .running
    let u := batched .ok
    let counts : State := s.modTeam fun t => { t with cmds := [{ cmd0 with w := (cmd0.w).set 0 (cmd0.w[0] &&& 0xFFF0FFFF) }] }
    let closed (s : State) (x : Word) : Prop := (s.grp.batchSeq - x.extractLsb' 0 16).toNat < 32768
    (∀ y ∈ s.grp.batches, y.complete = false → (s.grp.batchSeq + 1 - y.seq).toNat < 32768) ∧
    ((s.sr 1).extractLsb' 16 16 = 0 ∧ closed s (s.sr 1) ∧ (∃ y ∈ s.grp.batches, ((s.sr 1).extractLsb' 0 16 - y.seq).toNat < 32768 ∧ y.complete = false)) ∧
    (∀ y ∈ u.grp.batches, ((u.sr 1).extractLsb' 0 16 - y.seq).toNat < 32768 → y.complete = true) ∧
    ((s.sr 2).extractLsb' 16 16 ≠ 0 ∧ ¬ closed s 2 ∧ s.grp.chain = none ∧ s.grp.handler = false) ∧
    (s.grp.batches.find? (fun z => z.seq == (s.sr 1).extractLsb' 0 16) = some { seq := 1, cmds := [rec0 .running] } ∧ (rec0 .overrun).stat ≠ .ok) ∧
    (16 ≤ (s.sr 3).toNat ∧ (s.team.rowCnt[0] - s.sr 0).toNat < 2 ^ 31 ∧ 2 ^ 31 ≤ (s.team.rowCnt[1] - s.sr 1).toNat ∧ s.team.cmds = []) ∧
    (∃ c ∈ counts.team.cmds, c.live = true ∧ c.counts = true ∧ dRctr c.w = 0) ∧
    ((s.sr 2).extractLsb' 17 15 = 0 ∧ (s.sr 2).getLsbD 16 = true ∧ (s.sr 2).extractLsb' 0 16 = 0) ∧ (s.sr 1).getLsbD 16 = false := by decide +kernel

/-- demo with an entry of 32-bit elements that every right opens. -/
def atomics : State := withShape demo 5 0x3000 1 1 15 [16] []
def atomWord : LaneWord := { plain with type := 1, imm := 5 + 2 ^ 18 }

theorem wit_LaneAtomicsPostTheirCommand :
    inHand atomics p0 ∧ lanesOf atomics p0 atomWord ≠ 0 ∧
    (let x := atomics.shapeEntry atomics.team.ctx 5
     x.ctx = atomics.team.ctx.val ∧ x.valid = true ∧ x.rights = 15 ∧ fmtBits x.fmt = 8 * atomWidth 1 ∧ atomWidth 1 ≠ 16) ∧
    (atomWord.imm.toNat % 2 ^ 16 = 5 ∧ atomWord.imm.toNat / 2 ^ 16 % 8 = 4 ∧ atomWord.imm.toNat / 2 ^ 19 = 0 ∧ 64 * 4 ≤ atomics.team.spadSize ∧
     64 * 8 ≤ atomics.team.spadSize ∧ atomics.team.poolTouched 0 (64 * 8) = false) ∧
    atomics.inFlight atomics.team.core < 96 ∧ ¬ (crowded.inFlight crowded.team.core < 96) :=
  ⟨hand (by decide +kernel), by unfold lanesOf; decide +kernel⟩

/-- demo whose tiles 0 and 1 have 64 rows of 32 bytes of a format, in the matrix layout, with scaled and plain format blocks. -/
def tiled (fmt : Nat) : State :=
  (withRegs [(24, 0xE0E), (25, 0), (26, 0x0606), (27, 0), (28, 8), (29, 0x1000), (30, 2)]).modTeam fun t =>
    let x : Tile := { Tile.zero with shape := { rows := 64, rb := 32, fmt := fmt, layout := 1 } }
    { t with spadSize := 24576, tiles := (t.tiles.set 0 x).set 1 x }

/-- A request of the group in demo for the oldest age. -/
def req (k : MxKind) (f0 f1 : Word) (age : Word) : MxReq :=
  { age := age, gix := 0, kind := k, acc := 0, ta := 0, tb := 1, f0 := f0, f1 := f1, kLen := 32, next := 0, spec := false, prio := 0, starved := false, spc := 0, word := 0,
    post := 0, since := some 0 }

/-- demo with requests in flight. -/
def queued (fmt : Nat) (l : List MxReq) : State := (tiled fmt).modTeam fun t => { t with reqs := l, mxAge := 64 }

theorem wit_MatrixWordsPostRequests :
    let s := tiled 14
    let u := tiled 6
    let full := queued 6 ((List.range 64).map fun i => req .mzero 0 0 (BitVec.ofNat 32 i))
    (s.team.mmaFault true 0 0 1 (s.sr 24) (s.sr 25) = none ∧ u.team.mmaFault false 0 0 1 (u.sr 26) (u.sr 27) = none) ∧
    ((1 : BitVec 3) ≠ 7 ∧ (s.team.acc 0).pend = none ∧ (0 : BitVec 3).toNat < s.team.obj.accs) ∧
    (s.team.moutFault 0 (s.sr 28) true (s.sr 29).toNat = none ∧
     (s.modTeam fun t => { t with tiles := t.tiles.set 0 { Tile.zero with shape := { rows := 64, rb := 256, fmt := 8, layout := 0 } } }).team.moutFault 0 (s.sr 28) false 0 = none) ∧
    s.mxEntries (clusterOf s.team.core) < 64 ∧ ¬ (full.mxEntries (clusterOf full.team.core) < 64) := by decide +kernel

theorem wit_MatrixWaitsPrioritiesAndShapes :
    let s := queued 6 [req .mzero 0 0 63]
    let idle := withRegs [(20, 0x000E003F), (21, 1), (22, 0x00001000), (23, 0)]
    ((s.sr 30).toNat < 4 ∧ 4 ≤ (s.sr 24).toNat ∧ s.grp.chain = none ∧ s.grp.handler = false ∧ demo.team.reqs = []) ∧
    ((0 : BitVec 3).toNat < s.team.obj.accs ∧ s.team.obj.accs ≤ (2 : BitVec 3).toNat ∧ s.grp.fence = none ∧ 1 ≤ (s.team.mxAge - 63).toNat ∧ (s.team.mxAge - 63).toNat < 2 ^ 31 ∧
     (∀ k : Fin 8, s.team.accs[k].pend = none) ∧ 0 ∈ (req .mzero 0 0 63).accs ∧ (1 : BitVec 3).toNat ∉ (req .mzero 0 0 63).accs) ∧
    ((idle.sr 21).toNat < 2 ∧ (idle.sr 20).toNat < 2 ^ 21 ∧ (idle.sr 20).toNat / 2 ^ 12 % 16 = 0 ∧ (idle.sr 20).toNat / 2 ^ 16 ≤ 0x10 ∧ (idle.sr 20).toNat % 256 < 128 ∧
     ((idle.sr 20).toNat % 256 + 1) * (16 * ((idle.sr 20).toNat / 256 % 16 + 1)) ≤ 16384 ∧ idle.team.tileInUse 0 = false ∧ idle.grp.chain = none ∧ idle.grp.handler = false) ∧
    ((idle.sr 22).toNat / 2 ^ 12 % 16 ≠ 0 ∧ idle.team.obj.tiles ≤ (2 : BitVec 5).toNat ∧ (1 : BitVec 5).toNat < idle.team.obj.tiles) := by decide +kernel

theorem wit_MatrixEngineSteps :
    let ok (s : State) (r : MxReq) : Prop :=
      s.team.live = true ∧ s.team.reqs.find? (fun x => x.age == r.age) = some r ∧ r.acc < 8 ∧ (s.dies[dieOf s.team.core]).up = true ∧ (s.dies[dieOf s.team.core]).relock = none ∧
      (s.at s.cur r.gix).granted r = true ∧ (s.team.acc r.acc).poison = false ∧ (s.team.acc r.acc).err = false
    let a := req (.mma true) 0xE0E 0x800000 0
    let b := req (.mma false) 0x606 0 0
    let z := req .mzero 0 0 0
    let o := req (.mout true) 8 0x1000 0
    (ok (queued 14 [a]) a ∧ fbWide a.f0 = false ∧ (queued 14 [a]).team.passPoisoned a true 0 = false ∧ byteInt (fbA a.f0) = false) ∧
    (ok (queued 6 [b]) b ∧ fbWide b.f0 = false ∧ (queued 6 [b]).team.passPoisoned b false 0 = false ∧ byteInt (fbA b.f0) = true) ∧
    ok (queued 6 [z]) z ∧ ok (queued 6 [o]) o ∧ teamStores (queued 6 [o]).team = true ∧ moAk o.f0 = 0 ∧ 8 ≤ fmtBits (moFmt o.f0) ∧ moRow o.f0 ≤ moPitch o.f0 := by
  decide +kernel

theorem wit_MatrixEngineSteps_starved :
    let z := req .mzero 0 0 0
    let s : State := { queued 6 [z] with dies := demo.dies.set 0 { demo.dies[0] with ccyc := 8192 } }
    s.team.eligible z = true ∧ z.starved = false ∧ z.since = some 0 ∧ 8192 ≤ ((s.dies[dieOf s.team.core]).ccyc - 0).toNat := by decide +kernel

/-! ### Ordering and launches -/

/-- What a read of the hub got. -/
def gotten {α : Type} (x : Got α) : Option α := match x with | .got a => some a | _ => none

/-- The n bytes that a list of fields (offset, bytes, value) writes, zero elsewhere. -/
def packed (l : List (Nat × Nat × Nat)) (n : Nat) : List Byte := Memory.readBytes (l.foldl (fun m x => Memory.writeLe m x.1 x.2.1 x.2.2) []) 0 n

/-- The launch body of the tests: code object 0, counter 0, every die of D0, one team, its arguments at 0x5000. -/
def body : List (Nat × Nat × Nat) :=
  [(0, 1, 1), (3, 1, 4), (6, 1, 1), (0x10, 4, 1), (0x14, 4, 1), (0x18, 4, 1), (0x20, 8, 0x5000), (0x34, 4, 1)]

/-- demo whose context has 4 pennants, counters and slots, rings at 0x2000 and 0x2200, one code object at 0x4000 and a launch body at 0x6000; a host page lies at
0x10000 and an uncached device page at 0x20000. -/
def hubbed : State :=
  let raw := ofBytes (packed [(0, 8, loadTable 1), (0x18, 8, 0x2000), (0x20, 8, 0x2400), (0x28, 1, 8), (0x29, 1, 6), (0x32, 2, 4), (0x36, 2, 4), (0x3A, 2, 4), (0x48, 8, 0x4000),
                              (0x58, 4, 1)] 128)
  let page (m : Mem) (va : Nat) (l : List (Nat × Nat × Nat)) : Mem := l.foldl (fun m x => Memory.writeLe m (loadPage + va + x.1) x.2.1 x.2.2) m
  let tables := (Memory.writeLe (Memory.writeLe demo.mem (loadTable 4 + 8) 8 (0x27 + 2 ^ 58)) (loadTable 4 + 16) 8 (0x60000 + 0x3F + 2 ^ 57))
  { demo with ctxs := demo.ctxs.set 0 { demo.ctxs[0] with raw := BitVec.ofNat 1024 raw },
              mem := page (page tables 0x6000 body) 0x4000 [(0, 8, 0x1000), (8, 4, 64), (0x14, 4, 16), (0x18, 1, 1), (0x40, 1, 1), (0x41, 1, 4)] }
def hubRegs (l : List (Nat × Nat)) : State := l.foldl (fun s x => s.setSr (BitVec.ofNat 8 x.1) (BitVec.ofNat 32 x.2)) hubbed

/-- A command of demo's group that still runs. -/
def busy (s : State) : State := s.modTeam fun t => { t with cmds := [{ cmd0 with seq := 0 }] }

theorem wit_FencesMoveAndInvalidate :
    let b : CByte := { pa := loadPage + 0x3000, val := 7, dirty := true, pois := false, home := 0, way := 0, codec := 0, stream := false }
    let s : State := { demo with cores := demo.cores.set 0 { demo.cores[0] with l1 := [b] } }
    let homes := s.pushHomes s.team.core 5 (fun _ => true) fun _ => true
    s.pushWaits homes = false ∧ s.pushLost homes = false ∧ s.earlier = false ∧ (busy s).earlier = true ∧
    (busy s).pushWaits ((busy s).pushHomes s.team.core 5 (fun _ => true) fun _ => true) = false ∧
    Memory.wf s.mem = true ∧ (s.cores[s.team.core]).l1 = [b] ∧ (s.dies[dieOf s.team.core]).far = [] ∧ (s.clusters[clusterOf s.team.core]).atom = [] ∧
    (s.cores[s.team.core]).comb = [] ∧ s.homeRed = [] ∧ s.outgoing = [] ∧ b.pa < devBytes ∧ s.homeUp b.home = true := by decide +kernel

theorem wit_PennantWords :
    let s := hubRegs [(1, 0x4003), (2, 5), (4, 3), (6, 4), (8, 0x3F), (9, 0)]
    let x := s.ctx s.team.ctx
    let none (y : CByte) : Bool := inRegions (s.regionTable s.dieIx s.team.ctx []) y.pa
    ((s.sr 1).toNat % 4096 < x.count .pennants ∧ (s.sr 1).toNat < 2 ^ 15 ∧ 1 ≤ (s.sr 1).toNat / 4096 ∧ (s.sr 1).toNat / 4096 ≤ 5 ∧ (s.bindRegion 8 0).isSome = true) ∧
    ((s.sr 4).toNat % 4096 < x.count .pennants ∧ (s.sr 4).toNat < 4096 ∧ s.earlier = false ∧ s.held = false ∧ (busy s).earlier = true ∧ s.myPacq = Option.none) ∧
    (s.pushWaits (s.pushHomes s.team.core 4 none fun _ => false) = false ∧ s.pushLost (s.pushHomes s.team.core 4 none fun _ => false) = false) ∧
    (Cond.ge.holds (s.pennant 3).ctr (s.sr64 2) = false ∧ Cond.eq.holds (s.pennant 3).ctr (s.sr64 10) = true ∧ Cond.ne.holds (s.pennant 3).ctr (s.sr64 2) = true) ∧
    (x.count .pennants ≤ (s.sr 6).toNat % 4096 ∧ s.grp.chain = Option.none ∧ s.grp.handler = false) := by decide +kernel

theorem wit_PennantWords_satisfied :
    let y : PacqWait := { team := 0, grp := 0, pen := 3, cond := .ge, v := 5, sat := some (4, []) }
    let s : State := { hubbed with pacqs := [y] }
    s.team.live = true ∧ s.grp.phase = .running ∧ s.die.up = true ∧ s.die.relock = none ∧ s.grp.stepping = false ∧ s.myPacq = some y ∧ y.sat = some (4, []) ∧
    s.pushWaits (s.pushHomes s.team.core 4 (fun z => inRegions (s.regionTable s.dieIx s.team.ctx []) z.pa) fun _ => false) = false := by decide +kernel

theorem wit_WaitaSpresizeAndCombiningSlots :
    let s := hubRegs [(2, 0x3000), (4, 0x10000), (6, 3), (8, 7), (12, 1), (14, 1), (16, 9)]
    let e (a : Reg) : Option TlbE := (s.translateAt s.team.core s.team.ctx (s.sr64 a).toNat .read true).2.toOption
    ((s.sr64 6).toNat % 8 ≠ 0 ∧ s.grp.chain = none ∧ s.grp.handler = false) ∧
    ((s.sr64 4).toNat % 8 = 0 ∧ (e 4).map (fun e => e.space) = some .host ∧ (s.sr64 2).toNat % 8 = 0 ∧ (e 2).map (fun e => (e.space, s.homeBusy (e.home (e.addr 0x3000)))) = some (.device, false) ∧
     s.grp.waitaRes = none ∧ s.grp.armed = false ∧ s.myMonitor = none ∧ s.monitors.length < 1024) ∧
    (Cond.ge.holds 0 (s.sr64 10) = true ∧ Cond.ge.holds 0 (s.sr64 12) = false) ∧
    (s.resizeRefused 0 (s.sr 8).toNat = true ∧ s.resizeRefused 0 (s.sr 14).toNat = false) := by decide +kernel

theorem wit_WaitaSpresizeAndCombiningSlots_monitor :
    let m : Monitor := { team := 0, grp := 0, die := 0, pa := loadPage + 0x3000, cond := .ge, v := 0, sat := true }
    let s : State := { hubbed with monitors := [m], mem := Memory.writeLe hubbed.mem (loadPage + 0x1000) 4 0xDC046858 }
    s.myMonitor = some m ∧ m.sat = true ∧ s.scalarInstr = .waitaGe 1 26 22 ∧ s.team.live = true ∧ s.grp.phase = .running ∧ s.die.up = true ∧ s.die.relock = none ∧
    s.grp.stepping = false := by decide +kernel

/-- hubbed whose slot 1 waits for one contribution and has it; its result belongs at an address. -/
def slotted (addr : DWord) (n : Nat) : State :=
  { hubbed with slots := hubbed.slots.set 1 { Slot.zero with armed := true, penen := true, pen := 2, expect := 1, contribs := List.replicate n 7, resaddr := addr } }

theorem wit_WaitaSpresizeAndCombiningSlots_slots :
    let s := (slotted 0x3000 0).setSr 14 1
    let y := s.ctx s.team.ctx
    let bad := slotted 0x30000 1
    ((1 : Fin 256).val = y.base .slots + (s.sr 14).toNat ∧ (s.sr 14).toNat < y.count .slots ∧ (s.slots[1]).armed = true ∧ s.held = false ∧ (s.slots[0]).armed = false) ∧
    (y.count .slots ≤ 4 ∧ y.count .slots < 256 ∧ s.grp.chain = none ∧ s.grp.handler = false ∧ s.owner .slots 1 = some 0) ∧
    (((slotted 0x3000 1).slots[1]).expect ≤ ((slotted 0x3000 1).slots[1]).contribs.length ∧ ((slotted 0x3000 1).hubWrite 0 0x3000 (toBytes 8 7)).toOption.isSome = true ∧
     (s.ctx 0).base .pennants + 2 < 4096) ∧
    ((bad.slots[1]).armed = true ∧ (bad.hubWrite 0 0x30000 (toBytes 8 7)).toOption.isSome = false ∧ bad.owner .slots 1 = some 0) := by decide +kernel

/-- hubbed where counter 1 runs beside the launch of the team itself. -/
def counting : State :=
  { hubRegs [(1, 1), (2, 2 ^ 30 + 1), (3, 4), (4, 2 ^ 31), (6, 0x6000), (8, 0x6001)] with counters := hubbed.counters.set 1 { Counter.fresh with status := 0, target := 5 } }

theorem wit_LaunchWords :
    let s := counting
    let x := s.ctx s.team.ctx
    ((s.sr 1).toNat < x.count .counters ∧ (s.sr 1).toNat < 4096 ∧ (s.sr 2).toNat / 2 ^ 30 = 1 ∧ (s.sr 2).toNat % 2 ^ 30 < 4096 ∧ (s.sr 2).toNat % 4096 < x.count .counters ∧
     s.earlier = false ∧ s.held = false) ∧
    (let n := s.counter 1
     let homes := s.pushHomes s.team.core n.scope.toNat (fun _ => true) fun _ => true
     s.pushWaits homes = false ∧ s.pushLost homes = false ∧ n.status = 0 ∧ n.count + 1 ≠ n.target ∧ (s.counter 0).status ≠ 0) ∧
    (2 ^ 31 ≤ (s.sr 4).toNat ∧ x.count .counters ≤ (s.sr 3).toNat % 4096 ∧ (s.sr 3).toNat / 2 ^ 31 = 0 ∧ s.cncTarget (s.sr 1) = some 1 ∧ s.launches = []) ∧
    ((s.sr64 8).toNat % 64 ≠ 0 ∧ s.grp.chain = none ∧ s.grp.handler = false) := by decide +kernel

theorem wit_LaunchWords_lnch :
    let s := counting
    let u := s.pushScope s.team.core 4
    let homes := s.pushHomes s.team.core 4 (fun _ => true) fun _ => true
    ((s.sr64 6).toNat % 64 = 0 ∧ s.grp.waitaRes = none ∧ s.grp.armed = false ∧ s.grp.lnch = none ∧ s.earlier = false ∧ s.held = false) ∧
    (s.pushWaits homes = false ∧ s.pushLost homes = false ∧ gotten (u.fetchBytes s.team.ctx 0x6000 64) = some (packed body 64)) ∧
    (lnchBad ((s.ctx s.team.ctx).count .counters) (packed body 64) = false ∧ (gotten (u.parseBody s.team.ctx (packed body 64))).map (fun l => l.cnt) = some (some 0)) ∧
    (u.running 0 = false ∧ field (packed body 64) 0x20 8 = 0x5000 ∧ (gotten (u.fetchBytes s.team.ctx 0x5000 64)).isSome = true ∧ s.poolFree = true) := by decide +kernel

/-! ### Engines, caches and packets -/

/-- hubbed in which the group's only command, of a row of one element with an index, reaches a vector of 16 elements at an address. -/
def engaged (op : CmdOp) (w0 index base : Nat) (fill : Bool) : State :=
  let regs : List (Nat × Nat) := [(40, w0), (41, 0x2000), (42, 8), (43, index), (44, 0), (45, 0), (46, 0x10000), (47, 0x01010101)]
  let s := (regs.foldl (fun s x => s.setSr (BitVec.ofNat 8 x.1) (BitVec.ofNat 32 x.2)) hubbed).modTeam fun t => { t with spadSize := 16384 }
  let sh : Shape := { Shape.zero with base := BitVec.ofNat 64 base, fmt := 8, rank := 1, rights := 15, fill := fill, valid := true, ext := [16, 1, 1, 1, 1] }
  s.modTeam fun t => { t with cmds := [{ s.newCmd op (s.descriptor 40) sh with gix := 0, seq := 1 }] }

def headCmd (s : State) : Cmd := s.team.cmds.headD cmd0

/-- The command in hand can be stepped. -/
def steppable (s : State) : Prop :=
  (s.team.findCmd 0 1 fun x => x.active && decide (x.pos < x.total)).isSome = true ∧ s.team.cmds.length = 1 ∧ s.engineRuns = true ∧ s.team.behind (headCmd s) = false ∧ s.held = false ∧
  teamStores s.team = true

theorem wit_CopyEngineSteps_out_of_bounds :
    let s := engaged .cten 0 16 0x3000 false
    let u := engaged .cten 0 16 0x3000 true
    let c := headCmd s
    steppable s ∧ steppable u ∧ (c.op = .cten ∧ dDir c.w = 0 ∧ dXf c.w = 0 ∧ dDk c.w ≠ 1 ∧ c.shape.inBounds (c.coords c.pos) = false ∧ c.shape.fill = false) ∧
    ((headCmd u).shape.inBounds ((headCmd u).coords 0) = false ∧ (headCmd u).shape.fill = true ∧ fmtBits (headCmd u).lfmt = 32 ∧ u.team.poolTouched 0x2000 4 = false) := by
  unfold steppable; decide +kernel

theorem wit_CopyEngineSteps_reads :
    let bad := engaged .cten 0 3 0x30000 false
    let s := engaged .cten 0 3 0x10000 false
    let c := headCmd s
    let va := c.shape.addr (c.coords c.pos)
    (steppable bad ∧ (headCmd bad).shape.inBounds ((headCmd bad).coords 0) = true ∧ (bad.translate bad.dieIx bad.team.ctx 0x3000C .read).toOption = none) ∧
    (steppable s ∧ c.shape.inBounds (c.coords c.pos) = true ∧ va = 0x1000C ∧ c.n0 = 1 ∧ c.lfmt = c.shape.fmt ∧ fmtBits c.lfmt = 32 ∧
     (s.translate s.dieIx s.team.ctx va .read).toOption.map (fun e => (e.space, e.poison)) = some (.host, false) ∧
     s.team.poolTouched (c.local0 + c.pos / c.n0 * dRowBytes c.op c.w c.shape) 4 = false) := by unfold steppable; decide +kernel

theorem wit_CopyEngineSteps_fills :
    let s := engaged .cfill 0 3 0x20000 false
    let c := headCmd s
    steppable s ∧ c.op = .cfill ∧ c.shape.inBounds (c.coords c.pos) = true ∧ dOp c.w = 0 ∧ c.n0 = 1 ∧ fmtBits c.shape.fmt = 32 ∧ s.core.comb = [] ∧ s.homeRed = [] ∧ s.outgoing = [] ∧
    Memory.wf s.mem = true ∧ (s.translate s.dieIx s.team.ctx (c.shape.addr (c.coords c.pos)) .write).toOption.map
      (fun e => (e.space, e.cp, e.poison, s.homeBusy (e.home (e.addr 0x2000C)), e.addr 0x2000C % 4)) = some (.device, 2, false, false, 0) := by
  unfold steppable; decide +kernel

theorem wit_CopyEngineSteps_stops :
    let s := engaged .cten 0x8000 3 0x10000 false
    let put (f : Cmd → Cmd) : State := s.modTeam fun t => { t with cmds := t.cmds.map f }
    let stopped (k : Cause) := put fun c => { c with fault := some (k, 0x10000) }
    let row := put fun c => { c with pos := 1 }
    let found (u : State) (p : Cmd → Bool) : Prop := (u.team.findCmd 0 1 p).isSome = true ∧ u.team.cmds.length = 1 ∧ u.team.live = true
    (found (stopped 0x080) (fun x => x.stat == .running && x.fault.isSome) ∧ found (stopped 0x090) (fun x => x.stat == .running && x.fault.isSome)) ∧
    (s.grp.phase = .running ∧ found row (fun x => x.live && x.rowReady) ∧ found row (fun x => x.active && decide (x.total ≤ x.pos)) ∧
     row.engineRuns = true ∧ row.team.behind (headCmd row) = false) := by decide +kernel

theorem wit_CachesWriteBackAndCombine :
    let b : CByte := { pa := 0x53000, val := 7, dirty := true, pois := false, home := 0, way := 0, codec := 0, stream := false }
    let e : Comb := { src := 0, sector := 0x53000 / 64, op := 1, fmt := 1, home := 0, way := 0, codec := 0, parts := [{ pa := 0x53000, val := 5, pois := false, who := [] }], out := [] }
    let s : State := { State.reset with cores := State.reset.cores.set 0 { State.reset.cores[0] with l1 := [b], comb := [e] },
                                        dies := State.reset.dies.set 0 { State.reset.dies[0] with far := [b] },
                                        clusters := State.reset.clusters.set 0 { State.reset.clusters[0] with atom := [b] }, homeRed := [e] }
    (Memory.wf s.mem = true ∧ s.outgoing = [] ∧ ∀ x : DieIx, (s.dies[x]).relock = none ∧ (s.dies[x]).up = true) ∧
    (s.cores[0].l1 = [b] ∧ s.dies[0].far = [b] ∧ s.clusters[0].atom = [b] ∧ b.pa / 64 = 0x14C0 ∧ b.pa / 256 = 0x530 ∧ b.home = (dieOf 0).val ∧ b.home = 0 / 10) ∧
    (b.pa < devBytes ∧ 0x53000 + redBits 1 / 8 ≤ devBytes ∧ s.homePoisoned 0x53000 (redBits 1 / 8) = false) ∧
    (s.cores[0].comb[0]? = some e ∧ s.homeRed[0]? = some e ∧ e.parts = [{ pa := 0x53000, val := 5, pois := false, who := [] }] ∧ e.home < 4) := by decide +kernel

/-- hubbed whose queue 3 runs, with a packet in hand. -/
def queue (b : List Byte) (f : Option (List FenceCond)) : State :=
  { hubbed with queues := hubbed.queues.set 3 { hubbed.queues[3] with state := 1, ring := 0x7000, ridxa := 0x8000, packet := some b, fence := f } }

/-- The queue's packet is to be parsed. -/
def parses (s : State) (b : List Byte) : Prop :=
  s.queueCtx 3 = some 0 ∧ (s.queues[3]).state = 1 ∧ (s.queues[3]).waitTag = none ∧ s.mgmt.ready0.getLsbD 0 = true ∧ (s.queues[3]).failed = false ∧ (s.queues[3]).packet = some b

/-- A graph of one node whose record is at 0x6000, with its state area at 0x9000; counter 0. -/
def graph0 : List Byte := packed [(0, 1, 2), (8, 8, 0x6000), (16, 4, 1), (24, 8, 0x9000)] 64
/-- A FENCE at scope k for one condition, which is at 0x9000. -/
def fence0 (k : Nat) : List Byte := packed [(0, 1, 3), (4, 1, 1), (5, 1, k), (8, 8, 0x9000)] 64
def cond0 (seen : Bool) : FenceCond := { space := .device, pa := 0, cond := .ge, v := 0, seen := seen }

theorem wit_PacketsThatLaunchAndFence_launch :
    let b := packed body 64
    let s := queue b none
    let bad := packed ((7, 1, 1) :: body) 64
    parses s b ∧ parses (queue bad none) bad ∧
    (packetType 1 b = true ∧ (gotten (s.parseBody 0 b)).isSome = true ∧ bodyCnt b < (s.ctxs[0]).count .counters ∧ (s.ctxs[0]).base .counters + bodyCnt b < 4096 ∧
     (s.counter ((s.ctxs[0]).base .counters + bodyCnt b)).status ≠ 0 ∧ (gotten (s.fetchBytes 0 (field b 0x20 8) 64)).isSome = true) ∧
    (packetType 1 bad = true ∧ bodyFieldsOk bad = false) := by unfold parses; decide +kernel

theorem wit_PacketsThatLaunchAndFence_read :
    let s := { queue [] none with queues := (queue [] none).queues.set 3 { (queue [] none).queues[3] with packet := none, widx := 1 } }
    s.queues[3].packet = none ∧ s.queues[3].ridx.toNat < s.queues[3].widx.toNat ∧ (gotten (s.fetchBytes 0 s.queues[3].packetVa 64)).isSome = true := by decide +kernel

theorem wit_PacketsThatLaunchAndFence_graph :
    let s := queue graph0 none
    let d := Memory.readBytes s.mem (loadPage + 0x6000) 128
    parses s graph0 ∧ packetType 2 graph0 = true ∧ graphFieldsOk graph0 = true ∧ field graph0 4 2 < (s.ctxs[0]).count .counters ∧
    gotten (s.fetchBytes 0 (field graph0 8 8) 128) = some d ∧ graphShapeOk (nodeRecords d 1) = true ∧ gotten (s.nodeBodies 0 (nodeRecords d 1)) = some () ∧
    (s.counter 0).status ≠ 0 ∧ (s.hubWrite 0 (field graph0 24 8) ((nodeRecords d 1).flatMap fun r => toBytes 4 (field r 0x40 2))).toOption.isSome = true := by
  unfold parses; decide +kernel

theorem wit_PacketsThatLaunchAndFence_fence :
    let s := queue (fence0 4) none
    let d := Memory.readBytes s.mem (loadPage + 0x9000) 24
    (parses s (fence0 4) ∧ packetType 3 (fence0 4) = true ∧ (s.queues[3]).fence = none ∧ fenceFieldsOk (fence0 4) = true ∧
     gotten (s.fetchBytes 0 (field (fence0 4) 8 8) (24 * field (fence0 4) 4 1)) = some d ∧
     (gotten (s.armConds 0 ((List.range 1).map fun i => (d.drop (24 * i)).take 24))).isSome = true) ∧
    ((∀ z ∈ [cond0 true], z.seen = true) ∧ (∃ z ∈ [cond0 false], z.seen = false) ∧ (∀ d : DieIx, (s.dies[d]).relock = none) ∧ field (fence0 0) 5 1 ≤ 1 ∧ 4 ≤ field (fence0 4) 5 1 ∧
     parses (queue (fence0 0) (some [cond0 true])) (fence0 0)) := by unfold parses; decide +kernel

theorem wit_PacketsThatSignalAndTrace :
    let sig (op : Nat) := packed [(0, 1, 4), (4, 1, op), (5, 1, 4), (8, 8, 0x9000 + 0x17000 * op), (16, 8, 5)] 64
    let stamp := packed [(0, 1, 5), (8, 8, 0x9000)] 64
    let cancel := packed [(0, 1, 6)] 64
    let nop := packed [(0, 1, 8)] 64
    let trace (op : Nat) := packed [(0, 1, 7), (4, 1, op), (5, 1, 1), (8, 8, 0xA000), (16, 1, 16)] 64
    let s := queue (sig 0) none
    let l : Launch := { bodyLaunch 0 0 (packed body 64) Obj.zero with queue := some 3 }
    parses s (sig 0) ∧
    (packetType 4 (sig 0) = true ∧ signalFieldsOk (sig 0) = true ∧ signalFieldsOk (sig 1) = true ∧ field (sig 0) 4 1 = 0 ∧ field (sig 1) 4 1 = 1 ∧ s.queueWork 3 = [] ∧ s.hubWaits (field (sig 0) 5 1) = false ∧
     ({ s with launches := [l] } : State).queueWork 3 ≠ []) ∧
    (((s.hubRelease (field (sig 0) 5 1)).hubWrite 0 0x9000 (toBytes 8 5)).toOption.isSome = true ∧ ((s.hubRelease (field (sig 1) 5 1)).hubAdd 0 0x20000 5).toOption.isSome = true) ∧
    (packetType 5 stamp = true ∧ zeroAt stamp 1 7 = true ∧ field stamp 8 8 % 8 = 0 ∧ zeroAt stamp 16 48 = true) ∧
    (packetType 6 cancel = true ∧ zeroAt cancel 1 3 = true ∧ zeroAt cancel 6 58 = true ∧ field cancel 4 2 < (s.ctxs[0]).count .counters ∧ s.launches = []) ∧
    (packetType 8 nop = true ∧ zeroAt nop 1 63 = true ∧ 8 < field (packed [(0, 1, 9)] 64) 0 1) ∧
    (packetType 7 (trace 0) = true ∧ traceFieldsOk (trace 0) = true ∧ traceFieldsOk (trace 1) = true ∧ traceFieldsOk (trace 2) = true ∧ (s.ctxs[0]).session = none ∧
     (s.ctxs[0]).ringBad.getLsbD 2 = false ∧ (s.ringWrite 0 0xA000 (toBytes 64 0)).toOption.isSome = true) := by unfold parses; decide +kernel

/-! ### Teams, records and windows -/

/-- A launch of one team of the object at 0x4000, and hubbed where it may go to core 0. -/
def launch0 : Launch := bodyLaunch 0 0 (packed body 64) { Obj.zero with stext := 0x1000, ssize := 64, lwords := 16, groups := 1, vregs := 32 }
def placing : State :=
  { hubbed with mgmt := { hubbed.mgmt with ready1 := 1, booted := true },
                parts := hubbed.parts.set 0 { hubbed.parts[0] with st := 1, ctx := 0, clmask := 1 }, launches := [{ launch0 with id := 9 }] }

theorem wit_TeamsAreDispatchedAndRetire_placement :
    let l := { launch0 with id := 9 }
    let s := placing
    s.launches.find? (fun y => y.id == l.id) = some l ∧ (s.teams[7]).live = false ∧ s.couldPlace l 0 = true ∧ l.race = false ∧
    fitsAt (s.residents 0) (s.cores[0]).ways l.obj l.spadX 4096 [5] = true ∧ s.acquireWaits 0 = false ∧ (∀ y ∈ s.launches, y.before l = false) := by
  decide +kernel

theorem wit_TeamsAreDispatchedAndRetire_node :
    let g : Graph := { id := 4, ctx := 0, queue := 3, after := [], cnt := 0, recs := [packed body 128], area := 0x9000, finished := false, dropped := [] }
    let s : State := { hubbed with readyNodes := [(4, 0)], graphs := [g] }
    let r := g.recs.getD 0 []
    s.graphs.find? (fun z => z.id == g.id) = some g ∧ s.poolFree = true ∧ (gotten (s.parseBody g.ctx (r.take 64))).map (fun l => l.cnt) = some (some 0) ∧
    (s.counter 0).status ≠ 0 ∧ (gotten (s.fetchBytes g.ctx (field r 0x20 8) 64)).isSome = true := by decide +kernel

theorem wit_TeamsAreDispatchedAndRetire_start :
    let s := placing
    s.launches.find? (fun y => y.id == 9) = some { launch0 with id := 9 } ∧ launch0.started = false ∧ (s.reft - launch0.start).toNat < 2 ^ 63 := by decide +kernel

/-- demo where the group has ended. -/
def ended : State := demo.modGrp fun g => { g with phase := .exited, blocks := [] }

theorem wit_TeamsAreDispatchedAndRetire_retire :
    ended.team.live = true ∧ (∀ k : GrpIx, (ended.team.groups[k]).phase = .none ∨ (ended.team.groups[k]).phase = .exited) ∧ ended.team.cmds = [] ∧ ended.team.reqs = [] ∧
    (ended.dies[dieOf ended.team.core]).up = true ∧ (∀ d : DieIx, (ended.dies[d]).relock = none) := by decide +kernel

theorem wit_TeamsAreDispatchedAndRetire_complete :
    let l := { launch0 with next := 1 }
    let s : State := { State.reset with launches := [l], counters := State.reset.counters.set 0 { Counter.fresh with status := 0, target := 5 } }
    (s.launches.find? (fun y => y.id == l.id) = some l ∧ l.total ≤ l.next ∧ 0 < l.total ∧ s.saved = [] ∧ l.cnt = some 0 ∧ (s.counter 0).status = 0 ∧
     (s.counter 0).count + 1 ≠ (s.counter 0).target ∧ l.node = none) ∧ ∀ k : TeamIx, (s.teams[k]).live = true → (s.teams[k]).launch ≠ l.id := by
  refine ⟨by decide +kernel, fun k hk => ?_⟩
  simp only [State.reset, Vector.getElem_replicate, Fin.getElem_fin] at hk
  exact absurd hk (by decide)

theorem wit_TeamsAreDispatchedAndRetire_fault :
    let s := (busy { (batched .suspended) with mem := Memory.writeLe demo.mem (loadPage + 0x1000) 4 0x88000401 }).modTeam fun t =>
      { t with cmds := t.cmds.map fun c => { c with stat := .suspended }, groups := t.groups.set 0 { t.groups[0] with blocks := [], splits := Vector.replicate 4 none } }
    (s.at 0 0).faultWaits = true ∧ s.team.haltable = true ∧ s.team.waitSince = none := by decide +kernel

theorem wit_TeamsAreDispatchedAndRetire_deadlock :
    let s := ({ demo with mem := Memory.writeLe demo.mem (loadPage + 0x1000) 4 0xE0000003 } : State).modTeam fun t =>
      { t with hoists := t.hoists.set 0 { cap := 64, items := [], allow := 64, resv := 0, waiters := [(0, 0, false, 1)] } }
    s.team.live = true ∧ (∀ k : GrpIx, (s.at 0 k).groupStuck = true) ∧ (s.team.groups[0]).phase = .running ∧ s.team.publishing = false ∧ (s.at 0 0).waitsOn 0 = some 0 := by
  decide +kernel

theorem wit_TeamsAreDispatchedAndRetire_delivery :
    let p : Pend := { cmd := true, split := none, trap := { TrapRec.zero with cause := 0x081, async := true } }
    let s := demo.modTeam fun t => { t with handler := some 16, groups := t.groups.set 0 { t.groups[0] with pend := [p] } }
    let g := s.team.groups[0]
    s.team.live = true ∧ (s.dies[dieOf s.team.core]).up = true ∧ (s.dies[dieOf s.team.core]).relock = none ∧ g.phase = .running ∧ g.chain = none ∧ g.stopReq = false ∧
    g.handler = false ∧ g.uses = none ∧ g.pend = [p] ∧ p.trap.cause ≠ 0x154 ∧ g.lnch = none ∧ (∀ k : Fin 4, (s.team.tabs[k]).dstate = false ∧ (s.team.tabs[k]).rel ≠ some 0) ∧ causeHandled p.trap.cause = true ∧
    s.team.handler = some 16 := by decide +kernel

theorem wit_TeamsAreDispatchedAndRetire_promotion :
    let s : State := { demo with dies := demo.dies.set 0 { demo.dies[0] with ccyc := 1024 } }
    s.team.live = true ∧ s.grp.phase = .running ∧ s.grp.splits[(0 : SplitIx)] ≠ none ∧
    1024 ≤ ((s.dies[dieOf s.team.core]).ccyc - s.grp.lastIssue[contender (some 0)]).toNat ∧ (0, 0, some 0) ∉ (s.cores[s.team.core]).promoted ∧
    ((demo.dies[dieOf demo.team.core]).ccyc - demo.grp.lastIssue[contender none]).toNat < 1024 := by decide +kernel

/-- hubbed with one record that waits on a lane. -/
def recording (rep : Bool) : State :=
  { hubbed with ctxs := hubbed.ctxs.set 0 (hubbed.ctxs[0].setRing rep { RingSt.zero with waiting := [{ TrapRec.zero with cause := 0x081 }] }) }

theorem wit_RecordsSamplesAndReplies_records :
    let s := recording false
    let u := recording true
    let w (s : State) (va : Nat) (b : List Byte) := (s.ringWrite 0 va b).toOption
    ((s.ctxs[0]).valid = true ∧ (s.ctxs[0]).ringBad.getLsbD 0 = false ∧ (s.ctxs[0]).fring.waiting.length = 1 ∧ (s.ctxs[0]).fring.overflow = 0 ∧
     (s.hubReadLe 0 ((s.ctxs[0]).ringAt false + 8) 8).toOption = some 0 ∧ s.hubPoisoned 0 ((s.ctxs[0]).ringAt false + 8) 8 = false ∧ 64 < (s.ctxs[0]).ringSize false ∧
     ((w s ((s.ctxs[0]).ringAt false + 0x40) TrapRec.zero.bytes).bind fun u => w u ((s.ctxs[0]).ringAt false) (toBytes 8 1)).isSome = true) ∧
    ((u.ctxs[0]).valid = true ∧ (u.ctxs[0]).ringBad.getLsbD 1 = false ∧ (u.ctxs[0]).rring.waiting.length = 1 ∧ (u.fatalStep 0).isNone = true ∧ (u.ctxs[0]).fring.waiting = [] ∧
     (u.hubReadLe 0 ((u.ctxs[0]).ringAt true + 8) 8).toOption = some 0 ∧ u.hubPoisoned 0 ((u.ctxs[0]).ringAt true + 8) 8 = false ∧ 0 < (u.ctxs[0]).ringSize true ∧
     ((w u ((u.ctxs[0]).ringAt true + 0x40) TrapRec.zero.bytes).bind fun v => w v ((u.ctxs[0]).ringAt true) (toBytes 8 1)).isSome = true) := by decide +kernel

/-- A session whose buffer is at 0xA000, with records that it holds. -/
def session0 (written : Nat) (held : List (List Byte)) : Session :=
  { mask := 63, log2 := 16, buf := 0xA000, start := 0, trunc := false, full := false, written := written, dropped := 0, last := [], held := held }
def traced (y : Session) : State := { hubbed with ctxs := hubbed.ctxs.set 0 { hubbed.ctxs[0] with session := some y } }

theorem wit_RecordsSamplesAndReplies_streamer :
    let y := session0 0 [toBytes 16 1]
    let z := session0 65472 [toBytes 16 1]
    let w (s : State) (va : Nat) (b : List Byte) := (s.ringWrite 0 va b).toOption
    (((traced y).ctxs[0]).session = some y ∧ 0x40 + y.written + (toBytes 16 1).length ≤ 2 ^ y.log2 ∧
     ((w (traced y) (y.buf.toNat + 0x40 + y.written) (toBytes 16 1)).bind fun u => w u 0xA000 (({ y with held := [], written := 16 } : Session).header true)).isSome = true) ∧
    (((traced z).ctxs[0]).session = some z ∧ 2 ^ z.log2 < 0x40 + z.written + (toBytes 16 1).length ∧ z.dropped ≠ BitVec.allOnes 64 ∧
     (w (traced z) 0xA000 (({ z with held := [], full := true, dropped := 1 } : Session).header true)).isSome = true) := by decide +kernel

theorem filter_only_zero {n : Nat} (p : Fin (n + 1) → Bool) (h0 : p 0 = true) (hz : ∀ k : Fin n, p k.succ = false) : (List.finRange (n + 1)).filter p = [0] := by
  rw [List.finRange_succ, List.filter_cons_of_pos h0, List.filter_eq_nil_iff.2]
  intro a ha
  obtain ⟨k, -, rfl⟩ := List.mem_map.1 ha
  simp [hz k]

/-- A machine with one team. -/
def alone (t : Team) : State := { State.reset with teams := State.reset.teams.set 0 t }

theorem alone_teams (t : Team) (ht : t.live = true) : (alone t).teamsOf (fun _ => true) = [0] := by
  refine filter_only_zero (n := 10239) _ (by simpa [alone] using ht) fun k => ?_
  have : ((alone t).teams[k.succ]) = Team.zero := by
    simp only [alone, State.reset, Fin.getElem_fin]
    rw [Vector.getElem_set_ne _ _ (by simp [Fin.val_succ]), Vector.getElem_replicate]
  rw [this]; rfl
theorem wit_RecordsSamplesAndReplies_samples :
    let t := { demo.team with slots := [0], groups := demo.team.groups.set 0 { demo.grp with blocks := [] } }
    let s := alone t
    let z : Sample := { launch := 5, ctx := 0, lane := false, pc := 0, reason := 0, blame := 0, count := 1 }
    let u : State := { s with cores := s.cores.set 0 { s.cores[0] with samples := [(17, z)] } }
    nextSlot ((s.cores[0]).rr[0]) (s.quarterGroups 0 0) = some (0, 0, 0) ∧ ((s.team.groups[0]).phase = .running ∧ (s.team.groups[0]).block = none ∧
     (s.at 0 0).stallBlame false (s.at 0 0).stallWord (s.team.groups[0]).spc 0 7 = some (s.team.groups[0]).spc ∧ (s.team.groups[0]).handler = false ∧ inHandler.grp.handler = true ∧
     (s.cores[0]).samples.lookup (sampleIndex false (s.team.groups[0]).spc 0 s.team.launchId) = none) ∧
    ((u.cores[0]).samples.lookup 17 = some z ∧ u.launches = []) := by
  refine ⟨?_, by decide +kernel⟩
  unfold State.quarterGroups
  rw [alone_teams _ (by decide +kernel)]
  decide +kernel

theorem wit_RecordsSamplesAndReplies_replies :
    let s0 := busy hubbed
    let s : State := { s0.modTeam fun t => { t with cmds := t.cmds.map fun c => { c with stat := .suspended } } with
                       ctxs := s0.ctxs.set 0 { s0.ctxs[0] with replies := [(6, .cmd 0 0 0)] } }
    s.mgmt.ready0.getLsbD 0 = true ∧ s.mayAccess 0 (some 0) = true ∧ (∀ y ∈ (s.ctxs[0]).replies, y.1 ≠ 5) ∧
    (s.ctxs[0]).replies.find? (fun y => y.1 == 6) = some (6, .cmd 0 0 0) ∧ (s.team.findCmd 0 0 fun y => y.stat == .suspended).isSome = true := by decide +kernel

theorem wit_PartitionsSwitchAndTeamsComeBack :
    let s := placing
    let put (st : Nat) (sw : Bool) : State :=
      { State.reset with parts := State.reset.parts.set 3 { State.reset.parts[3] with st := st, next := 0xFFFF, swapped := sw } }
    ((s.parts[0]).st ≤ 1 ∧ s.switchable 0 0xFFFF = true ∧ s.switchable 0 0 = true) ∧
    (((put 2 false).parts[3]).st = 2 ∧ ((put 2 false).parts[3]).next = 0xFFFF ∧ ((put 2 false).parts[3]).swapped = false) ∧
    (((put 2 true).parts[3]).swapped = true ∧ (put 2 true).saved = []) ∧ ∀ m : TeamIx, ((put 2 false).teams[m]).live = true → ((put 2 false).teams[m]).part ≠ 3 := by
  refine ⟨by decide +kernel, by decide +kernel, by decide +kernel, fun k hk => ?_⟩
  simp only [State.reset, Vector.getElem_replicate, Fin.getElem_fin] at hk
  exact absurd hk (by decide)

theorem wit_PartitionsSwitchAndTeamsComeBack_restore :
    let t : Team := { Team.zero with live := true, obj := { Obj.zero with groups := 1 }, spadSize := 4096, launch := 9 }
    let y : Saved := { team := t, fault := false, shadow := true, addr := 0, size := 0, head := [], ways := 2 }
    let s : State := { placing with saved := [y] }
    s.saved[0]? = some y ∧ s.restorable y = true ∧ (s.teams[7]).live = false ∧ s.coreAllows 0 y.team.ctx 0xF = true ∧ s.mxEntries (clusterOf 0) + y.team.reqs.length ≤ 64 ∧ s.inFlight 0 + (y.team.cmds.filter Cmd.live).length ≤ 96 ∧ y.shadow = true ∧ t.race = false ∧
    fitsAt (s.residents 0) (s.cores[0]).ways t.obj (t.spadSize / 4096 - t.obj.spadG) 4096 [5] = true ∧ s.acquireWaits 0 = false :=
  ⟨rfl, by decide +kernel⟩

theorem wit_PartitionsSwitchAndTeamsComeBack_timeout :
    let t : Team := { demo.team with groups := demo.team.groups.set 0 { demo.grp with lnch := some ([], none) } }
    let s : State := { demo with teams := demo.teams.set 0 t, reft := 4001, parts := demo.parts.set 0 { demo.parts[0] with st := 2 } }
    s.team.live = true ∧ s.team.part = 0 ∧ s.team.haltable = false ∧ (s.parts[0]).st = 2 ∧ (s.parts[0]).swapped = false ∧ 4000 < (s.reft - (s.parts[0]).since).toNat := by
  decide +kernel

theorem wit_WindowWrites :
    let s := hubbed
    (s.mgmt.ready0.getLsbD 0 = true ∧ s.mayAccess 0 (s.queueCtx 3) = true ∧ s.mayAccess 2 (s.queueCtx 3) = false ∧ s.mayAccess 0 (some 0) = true) ∧
    (s.mayAccess 1 (s.owner .counters 0) = true ∧ s.mayAccess 2 (s.owner .counters 0) = false ∧ s.mayAccess 0 (s.owner .slots 0) = true ∧ (s.queues[3]).state ≠ 1) ∧
    (Memory.wf s.mem = true ∧ (s.ctxs[0]).valid = true ∧ (0x10000 : DWord).toNat % 2 ^ (16 : Byte).toNat = 0 ∧ (0x8000 : DWord).toNat % 2 ^ (16 : Byte).toNat ≠ 0) ∧
    (s.team.live = true ∧ s.team.ctx = 0 ∧ s.team.launchId = 0 ∧ (0xFF : Byte) = 0xFF ∧ (s.team.groups[0]).phase = .running ∧
     ((s.modGrp fun g => { g with phase := .stopped }).team.groups[0]).phase = .stopped) ∧
    (s.mayAccess 1 (s.owner .counters 7) = false ∧ (1 : Func).val ≠ 0 ∧ (0 : Func).val = 0 ∧ 8 + 8 ≤ 0x100000) ∧
    (900 ≤ (1600 : DWord).toNat % 2 ^ 32 ∧ (1600 : DWord).toNat % 2 ^ 32 ≤ 1600 ∧ (1600 : DWord).toNat % 2 ^ 32 % 25 = 0) := by decide +kernel

theorem wit_ManagementFunctions :
    let raw := BitVec.ofNat 1024 (ofBytes (packed [(0x28, 1, 8), (0x29, 1, 6), (0x30, 2, 8), (0x32, 2, 4), (0x34, 2, 8), (0x36, 2, 4), (0x58, 4, 1)] 128))
    let s := hubbed
    (descriptorInRange raw = true ∧ s.rangesFree 5 raw = true ∧ (s.ctxs[5]).valid = false ∧ descriptorInRange 0 = false) ∧
    ((s.parts[3]).ctx = 0xFFFF ∧ Memory.wf s.mem = true ∧ (placing.parts[0]).ctx ≠ 0xFFFF) ∧
    (900 ≤ (1600 : Word).toNat ∧ (1600 : Word).toNat ≤ 1600 ∧ (1600 : Word).toNat % 25 = 0 ∧ ¬ (900 ≤ (901 : Word).toNat ∧ (901 : Word).toNat ≤ 1600 ∧ (901 : Word).toNat % 25 = 0)) ∧
    (placing.mgmt.booted = true ∧ placing.mgmt.aliasOk = false ∧ ({ placing.mgmt with aliasOk := true } : Mgmt).aliasOk = true ∧ placing.mgmt.quotes < 1024 ∧
     s.mgmt.booted = false ∧ s.mgmt.bootErr = 0) ∧
    (s.mayBeReady (.port 4) = true ∧ s.readyBit (.port 4) = false) := by decide +kernel

theorem wit_OutsideEvents :
    let s := { hubbed with mgmt := { hubbed.mgmt with ready0 := hubbed.mgmt.ready0 ||| 0x10000, timeSrc := some (.port 2), timeSteps := true, booted := true, grants := Vector.ofFn fun i : Fin 64 => if i = 5 then some (7, 0, 64) else none },
                           dies := hubbed.dies.set 1 { hubbed.dies[1] with relock := some 0 } }
    ((s.dies[0]).up = true ∧ s.lostPushes 0 = [] ∧ (0, 1) ∉ s.mgmt.linksDown ∧ (1, 0) ∉ s.mgmt.linksDown ∧ s.readyBit (.port 0) = true ∧ s.mgmt.portsDeg.getLsbD 0 = false ∧ s.mgmt.pcieDeg = false) ∧
    (s.mgmt.ready0.getLsbD 0 = true ∧ s.mgmt.ready0.extractLsb' 16 12 ≠ 0 ∧ s.peerGranted 7 0 64 = true ∧ s.peerGranted 7 8 64 = false ∧ Memory.wf s.mem = true) ∧
    (1000000 < ((2000000 : DWord) - s.reft).toNat ∧ ((2000000 : DWord) - s.reft).toNat < 2 ^ 63 ∧ ((1000000 : DWord) - s.reft).toNat ≤ 1000000) ∧
    ((s.dies[0]).relock = none ∧ 12 ≠ (s.dies[0]).freq ∧ (2600 : BitVec 16).toNat ≤ 2600 ∧ s.mgmt.stepDown = 0 ∧ (s.dies[1]).relock = some 0) ∧
    ((s.ctxs[0]).valid = true ∧ (s.cores[0]).retiredC = false ∧ s.mgmt.booted = true ∧ ∀ w ∈ s.mgmt.mpGrants, ¬ (w.1 ≤ 4 ∧ 4 + 8 ≤ w.1 + w.2)) := by decide +kernel

theorem wit_OutsideEvents_power :
    let s : State := { State.reset with dies := Vector.replicate 4 { DieSt.zero with freq := 6 } }
    ∀ d : DieIx, (s.dies[d]).up = true → (s.dies[d]).freq ≤ 6 := by decide +kernel

/-! ### Steps, words and stores -/

theorem wit_StepRunsTheDecodedInstruction_scalar :
    let s := State.reset.withFetchWord 32 0xE4600000
    let v := State.reset.withFetchWord 32 0x58000048
    let x := s.nextTurn
    let b (s : State) := (s.begin s.nextTurn.1 s.nextTurn.2).at 0 0
    (s.halted = false ∧ x.1.act = .scalar 0 0 ∧ (b s).issues = true ∧ (b s).halting = false ∧ (b s).holding = false ∧ (b s).scalarErr (.tref 24) = none ∧ (b s).interrupted = false ∧ (b s).scalarWord (b s).grp.spc = some 0xE4600000 ∧
     (0xE4600000 : Word).extractLsb' 26 6 ≠ 0x16 ∧ (decodeScalar 0xE4600000).toOption = some (.tref 24) ∧ causeOf (decodeScalar 0) = some 0x040) ∧
    ((b v).scalarWord (b v).grp.spc = some 0x58000048 ∧ (0x58000048 : Word).extractLsb' 26 6 = 0x16 ∧ (b v).grp.spc.toNat + 4 < (b v).team.obj.ssize ∧
     (b v).scalarWord ((b v).grp.spc + 4) = some 0 ∧ ximmFault 0x58000048 0x30500345 = none ∧ (b v).scalarErr (.ximm 0x48) = none) := by decide +kernel

theorem wit_StepRunsTheDecodedInstruction_lane :
    let s := State.reset.withFetchWord 96 0x005C01406C00000000000064
    let x := s.nextTurn
    let b : State := { (s.begin x.1 x.2).at 0 0 with spl := 0 }
    (s.halted = false ∧ x.1.act = .lane 0 0 0 ∧ b.issues = true ∧ b.interrupted = false ∧ b.grp.handler = false ∧ b.grp.block.isSome = true ∧ b.grp.splits[(0 : SplitIx)] = some p0 ∧
     b.halting = false ∧ b.grp.launching = false ∧ b.grp.chain = none ∧ b.slotHeld = false ∧ (s.begin x.1 x.2).notUnit (.lane 0 0 0) = false ∧ b.splitErr 0 p0 = false ∧
     b.laneErrOf 0 (.vadd { plain with dst := 5, srcA := 6, srcB := 0x300, imm := 100 }) = none ∧ b.arrived p0 = false ∧ p0.atBar = none ∧ b.laneBits p0.lpc = some 0x005C01406C00000000000064) ∧
    (decodeLane 0x005C01406C00000000000064).toOption = some (.vadd { plain with dst := 5, srcA := 6, srcB := 0x300, imm := 100 }) ∧
    b.grp.chainFault (.vadd { plain with dst := 5, srcA := 6, srcB := 0x300, imm := 100 }) = false ∧ causeOf (decodeLane (BitVec.ofNat 96 (2 ^ 96 - 1))) ≠ none := by decide +kernel

/-- States where a scalar word and a lane word read an error, where the scalar stream holds before a pending trap, where a hash word is between its steps, and where a
split stands at its join. -/
theorem wit_StepRunsTheDecodedInstruction_others :
    let bad := (State.reset.withFetchWord 32 0x10600C03).modGrp fun g => { g with errs := [.sreg 3] }
    let lane (s : State) : State := { (s.begin ⟨0, .lane 0 0 0⟩ []).at 0 0 with spl := 0 }
    let met := withGrp fun g => { g with stack := g.stack.set 0 (.join none 0 (BitVec.allOnes 64) 0 0 []), splits := g.splits.set 0 (some { p0 with join := some 0 }) }
    let pending := (midHash 1).modGrp fun g => { g with pend := [{ cmd := true, split := none, trap := { TrapRec.zero with cause := 0x081, async := true } }] }
    ((bad.begin ⟨0, .scalar 0 0⟩ []).at 0 0).scalarErr (.smov 24 3) = some 0x100 ∧ (lane upsetLane).laneErrOf 0 ((lane upsetLane).laneInstrAt 0) = some (0x100, some 3) ∧
    ((lane (midHash 1)).issues = true ∧ ((lane (midHash 1)).grp.chain.bind fun c => c.hash).isSome = true ∧ (lane (midHash 1)).slotHeld = false) ∧
    ((lane met).arrived { p0 with join := some 0 } = true ∧ (lane met).splitErr 0 { p0 with join := some 0 } = false) ∧
    ((pending.begin ⟨0, .scalar 0 0⟩ []).at 0 0).holding = true := by decide +kernel

theorem wit_StepRunsTheDecodedInstruction_event :
    let s : State := { State.reset with sched := [⟨0, .event .linkFlitRetry⟩] }
    let h : State := { s with halted := true }
    (s.halted = false ∧ s.nextTurn = (⟨0, .event .linkFlitRetry⟩, []) ∧ isEvent .linkFlitRetry = true ∧ s.blocked = false) ∧
    (h.halted = true ∧ h.nextTurn = (⟨0, .event .linkFlitRetry⟩, []) ∧ Act.event .linkFlitRetry ≠ .event .deviceReset) ∧
    (({ s with blocked := true } : State).blocked = true ∧ s.core.promoted = [] ∧ s.team.waitSince = none ∧ s.team.reqs = [] ∧ s.grp.stepping = false) := by decide +kernel

theorem wit_EncodingRoundTrips :
    (WellFormed.wf (.saddi 20 0 0x345) = true ∧ encode (.saddi 20 0 0x345) = some (.scalar 0x30500345)) ∧
    (WellFormed.wf (.lds { plain with dst := 4, srcA := 2, imm := 16 }) = true ∧ encode (.lds { plain with dst := 4, srcA := 2, imm := 16 }) = some (.lane 0x601C01002000000000000010)) := by
  decide +kernel

theorem wit_StoresStayCanonical :
    (Memory.wf hubbed.mem = true ∧ teamStores demo.team = true) ∧ stores State.reset = true ∧ ∃ t, step { State.reset with sched := [⟨0, .event .linkFlitRetry⟩] } = .next t := by
  refine ⟨by decide +kernel, by unfold stores; simp [State.reset]; decide +kernel, _, rfl⟩

/-! ### Further states and operands, for clauses that need more -/

theorem isLog2_unique {y : ℝ} {j k : ℤ} (hj : isLog2 y j) (hk : isLog2 y k) : j = k := by
  have h1 : j < k + 1 := (zpow_lt_zpow_iff_right₀ (by norm_num : (1 : ℝ) < 2)).1 (hj.1.trans_lt hk.2)
  have h2 : k < j + 1 := (zpow_lt_zpow_iff_right₀ (by norm_num : (1 : ℝ) < 2)).1 (hk.1.trans_lt hj.2)
  omega

theorem isReal_fp32 {c : Nat} {n : Bool} {m : Nat} {e : Int} {v : ℝ} (h : fp32.decode c = .fin n m e) (hv : v = (if n then -1 else 1) * (m : ℝ) * (2 : ℝ) ^ e) :
    isReal (fp32.decode c) v := by rw [h]; exact hv

theorem wit_FloatClassScaleAndApproximateWords_values :
    isReal (fp32.decode 0x40400000) 3 ∧ isReal (fp32.decode 0xC0400000) (-3) ∧ isReal (fp32.decode 0x40800000) ((2 : ℝ) ^ (2 * (1 : ℤ))) ∧ isReal (fp32.decode 0x3F800000) 1 ∧
    isReal (fp32.decode 0xBF800000) (-1) ∧ isReal (fp32.decode 0x3F000000) (1 / 2) ∧ isReal (fp32.decode 1) ((2 : ℝ) ^ (-149 : ℤ)) ∧ isReal (fp32.decode 0) 0 ∧
    isLog2 3 1 ∧ (∀ k : ℤ, (3 : ℝ) ≠ (2 : ℝ) ^ k) ∧ (∀ k : ℤ, (1 / 2 : ℝ) ≠ k) ∧
    roundsTo fp32 .rne false (1 / 3) (0x3EAAAAAB, flagNX) ∧ roundsTo fp32 .rne false (1 / (2 : ℝ) ^ (-149 : ℤ)) (0x7F800000, flagOF ||| flagNX) := by
  have big : ∀ b, isReal (fp32.decode fp32.maxFin) b → b = 16777215 * (2 : ℝ) ^ (104 : ℤ) := by
    intro b hb
    have : fp32.decode fp32.maxFin = .fin false (2 ^ 24 - 1) 104 := by decide +kernel
    rw [this] at hb
    simpa [isReal] using hb
  have l3 : isLog2 3 1 := by unfold isLog2; norm_num
  refine ⟨isReal_fp32 (n := false) (m := 3 * 2 ^ 22) (e := -22) (by decide +kernel) (by norm_num), isReal_fp32 (n := true) (m := 3 * 2 ^ 22) (e := -22) (by decide +kernel) (by norm_num),
    isReal_fp32 (n := false) (m := 2 ^ 23) (e := -21) (by decide +kernel) (by norm_num), isReal_fp32 (n := false) (m := 2 ^ 23) (e := -23) (by decide +kernel) (by norm_num),
    isReal_fp32 (n := true) (m := 2 ^ 23) (e := -23) (by decide +kernel) (by norm_num), isReal_fp32 (n := false) (m := 2 ^ 23) (e := -24) (by decide +kernel) (by norm_num),
    isReal_fp32 (n := false) (m := 1) (e := -149) (by decide +kernel) (by norm_num), isReal_fp32 (n := false) (m := 0) (e := -149) (by decide +kernel) (by norm_num), l3, ?_, ?_, ?_, ?_⟩
  · intro k hk
    have : isLog2 3 k := by rw [hk]; unfold isLog2; rw [abs_of_pos (by positivity)]; exact ⟨le_refl _, zpow_lt_zpow_right₀ (by norm_num) (by omega)⟩
    rw [isLog2_unique this l3] at hk; norm_num at hk
  · intro k hk
    have : (2 * k : ℤ) = 1 := by exact_mod_cast (by linarith : (2 : ℝ) * k = 1)
    omega
  · intro neg top b hn ht hb
    have e : top = -2 := isLog2_unique ht (by unfold isLog2; norm_num)
    have : neg = false := by cases neg with | false => rfl | true => norm_num at hn
    subst e this; rw [big b hb]
    refine ⟨11184811, 11184811, ?_, ?_, ?_⟩
    · simp only [roundsInt, fp32]; norm_num [abs_le]
    · simp only [roundsInt, fp32]; norm_num [abs_le]
    · simp only [fp32]; norm_num
      exact ⟨isReal_fp32 (n := false) (m := 11184811) (e := -25) (by decide +kernel) (by norm_num), by decide +kernel⟩
  · intro neg top b hn ht hb
    have e : top = 149 := isLog2_unique ht (by unfold isLog2; norm_num)
    have : neg = false := by cases neg with | false => rfl | true => norm_num at hn
    subst e this; rw [big b hb]
    refine ⟨2 ^ 23, 2 ^ 23, ?_, ?_, ?_⟩
    · simp only [roundsInt, fp32]; norm_num
    · simp only [roundsInt, fp32]; norm_num
    · simp only [fp32]; norm_num
      decide +kernel

theorem wit_ConversionWords_formats :
    floatFmt 13 = some e4m3 ∧ floatFmt 8 = some fp32 ∧ floatFmt 12 = some e5m2 ∧ (0x80 % 2 ^ e4m3.signBit ≤ e4m3.maxFin ∧ e4m3.maxFin < 0x7F % 2 ^ e4m3.signBit) ∧
    (fp32.maxFin < 0x7F800000 % 2 ^ fp32.signBit ∧ fmtDecode 8 0x80000000 = .fin true 0 (-149) ∧ fmtDecode 8 0x7FA00000 = .nan true ∧ fmtDecode 8 0xFF800000 = .inf true) ∧
    isReal (fmtDecode 8 0x40200000) (5 / 2) ∧ roundsInt .rne (5 / 2) 2 ∧ roundsInt .rne (3 : ℝ) 3 ∧ isReal (fmtDecode 1 7) ((7 : Int) : ℝ) ∧ isReal (fmtDecode 8 0x4F800000) ((2 : ℝ) ^ (32 : ℤ)) ∧
    roundsInt .rne ((2 : ℝ) ^ (32 : ℤ)) (2 ^ 32) ∧ isReal (e4m3.decode 0x38) 1 ∧ (e4m3.decode 0x7F).isNan = true ∧ e5m2.decode 0x7C = .inf false := by
  refine ⟨rfl, rfl, rfl, by decide +kernel, by decide +kernel, ?_, ?_, ?_, ?_, ?_, ?_, ?_, by decide +kernel, by decide +kernel⟩
  · have : fmtDecode 8 0x40200000 = .fin false (5 * 2 ^ 21) (-22) := by decide +kernel
    rw [this]; norm_num [isReal]
  · norm_num [roundsInt, abs]
  · norm_num [roundsInt]
  · have : fmtDecode 1 7 = .fin false 7 0 := by decide +kernel
    rw [this]; norm_num [isReal]
  · have : fmtDecode 8 0x4F800000 = .fin false (2 ^ 23) 9 := by decide +kernel
    rw [this]; norm_num [isReal]
  · norm_num [roundsInt]
  · have : e4m3.decode 0x38 = .fin false 8 (-3) := by decide +kernel
    rw [this]; norm_num [isReal]

/-- demo whose first n stack entries, and the team's, hold path entries at lane PC 9. -/
def stacked (n : Nat) : State :=
  (withGrp fun g => { g with stack := Vector.ofFn fun i : Fin 16 => if i.val < n then .path 0 false 9 1 0 [] else .free }).modTeam fun t =>
    { t with pool := Vector.replicate 32 (.path 0 false 9 1 0 []) }

/-- demo whose split 0 belongs to join 0, at which lane 0 of all has arrived. -/
def joined : State :=
  withGrp fun g => { g with stack := g.stack.set 0 (.join none 4 (BitVec.allOnes 64) 1 0 []), splits := g.splits.set 0 (some { p0 with join := some 0 }) }

theorem demo_entries (i : Nat) : demo.stackEntry i = .free := by
  by_cases h : i < 48
  · exact (by decide +kernel : ∀ i < 48, demo.stackEntry i = .free) i h
  · unfold State.stackEntry; simp [show ¬ i < 16 by omega, show ¬ i - 16 < 32 by omega]

theorem wit_LaneBranches_divided :
    let w : LaneWord := { plain with guard := 1, imm := 0x00030004 }
    let opens (s : State) := s.setStack 0 (.join p0.join 4 p0.mask 0 p0.hist p0.cstack)
    inHand (stacked 15) p0 ∧ inHand joined { p0 with join := some 0 } ∧
    (lanesOf demo p0 w ≠ 0 ∧ lanesOf demo p0 w ≠ p0.mask ∧ demo.freeEntry = some 0 ∧ (opens demo).freeEntry = some 1 ∧
     (∀ i d h c x, demo.stackEntry i ≠ .path 0 d 3 x h c) ∧ p0.lpc + 1 = p0.lpc + ((0x00030001 : Word).extractLsb' 0 16).signExtend 32) ∧
    (joined.stackEntry 0 = .join none 4 (BitVec.allOnes 64) 1 0 [] ∧ (1 : Mask) ≠ BitVec.allOnes 64 ∧ joined.grp.splits[(1 : SplitIx)] = none ∧ joined.grp.splits[(0 : SplitIx)] ≠ none ∧
     lanesOf joined { p0 with join := some 0 } w ≠ 0 ∧ lanesOf joined { p0 with join := some 0 } w ≠ p0.mask) ∧
    ((stacked 16).freeEntry = none ∧ (stacked 16).grp.handler = false ∧ (stacked 15).freeEntry = some 15 ∧
     ((stacked 15).setStack 15 (.join p0.join 4 p0.mask 0 p0.hist p0.cstack)).freeEntry = none) := by
  refine ⟨hand (by decide +kernel), hand (by decide +kernel), ?_⟩
  unfold lanesOf
  refine ⟨?_, by decide +kernel, by decide +kernel⟩
  refine ⟨by decide +kernel, by decide +kernel, by decide +kernel, by decide +kernel, ?_, by decide +kernel⟩
  intro i d h c x
  rw [demo_entries]; nofun

/-- The next state that an outcome is. -/
def nextOf (o : Host.Outcome State Fault Refusal) : Option State := match o with | .next t => some t | _ => none

/-- demo at a VADD of every lane. -/
def adding : State := { demo with mem := Memory.writeLe demo.mem loadPage 12 0x005C01406C00000000000064 }
def added : LaneWord := { plain with dst := 5, srcA := 6, srcB := 0x300, imm := 100 }

theorem wit_LanesRetireAndSplitsMeet_window :
    let w : LaneWord := { plain with guard := 0, imm := 0x00030004 }
    let s : State := { guessing with mem := Memory.writeLe guessing.mem (loadPage + 36) 12 0x005C01406C00000000000064 }
    let guess := (s.core.guidonEntry (guidonIx p0.lpc p0.hist)).1 &&& p0.mask
    ((joined.modGrp fun g => { g with errs := [.stack 0] }).splitErr 0 { p0 with join := some 0 } = true ∧ joined.splitErr 0 { p0 with join := some 0 } = false) ∧
    (({ s with spl := 0 } : State).lanePick 0 = some (.vbr w) ∧ s.predicts w p0 = true ∧
     (({ s with spl := 0 } : State).speculate w p0 guess (List.replicate (min 25 1) true ++ List.replicate (min 25 0) false)).map (fun l => l.map fun x => (x.taken, x.entry)) = some [(true, true)]) ∧
    (let u := ({ s with spl := 0 } : State).recordPred 0 guess (lanesOf s p0 w) 1 0
     (nextOf (exec (.vbr w) u)).map (fun v => v.trapped) = some false) := by
  refine ⟨?_, ⟨?_, ?_, ?_⟩, ?_⟩
  · decide +kernel
  · decide +kernel
  · decide +kernel
  · decide +kernel
  unfold lanesOf; decide +kernel

theorem wit_LanesRetireAndSplitsMeet_word :
    let u := ({ adding with spl := 0 } : State).readPreds (some (.vadd added))
    adding.splitWith (p0.mask &&& BitVec.allOnes 64) = some 0 ∧ adding.grp.splits[(0 : SplitIx)] = some p0 ∧ adding.laneInstrAt p0.lpc = .vadd added ∧
    (laneParts (.vadd added)).map (fun x => x.2) = some added ∧ added.hold = false ∧ (windowWord (.vadd added)).isSome = true ∧ adding.arrived p0 = false ∧ adding.grp.chainFault (.vadd added) = false ∧
    adding.laneErrOf 0 (.vadd added) = none ∧ (nextOf (exec (.vadd added) u)).map (fun v => ((u.issuedTo true (.vadd added) v).trapped, (u.issuedTo true (.vadd added) v).blocked)) = some (false, false) := by
  decide +kernel

/-- withTable whose table spills into a ring of no room at 2^55, where the root table's entry is malformed. -/
def ringed (p c : DWord) (n : Nat) : HashTab :=
  { table0 with desc := #v[0, 0x4000, 0x80000000, 0], ring := { Shape.zero with base := 0x80000000000000, ext := [64 + 24 * n, 1, 1, 1, 1], valid := true }, ringP := p, ringC := c }
def spilling (p c : DWord) (n : Nat) : State :=
  { withTable.modTeam fun t => { t with tabs := t.tabs.set 0 (ringed p c n) } with mem := Memory.writeLe demo.mem (loadTable 1 + 8) 1 3 }

theorem walkBytes_teams (s : State) (ts : Vector Team 10240) (d : DieIx) : ∀ (n pa : Nat), ({ s with teams := ts } : State).walkBytes d pa n = s.walkBytes d pa n
  | 0, _ => rfl
  | n + 1, pa => by
      unfold State.walkBytes
      rw [walkBytes_teams s ts d n]
      rfl

theorem walkFrom_teams (s : State) (ts : Vector Team 10240) (d : DieIx) (c : CtxIx) (va : Nat) :
    ∀ (l : List (Nat × Nat × Nat)) (t : Nat), ({ s with teams := ts } : State).walkFrom d c va l t = s.walkFrom d c va l t
  | [], _ => rfl
  | x :: r, t => by
      unfold State.walkFrom
      simp only [walkBytes_teams, walkFrom_teams s ts d c va r]

theorem header_fails (S : State) (e : Shape) (q : HashProg) (va : Nat) (h0 : S.walk 0 0 va = .error 0x085) (hc : S.team.core = 0) (hx : S.team.ctx = 0)
    (hu : (S.cores[(0 : CoreIx)]).utlb = []) (hd : (S.dies[(0 : DieIx)]).tlb = []) (hb : (e.base.toNat + 8) % 2 ^ 64 = va) :
    ((S.setHash q).readHeader e 8).2 = some (Config.failedHeaderRead va) := by
  have hw : (S.setHash q).walk 0 0 va = .error 0x085 := (walkFrom_teams S _ 0 0 va _ _).trans h0
  have hc : (S.setHash q).team.core = 0 := by simp only [State.setHash, State.modGrp_team_core, hc]
  have hx : (S.setHash q).team.ctx = 0 := by simp only [State.setHash, State.modGrp_team_ctx, hx]
  have hu : ((S.setHash q).cores[(0 : CoreIx)]).utlb = [] := hu
  have hd : ((S.setHash q).dies[(0 : DieIx)]).tlb = [] := hd
  have he : dieOf 0 = 0 := by decide
  have ht : ∀ b, ((S.setHash q).translateAt 0 0 va .read b).2 = .error 0x085 := by
    intro b
    unfold State.translateAt
    simp only [hu, he, hd, tlbFind, List.find?_nil, ite_self, hw]
  unfold State.readHeader
  simp only [hc, hx, hb]
  generalize hy : (S.setHash q).translateAt 0 0 va .read (Config.headerChoice (S.setHash q).tick 0) = y
  have := ht (Config.headerChoice (S.setHash q).tick 0)
  rw [hy] at this
  obtain ⟨s1, r⟩ := y
  simp only at this
  subst this
  rfl

theorem wit_HashWords_full :
    inHand (spilling 2 0 4) p0 ∧ inHand (spilling 2 0 0) p0 ∧ (spilling 2 0 4).team.table 0 = some (ringed 2 0 4) ∧ (spilling 2 0 0).team.table 0 = some (ringed 2 0 0) ∧
    ((spilling 2 0 4).team.lookup (ringed 2 0 4) 7).found = none ∧ ((spilling 2 0 4).team.lookup (ringed 2 0 4) 7).room = none ∧ (ringed 2 0 4).spills = true ∧
    ((ringed 2 0 4).ringP - (ringed 2 0 4).ringC).toNat < ((ringed 2 0 4).ring.ext.headD 1 - 64) / 24 ∧
    ((ringed 2 0 0).ring.ext.headD 1 - 64) / 24 ≤ ((ringed 2 0 0).ringP - (ringed 2 0 0).ringC).toNat ∧
    (∀ q, (((opened (spilling 2 0 0) p0).setHash q).readHeader (ringed 2 0 0).ring 8).2 = some (Config.failedHeaderRead (2 ^ 55 + 8))) ∧
    ((ringed 2 0 0).ring.ext.headD 1 - 64) / 24 ≤ ((ringed 2 0 0).ringP - Config.failedHeaderRead (2 ^ 55 + 8)).toNat ∧ (spilling 2 0 0).grp.enables.getLsbD 5 = false :=
  ⟨hand (by decide +kernel), hand (by decide +kernel), by decide +kernel, by decide +kernel, by decide +kernel, by decide +kernel, by decide +kernel, by decide +kernel, by decide +kernel,
   fun q => header_fails _ _ q _ (by unfold opened; decide +kernel) (by unfold opened; decide +kernel) (by unfold opened; decide +kernel) (by unfold opened; decide +kernel)
     (by unfold opened; decide +kernel) (by decide), Nat.zero_le _, by decide +kernel⟩

theorem wit_HashWords_operands :
    withTable.grp.parked = [] ∧ plain.hold = false ∧ (withTable.grp.chain = none) ∧ (∀ c ∈ [0x1C0, 0x1C1, 0x1C2, 0x1C3], (opened withTable p0).sourceErr p0 c plain = none) ∧
    (∀ c ∈ [0x1C0, 0x1C1, 0x1C2, 0x1C3], (opened (spilling 2 0 0) p0).sourceErr p0 c plain = none) ∧ (spilling 2 0 4).grp.parked = [] ∧ (spilling 2 0 0).grp.parked = [] := by
  unfold opened; decide +kernel

/-- The descriptor and the entry of R213's example, and a descriptor whose word 0 has a reserved bit. -/
def boxW (w0 : Word) : Vector Word 8 := #v[w0, 0x2000, 0x0009001F, 16, 40, 0, 0x00200000, 0x01010104]
def boxE : Shape := { base := 0x3000, fmt := 8, rank := 2, rights := 1, fill := false, ctx := 0, valid := true, ext := [300, 1000, 1, 1, 1], str := [320, 0, 0, 0] }

theorem boxW_good : ¬ copyBad copying .cten (boxW 0x0002C200) boxE := by
  have h : copying.team.spadSize = 16384 := by decide +kernel
  simp [copyBad, boxW, boxE, h, fmtBits]

theorem boxW_bad : copyBad copying .cten (boxW 0x1002C200) boxE := by
  unfold copyBad
  exact Or.inl (Or.inl (by decide +kernel))

/-- copying with a buffer of 512 bytes at 4,096 under handle 3, which a copy fills and publishes in queue 0 of room 64. -/
def publishing (w0 : Nat) : State :=
  (((copying.setSr 40 (BitVec.ofNat 32 w0)).setSr 41 3).setSr 42 0x1F).modTeam fun t =>
    { t with spad := Memory.writeLe (Memory.writeLe t.spad 24 4 4096) 28 4 512, hoists := t.hoists.set 0 { cap := 64, items := [], allow := 1, resv := 0, waiters := [] } }
def pubW (w0 : Word) : Vector Word 8 := #v[w0, 3, 0x1F, 16, 40, 0, 0x00200000, 0x01010104]

theorem pubW_good (w0 : Nat) (h : w0 = 0x0082E000 ∨ w0 = 0x0582E000) : ¬ copyBad (publishing w0) .cten (pubW (BitVec.ofNat 32 w0)) boxE := by
  have hb : (publishing w0).team.buffer 3 = some (4096, 512) := by rcases h with rfl | rfl <;> decide +kernel
  have hs : (publishing w0).team.spadSize = 16384 := by rcases h with rfl | rfl <;> decide +kernel
  rcases h with rfl | rfl <;> simp [copyBad, pubW, boxE, hb, hs, fmtBits]

theorem wit_CopyWordsPostTheirCommand_good :
    let e := copying.shapeEntry copying.team.ctx 12
    (copying.descriptor 40 = boxW 0x0002C200 ∧ e = boxE ∧ ¬ copyBad copying .cten (boxW 0x0002C200) boxE ∧ boxE.rights.getLsbD (copyRight .cten (boxW 0x0002C200)) = true) ∧
    (copying.inFlight copying.team.core < 96 ∧ dPub (boxW 0x0002C200) = false ∧ ¬ (crowded.inFlight crowded.team.core < 96)) ∧ copyBad copying .cten (boxW 0x1002C200) boxE ∧
    copyRight .cten (boxW 0x0002CA00) = 1 ∧ boxE.rights.getLsbD 1 = false := by
  refine ⟨⟨by decide +kernel, by decide +kernel, boxW_good, by decide +kernel⟩, ⟨by decide +kernel, by decide +kernel, by decide +kernel⟩, boxW_bad, by decide +kernel, by decide +kernel⟩

theorem wit_CopyWordsPostTheirCommand_published :
    let s := publishing 0x0082E000
    let u := publishing 0x0582E000
    let q := s.team.hoist (dPubq (pubW 0x0082E000))
    (s.descriptor 40 = pubW 0x0082E000 ∧ s.shapeEntry s.team.ctx 12 = boxE ∧ ¬ copyBad s .cten (pubW 0x0082E000) boxE ∧ dPub (pubW 0x0082E000) = true ∧
     dPubq (pubW 0x0082E000) < s.team.obj.hoists ∧ s.inFlight s.team.core < 96 ∧ q.items.length + q.resv < q.cap ∧ 1 ≤ q.allow) ∧
    (u.descriptor 40 = pubW 0x0582E000 ∧ u.shapeEntry u.team.ctx 12 = boxE ∧ ¬ copyBad u .cten (pubW 0x0582E000) boxE ∧ dPub (pubW 0x0582E000) = true ∧
     u.team.obj.hoists ≤ dPubq (pubW 0x0582E000)) :=
  ⟨⟨by decide +kernel, by decide +kernel, pubW_good _ (.inl rfl), by decide +kernel, by decide +kernel, by decide +kernel, by decide +kernel, by decide +kernel⟩,
   by decide +kernel, by decide +kernel, pubW_good _ (.inr rfl), by decide +kernel, by decide +kernel⟩

/-- engaged where the command is a lane atomic of 32 bits over 16 elements, at its first lane. -/
def atomizing (op : CmdOp) (base scope : Nat) (xa xb : Word) (fill : Bool) : State :=
  (engaged .cten 0 0 base fill).modTeam fun t =>
    { t with cmds := t.cmds.map fun c => { c with op := op, w := Vector.replicate 8 0, lanes := [{ lane := 3, xa := xa, xb := xb, b := 5, c := 0 }], scope := scope, aty := 0, aop := 0 } }

/-- The lane atomic's command can be stepped at its lane. -/
def atomReady (s : State) : Prop :=
  (s.team.findCmd 0 1 fun x => x.active && decide (x.pos < x.total)).isSome = true ∧ s.team.cmds.length = 1 ∧ s.engineRuns = true ∧ s.held = false ∧
  (headCmd s).lanes[(headCmd s).pos]? = some ((headCmd s).lanes.headD { lane := 0, xa := 0, xb := 0, b := 0, c := 0 }) ∧ (headCmd s).half = none ∧ Memory.wf s.mem = true ∧
  teamStores s.team = true ∧ s.outgoing = [] ∧ s.team.poolTouched ((headCmd s).local0 + 3 * (headCmd s).resultBytes) (headCmd s).resultBytes = false

/-- A cached device page at 0x40000 and a host page at 0x50000, both open to atomics. -/
def atomPages (s : State) : State := { s with mem := Memory.writeLe (Memory.writeLe s.mem (loadTable 4 + 32) 8 (0x70000 + 0x3F)) (loadTable 4 + 40) 8 (0x3F + 2 ^ 58) }

/-- The cluster's unit holds the word at an address. -/
def unitHolds (s : State) (pa : Nat) : State :=
  { s with clusters := s.clusters.set 0 { s.clusters[0] with
      atom := (List.range 4).map fun i => { pa := pa + i, val := 7, dirty := true, pois := false, home := 0, way := 0, codec := 0, stream := false } } }

theorem wit_LaneAtomicsPostTheirCommand_elements :
    let c := headCmd (atomizing .atm 0x20000 4 3 0 false)
    ((15 : Nat) < 16 * 1 * 1 * 1 * 1 ∧ 16 * 1 * 1 * 1 * 1 ≤ 16 ∧ atomWidth 0 ≠ 16 ∧ c.shape.ext.getD 0 1 = 16 ∧ c.shape.ext.getD 4 1 = 1) ∧
    atomReady (atomizing .atm 0x20000 4 3 0 false) ∧ c.laneElem 4 3 = .ok (some 0x2000C) ∧
    (atomReady (atomizing .atm 0x20000 4 16 0 false) ∧ (headCmd (atomizing .atm 0x20000 4 16 0 false)).laneElem 4 16 = .error (0x090, 0)) ∧
    (atomReady (atomizing .ared 0x20000 4 16 0 true) ∧ (headCmd (atomizing .ared 0x20000 4 16 0 true)).laneElem 4 16 = .ok none) ∧
    (atomReady (atomizing .atm 0x30000 4 3 0 false) ∧ ((atomizing .atm 0x30000 4 3 0 false).translate 0 0 0x3000C .atomic).toOption = none) := by
  unfold atomReady
  refine ⟨by decide +kernel, by decide +kernel, by rfl, ⟨by decide +kernel, by rfl⟩, ⟨by decide +kernel, by rfl⟩, by decide +kernel, by decide +kernel⟩

/-- Four bytes at an address lie in plain device memory at a home that takes them. -/
def homeAt (s : State) (va : Nat) (k : Right) : Bool :=
  match s.translate s.dieIx s.team.ctx va k with
  | .ok e => e.space == .device && !e.poison && !s.homeBusy (e.home (e.addr va)) && s.homeUp (e.home (e.addr va)) && decide (e.addr va + 4 ≤ devBytes) && !s.homePoisoned (e.addr va) 4
  | .error _ => false

theorem wit_LaneAtomicsPostTheirCommand_homes :
    let s := atomizing .atm 0x20000 4 3 0 false
    let u := unitHolds (atomPages (atomizing .atm 0x40000 2 3 0 false)) 0x7000C
    let r := atomizing .ared 0x20000 4 3 0 false
    let x := atomizing .axmv 0x20000 4 3 3 false
    let y := atomizing .adcas 0x20000 4 3 4 false
    let h := atomPages (atomizing .axmv 0x50000 4 3 4 false)
    let e (s : State) (va : Nat) (k : Right) := (s.translate s.dieIx s.team.ctx va k).toOption
    (homeAt s 0x2000C .atomic = true ∧ (e s 0x2000C .atomic).map (fun e => e.cp) = some 2 ∧ (headCmd s).scope ≠ 2) ∧
    (atomReady u ∧ homeAt u 0x4000C .atomic = true ∧ (headCmd u).scope = 2 ∧ (e u 0x4000C .atomic).map (fun e => (decide (e.cp ≠ 2), e.addr 0x4000C)) = some (true, 0x7000C) ∧
      0x7000C / 64 = (0x7000C + 4 - 1) / 64 ∧
      ∀ i < 4, ((cfind (u.clusters[clusterOf u.team.core]).atom (0x7000C + i)).map fun b => (b.val, b.pois)) = some (7, false)) ∧
    (atomReady r ∧ homeAt r 0x2000C .reduce = true ∧ (headCmd r).aty ∈ [0, 1, 2, 3, 8, 9, 11] ∧ (e r 0x2000C .reduce).map (fun e => e.cp) = some 2 ∧ (r.cores[r.team.core]).l1 = [] ∧
      (r.dies[dieOf r.team.core]).far = []) ∧
    (atomReady x ∧ homeAt x 0x2000C .atomic = true) ∧ (atomReady y ∧ homeAt y 0x2000C .atomic = true ∧ homeAt y 0x20010 .atomic = true) ∧
    (atomReady h ∧ (e h 0x5000C .atomic).map (fun e => e.space) = some .host) := by
  unfold atomReady
  exact ⟨by decide +kernel, by decide +kernel, by decide +kernel, by decide +kernel, by decide +kernel, by decide +kernel⟩

theorem firstOf_pass {p : Prop} {k : Cause} {l : List (Prop × Cause)} {b : Option Cause} (h : ¬ p) (r : firstOf l b) : firstOf ((p, k) :: l) b := ⟨fun x => absurd x h, fun _ => r⟩
theorem firstOf_stop {p : Prop} {k : Cause} {l : List (Prop × Cause)} (h : p) : firstOf ((p, k) :: l) (some k) := ⟨fun _ => rfl, fun x => absurd h x⟩

theorem wit_MatrixWordsPostRequests_checks :
    let s := tiled 14
    let u := tiled 6
    let v := s.modTeam fun t => { t with tiles := t.tiles.set 0 { Tile.zero with shape := { rows := 64, rb := 256, fmt := 8, layout := 0 } } }
    (firstOf (mmaChecks s true 0 0 1 (s.sr 24) (s.sr 25)) none ∧ firstOf (mmaChecks s true 7 0 1 (s.sr 24) (s.sr 25)) (some 0x180)) ∧
    (firstOf (mmaChecks u false 0 0 1 (u.sr 26) (u.sr 27)) none ∧ firstOf (mmaChecks u false 0 0 1 (u.sr 24) (u.sr 27)) (some 0x181)) ∧
    (firstOf (moutChecks s 0 (s.sr 28) true (s.sr 29).toNat) none ∧ firstOf (moutChecks v 0 (v.sr 28) false 0) none ∧
     firstOf (moutChecks s 0 (s.sr 28) true ((s.sr 29).toNat + 1)) (some 0x184)) := by
  exact ⟨⟨firstOf_pass (by decide +kernel) (firstOf_pass (by decide +kernel) (firstOf_pass (by decide +kernel) (firstOf_pass (by decide +kernel) rfl))), firstOf_stop (by decide +kernel)⟩,
    ⟨firstOf_pass (by decide +kernel) (firstOf_pass (by decide +kernel) (firstOf_pass (by decide +kernel) (firstOf_pass (by decide +kernel) rfl))),
     firstOf_pass (by decide +kernel) (firstOf_stop (by decide +kernel))⟩,
    firstOf_pass (by decide +kernel) (firstOf_pass (by decide +kernel) (firstOf_pass (by decide +kernel) rfl)),
    firstOf_pass (by decide +kernel) (firstOf_pass (by decide +kernel) (firstOf_pass (by decide +kernel) rfl)), firstOf_pass (by decide +kernel) (firstOf_stop (by decide +kernel))⟩

theorem wit_MatrixWordsPostRequests_pending :
    let armed (g : GrpIx) (q : BitVec 3) : State := (tiled 6).modTeam fun t => { t with accs := t.accs.set 0 { t.accs[0] with pend := some (g, q) } }
    ((armed 0 1).team.acc 0).pend = some ((armed 0 1).gix, 1) ∧ (1 : BitVec 3) ≠ 2 ∧ ((armed 1 1).team.acc 0).pend = some (1, 1) ∧ (1 : GrpIx) ≠ (armed 1 1).gix := by decide +kernel

theorem wit_MatrixEngineSteps_double :
    let b := req (.mma false) 0x909 0 0
    let s := (queued 9 [b]).modTeam fun t => { t with obj := { t.obj with accs := 2 } }
    s.team.reqs.find? (fun x => x.age == 0) = some b ∧ (s.at s.cur 0).granted b = true ∧ fbA b.f0 = 9 ∧ fbB b.f0 = 9 ∧ b.spec = false ∧
    (∀ k : Nat, 0 ≤ k → k ≤ 0 + 1 → (s.team.acc k).poison = false ∧ (s.team.acc k).err = false) ∧ s.team.passPoisoned b false 0 = false := by
  refine ⟨by decide +kernel, by decide +kernel, by decide +kernel, by decide +kernel, rfl, fun k _ h => ?_, by decide +kernel⟩
  obtain rfl | rfl : k = 0 ∨ k = 1 := by omega
  · decide +kernel
  · decide +kernel

theorem wit_HashTablesAreClaimedReadDrainedAndFreed_busy :
    let h : HashTab := { table0 with dstate := true, live := 120 }
    let past : HashTab := { h with dcur := 1 }
    let s := (withTable.modTeam fun t => { t with tabs := t.tabs.set 0 past }).setSr 42 16
    (draining.team.claimed 0 = some h ∧ h.rel = none ∧ draining.grp.chain = none ∧ draining.grp.handler = false) ∧
    ((midHash 1).team.hashBusy 0 = true ∧ 0 ∈ (midHash 1).grp.hashTables ∧ (midHash 1).team.claimed 0 = some table0) ∧
    (s.team.table 0 = some past ∧ s.team.homeEntries past 1 = [] ∧ past.dcnt.toNat < (s.sr 42).toNat ∧ s.team.drainBad past = none ∧ 1 < 2 ^ past.logb) ∧
    ((0 : Word).toNat / 2 ^ 24 = 0 ∧ 2048 % table0.slotBytes = 0 ∧ 2048 + 1 * table0.slotBytes ≤ withTable.team.spadSize ∧ overlaps 2048 (1 * table0.slotBytes) table0.base table0.size = false ∧
     4 % table0.slotBytes ≠ 0 ∧
     ((withTable.modTeam fun t => { t with pool := t.pool.set 0 (.path 0 false 0 1 0 []) }).team.poolTouched (withTable.team.poolAddr 0) (1 * table0.slotBytes) = true)) ∧
    ({ past with live := 0 } : HashTab).live = 0 := by decide +kernel

/-- hubbed with the pages of atomPages, in which the group's only command has eight descriptor words and a vector of 16 elements of a format at an address. -/
def worked (op : CmdOp) (w : Vector Word 8) (base fmt : Nat) (f : Cmd → Cmd) : State :=
  let s := (atomPages hubbed).modTeam fun t => { t with spadSize := 16384, spad := Memory.writeLe t.spad 0x2000 4 0x3F800000 }
  let sh : Shape := { Shape.zero with base := BitVec.ofNat 64 base, fmt := fmt, rank := 2, rights := 15, valid := true, ext := [16, 4, 1, 1, 1], str := [64] }
  s.modTeam fun t => { t with cmds := [f { s.newCmd op w sh with gix := 0, seq := 1 }] }

/-- Descriptors: one element written; one gathered; one scattered under a reduction; two units of four bytes packed, and unpacked. -/
def writeW : Vector Word 8 := #v[0x800, 0x2000, 8, 3, 0, 0, 0x10000, 0x01010101]
def gatherW : Vector Word 8 := #v[0, 0x2000, 8, 3, 0x1000, 0, 0x10000, 1]
def scatterW : Vector Word 8 := #v[0x800, 0x2000, 0x1008, 3, 0x1000, 0, 0x10000, 1]
def packW : Vector Word 8 := #v[0x800, 0x2000, 8, 0, 0, 0, 0x10000, 2]

/-- Every request of a list goes to a page of the host that is not poisoned. -/
def spansHost (s : State) (r : Right) (l : List (Nat × Nat)) : Bool :=
  match (s.translateSpan false r l).2 with
  | .ok x => x.all fun y => y.2.2.space == .host && !y.2.2.poison
  | .error _ => false
def pageOf (s : State) (va : Nat) (k : Right) : Option (Space × Bool × Nat) :=
  match s.translate s.dieIx s.team.ctx va k with | .ok e => some (e.space, e.poison, e.cp) | .error _ => none

theorem wit_CopyEngineSteps_writes :
    let s := worked .cten writeW 0x20000 8 id
    let h := worked .cten writeW 0x50000 8 id
    let g := worked .cgth gatherW 0x20000 8 id
    let c := headCmd s
    (steppable s ∧ c.op = .cten ∧ dDir c.w = 1 ∧ 8 ≤ fmtBits c.lfmt ∧ (c.pos + 1) % c.n0 = 0 ∧ dXf c.w = 0 ∧ dDk c.w ≠ 1 ∧ c.shape.inBounds (c.coords 0) = true ∧
     c.shape.addr (c.coords 0) = 0x2000C ∧ homeAt s 0x2000C .write = true ∧ pageOf s 0x2000C .write = some (.device, false, 2) ∧ poisoned s.team.spadPoison c.local0 4 = false) ∧
    (steppable h ∧ pageOf h 0x5000C .write = some (.host, false, 0)) ∧
    (steppable g ∧ (headCmd g).op.listed = true ∧ (headCmd g).indexRow = none ∧ padNum g 0x1000 (dIndexBytes (headCmd g).w) = 0) := by
  unfold steppable
  refine ⟨by decide +kernel, by decide +kernel, by decide +kernel⟩

theorem wit_CopyEngineSteps_reduces :
    let s := worked .csct scatterW 0x20000 8 id
    let l := worked .csct scatterW 0x40000 8 id
    let h := worked .csct scatterW 0x50000 0 id
    let e : Comb := { src := 0, sector := 0x7000C / 64, op := 1, fmt := 8, home := 0, way := 0, codec := 0, parts := [{ pa := 0x7000C, val := 5, pois := false, who := [] }], out := [] }
    let j : State := { l with cores := l.cores.set 0 { l.cores[0] with comb := [e] } }
    (steppable s ∧ dOp (headCmd s).w = 1 ∧ homeAt s 0x2000C .reduce = true ∧ pageOf s 0x2000C .reduce = some (.device, false, 2) ∧ s.outgoing = [] ∧ (s.dies[s.dieIx]).far = [] ∧ s.core.l1 = []) ∧
    (homeAt l 0x4000C .reduce = true ∧ pageOf l 0x4000C .reduce = some (.device, false, 0) ∧ 0 < l.core.ways ∧ l.core.l1 = [] ∧ l.core.comb = []) ∧
    (j.core.comb = [e] ∧ (l.translate l.dieIx l.team.ctx 0x4000C .reduce).toOption.map (fun x => x.addr 0x4000C) = some 0x7000C) ∧
    (pageOf h 0x5000C .reduce = some (.host, false, 0) ∧ (headCmd h).shape.fmt ≤ 3 ∧ 3 < (headCmd s).shape.fmt) := by
  unfold steppable
  refine ⟨by decide +kernel, by decide +kernel, by decide +kernel, by decide +kernel⟩

theorem wit_CopyEngineSteps_packs :
    let s := worked .cpack packW 0x10000 6 fun c => { c with writes := [(0, [])] }
    let z := worked .cpack packW 0x10000 6 fun c => { c with writes := [(0, [1])], pos := 1, packOff := 12 }
    let t := worked .cpack packW 0x10000 6 fun c => { c with writes := [(0, [1])], pos := 2, packOff := 12 }
    let full := worked .cpack packW 0x10000 6 fun c => { c with shape := { c.shape with ext := [8] } }
    let c := headCmd s
    (steppable s ∧ dUnits c.w = 2 ∧ dUnitBytes c.w = 4 ∧ dMaskBytes c.w = 4 ∧ c.shape.ext.headD 1 = 16 ∧ ofBytes c.maskOf < 2 ^ c.pos ∧ padNum s c.local0 4 ≠ 0 ∧ c.ahead = [] ∧
     spansHost s .write [(0x10008, 4), (0x10004, 1)] = true) ∧
    (steppable z ∧ padNum z ((headCmd z).local0 + 4) 4 = 0 ∧ ofBytes (headCmd z).maskOf < 2 ^ 1) ∧
    (steppable t ∧ ofBytes (headCmd t).maskOf < 2 ^ 2 ∧ spansHost t .write [(0x10004, 4), (0x10000, 4)] = true) ∧
    (steppable full ∧ (headCmd full).shape.ext.headD 1 < 8 + 4) := by
  unfold steppable
  refine ⟨by decide +kernel, by decide +kernel, by decide +kernel, by decide +kernel⟩

theorem wit_CopyEngineSteps_unpacks :
    let head := worked .cunpk packW 0x10000 6 id
    let u (m : Byte) := worked .cunpk packW 0x10000 6 fun c => { c with writes := [(0, [m])], pos := 1, packOff := 8 }
    (steppable head ∧ (headCmd head).pos = 0 ∧ spansHost head .read [(0x10000, 8)] = true) ∧
    (steppable (u 1) ∧ (u 1).team.poolTouched (headCmd (u 1)).local0 4 = false ∧ (ofBytes (headCmd (u 1)).maskOf).testBit 0 = true ∧ spansHost (u 1) .read [(0x10008, 4)] = true) ∧
    (steppable (u 0) ∧ (ofBytes (headCmd (u 0)).maskOf).testBit 0 = false) := by
  unfold steppable
  refine ⟨by decide +kernel, by decide +kernel, by decide +kernel⟩

/-- A team whose groups all wait on a suspended command since tick 0, where its partition has shadow storage for it. -/
def overdue (fthresh shadow : Nat) : State :=
  let s := (busy { (batched .suspended) with mem := Memory.writeLe demo.mem (loadPage + 0x1000) 4 0x88000401 }).modTeam fun t =>
    { t with cmds := t.cmds.map (fun c => { c with stat := .suspended }), groups := t.groups.set 0 { t.groups[0] with blocks := [], splits := Vector.replicate 4 none },
             waitSince := some 0 }
  { s with reft := 20000, parts := s.parts.set 0 { s.parts[0] with shadow := shadow },
           ctxs := s.ctxs.set 0 { s.ctxs[0] with raw := s.ctxs[0].raw ||| (BitVec.ofNat 1024 fthresh <<< (8 * 0x3C)) } }

theorem wit_TeamsAreDispatchedAndRetire_save :
    let s := overdue 0 64
    let u := overdue 30000 0
    let v := overdue 20000 0
    ((s.at 0 0).faultWaits = true ∧ s.team.haltable = true ∧ s.team.waitSince = some 0 ∧ (s.ctxs[s.team.ctx]).field 0x3C 4 = 0 ∧ 20000 ≤ (s.reft.toNat + 2 ^ 64 - 0) % 2 ^ 64 ∧
     s.saveWaits 0 = false ∧ s.shadowFits s.team = true) ∧
    ((u.at 0 0).faultWaits = true ∧ u.team.haltable = true ∧ (u.ctxs[u.team.ctx]).field 0x3C 4 = 30000 ∧ (u.reft.toNat + 2 ^ 64 - 0) % 2 ^ 64 < 30000) ∧
    ((v.ctxs[v.team.ctx]).field 0x3C 4 = 20000 ∧ v.shadowFits v.team = false ∧ v.saveSlot v.team = none ∧ v.saveWaits 0 = false) := by decide +kernel

/-- A machine with demo's team alone, whose partition is to run no context. -/
def leaving : State :=
  let s := alone demo.team
  { s with parts := s.parts.set 0 { s.parts[0] with st := 2, next := 0xFFFF, swapped := false, shadow := 64 } }

theorem wit_PartitionsSwitchAndTeamsComeBack_save :
    leaving.teamsOfPart 0 = [0] ∧
    ((leaving.parts[0]).st = 2 ∧ (leaving.parts[0]).next = 0xFFFF ∧ (leaving.parts[0]).swapped = false ∧ (leaving.teams[0]).haltable = true ∧ leaving.saveWaits 0 = false ∧
     leaving.shadowFits leaving.teams[0] = true) ∧
    (leaving.parts[0]).next ≠ 5 ∧ ({ placing with parts := leaving.parts } : State).switchable 0 0 = true := by
  refine ⟨?_, by decide +kernel, by decide +kernel, by decide +kernel⟩
  have h : leaving.teamsOf (fun _ => true) = [0] := alone_teams demo.team (by decide +kernel)
  unfold State.teamsOfPart
  rw [h]
  decide +kernel

theorem wit_RecordsSamplesAndReplies_producers :
    let s := (withGrp fun g => { g with producers := [(.sreg 3, 0x40)] })
    (s.producerPCs false (.smov 24 3) = [0x40] ∧ s.grp.phase = .running ∧ s.grp.handler = false ∧ inHandler.grp.handler = true ∧ inHandler.grp.phase = .running ∧ 13 < 14) := by decide +kernel

theorem wit_WindowWrites_resumes :
    let stopped (fwd : Bool) := (hubbed.modGrp fun g => { g with phase := .stopped, handler := fwd, priv := { g.priv with fwd := fwd } })
    ((stopped false).team.live = true ∧ (stopped false).team.ctx = 0 ∧ ((stopped false).team.groups[0]).phase = .stopped ∧ ((stopped false).team.groups[0]).priv.fwd = false ∧
     ((stopped true).team.groups[0]).priv.fwd = true ∧ ((stopped true).team.groups[0]).phase = .stopped ∧ (stopped true).mayAccess 0 (some 0) = true) ∧
    ((hubbed.ctxs[0]).field 8 8 + 64 * (hubbed.ctxs[0]).shapeIx + 64 ≤ devBytes ∧ (1 : Func).val ≠ 0 ∧ 0x102000 ≤ 0x1FFFF8 ∧ 0x1FFFF8 + 8 ≤ 0x200000 ∧ 0x500000 ≤ 0x500000 ∧
     ¬ (16 ≤ (15 : Byte).toNat ∧ (15 : Byte).toNat ≤ 63) ∧ (0x10000 : DWord).toNat % 2 ^ (16 : Byte).toNat = 0) := by decide +kernel

/-- hubbed with a session that holds nothing and wrote its last record of context 0 at once, where context 0 becomes invalid. -/
def closing : State := traced { session0 0 [] with last := [(0xFE, 0)] }

theorem wit_ManagementFunctions_descriptors :
    let raw := BitVec.ofNat 1024 (ofBytes (packed [(0x28, 1, 8), (0x29, 1, 6), (0x2E, 2, 5), (0x30, 2, 8), (0x32, 2, 4), (0x34, 2, 8), (0x36, 2, 4), (0x58, 4, 1)] 128))
    let y : Session := { session0 0 [] with last := [(0xFE, 0)] }
    let w (s : State) (va : Nat) (b : List Byte) := (s.ringWrite 0 va b).toOption
    (descriptorInRange (descriptorKept raw) = true ∧ hubbed.rangesFree 5 (descriptorKept raw) = true ∧ (hubbed.ctxs[5]).valid = false) ∧
    (descriptorInRange (descriptorKept 0) = false ∧ (closing.ctxs[0]).valid = true ∧ (closing.ctxs[0]).session = some y ∧ y.held = [] ∧ 0x40 + y.written + 24 ≤ 2 ^ y.log2 ∧
     y.last.lookup 0xFE = some 0 ∧ (closing.reft - 0).toNat ≤ 65535 ∧ (w closing (y.buf.toNat + 0x40) (List.replicate 24 0)).isSome = true) := by decide +kernel

theorem wit_ManagementFunctions_parts :
    let s := hubbed
    let u : State := { s with parts := s.parts.set 3 { s.parts[3] with scrub := true, st := 3, ranges := [(0x8000000, 64)] } }
    let v : State := { s with cores := s.cores.set 0 { s.cores[0] with retiredC := true } }
    ((s.parts[3]).scrub = false ∧ (s.parts[3]).ctx = 0xFFFF ∧ (s.parts[3]).st ≤ 1 ∧ (u.parts[3]).scrub = true ∧ Memory.wf u.mem = true) ∧
    (coreOf 0 0 = 0 ∧ (v.cores[coreOf 0 0]).retiredC = true ∧ v.spareOf (coreOf 0 0) = none ∧ (v.mgmt.subst[0]).toNat % 64 = 0x3F ∧ v.mgmt.deadSpares = [] ∧
     (v.mgmt.subst[0]).toNat / 2 ^ 16 % 64 ≠ ((v.mgmt.fuses.spares[0]).1).val) ∧
    (s.mgmt.fuses.ports.getLsbD 4 = true) := by decide +kernel

theorem wit_OutsideEvents_peers :
    let s : State := { hubbed with mgmt := { hubbed.mgmt with ready0 := hubbed.mgmt.ready0 ||| 0x10000, grants := hubbed.mgmt.grants.set 5 (some (7, 0, 64)) } }
    let lost : State := { s with dies := s.dies.set 0 { s.dies[0] with up := false }, lines := [(0, { codec := 0, home := 0 })] }
    (s.peerGranted 7 0 64 = true ∧ s.peerLost 0 64 = false ∧ s.homePoisoned 0 4 = false ∧ 0 + 64 ≤ devBytes) ∧
    (s.peerGranted 6 0 8 = false) ∧ lost.dies[0].up = false := by decide +kernel

theorem wit_OutsideEvents_cores :
    let c : State := { State.reset with mgmt := { State.reset.mgmt with corrected := State.reset.mgmt.corrected.set 40 (State.reset.mgmt.ceLimit[(40 : Fin 41)] + 1) } }
    let r : State := { State.reset with cores := State.reset.cores.set 3 { State.reset.cores[3] with retiring := true } }
    (c.mgmt.ceLimit[(40 : Fin 41)] < c.mgmt.corrected[(40 : Fin 41)]) ∧
    (State.reset.coreWhole 3 = true ∧ (State.reset.cores[3]).retiring = false ∧ (State.reset.cores[3]).retiredC = false ∧ (r.cores[3]).retiring = true ∧ (r.cores[3]).retiredC = false) ∧
    (({ State.reset.mgmt with mpGrants := [(0, 64)] } : Mgmt).mpGrants = [(0, 64)] ∧ (0 ≤ 4 ∧ 4 + 8 ≤ 0 + 64)) ∧
    ({ State.reset.mgmt.fuses with host := false } : Fuses).host = false ∧ State.reset.mgmt.timeSrc = none ∧ ((2 : Func).val, 3) ∉ State.reset.mgmt.msixMask ∧
    (2 : Func).val ≠ 0 ∧ 3 < 64 := by decide +kernel

theorem wit_OutsideEvents_residents (c : CoreIx) :
    State.reset.residents c = [] ∧ demo.team.live = true ∧ demo.team.core = 0 ∧ (alone demo.team).residents 0 ≠ [] := by
  have h : demo.team.live = true ∧ demo.team.core = 0 := by decide +kernel
  refine ⟨?_, h.1, h.2, List.ne_nil_of_mem (a := demo.team) ?_⟩
  · rw [State.residents, List.filter_eq_nil_iff]
    intro x hx
    have : x = Team.zero := by simp only [State.reset, Vector.toList_replicate, List.mem_replicate] at hx; exact hx.2
    subst this; simp [Team.zero]
  · rw [State.residents, List.mem_filter]
    refine ⟨?_, by simp [h.1, h.2]⟩
    rw [Vector.mem_toList_iff]
    exact Vector.mem_iff_getElem.mpr ⟨0, by decide, by simp [alone]⟩

/-- Two groups of one quarter are ready: the one in the lower slot is chosen; a slot of another quarter has no contender; the outside may act; a single-stepped group
whose chain is open gets no scalar word, and one with no chain goes on. -/
theorem wit_StepRunsTheDecodedInstruction_slots :
    let s0 := State.reset.withFetchWord 32 0x10600C03
    let ready : List Contender := [(0, 0, 0), (1, 0, 0)]
    let s : State := { s0 with teams := s0.teams.set 1 { s0.teams[0] with placed := 5 } }
    let b := s.begin ⟨0, .slot 0 0 false ready⟩ []
    let stepped := (midHash 1).modGrp fun g => { g with stepping := true }
    (s.completing = [] ∧ b.contends 0 0 false (0, 0, 0) = true ∧ b.contends 0 0 false (1, 0, 0) = true ∧ b.place false (0, 0, 0) < b.place false (1, 0, 0) ∧ s.halted = false ∧
      b.contends 0 1 false (0, 0, 0) = false) ∧
    ((stepped.begin ⟨0, .scalar 0 0⟩ []).notUnit (.scalar 0 0) = true ∧ (s.begin ⟨0, .scalar 0 0⟩ []).notUnit (.scalar 0 0) = false) ∧
    (({ State.reset with sched := [⟨0, .outer (.corrected 3)⟩] } : State).nextTurn = (⟨0, .outer (.corrected 3)⟩, [])) := by decide +kernel

end Sys2Proof.Tests
end

section
/-! PROOFS. The scalar integer words: what the shared ends of scalar words do to a register pair and to a q predicate (spec/02 R25). -/

namespace Sys2Proof.Machine

open Sys2Proof.Safety

/-! ## Words that write one register -/

/-- What holds of a value v holds of s[d] after a word that ends by writing v there. -/
theorem exec_put {i : Instr} {s : State} {d : Reg} {v : Word} (hi : exec i s = s.scalarPut 4 d v) {P : Word → Prop} (hv : P v) :
    ∃ t, exec i s = .next t ∧ P (t.sr d) ∧ scalarEnd s t 4 [d] := by
  obtain ⟨t, ht, hd, hend⟩ := scalarPut_end s 4 d v
  exact ⟨t, hi.trans ht, hd ▸ hv, hend⟩

/-- The same of a reading f of the value, as a number or otherwise. -/
theorem exec_put_eq {α : Type} (f : Word → α) {i : Instr} {s : State} {d : Reg} {v : Word} {x : α}
    (hi : exec i s = s.scalarPut 4 d v) (hv : f v = x) : ∃ t, exec i s = .next t ∧ f (t.sr d) = x ∧ scalarEnd s t 4 [d] :=
  exec_put (P := fun v => f v = x) hi hv

/-! ## Words that write a register pair -/

theorem State.setSr64_grp (s : State) (r : Reg) (v : DWord) :
    (s.setSr64 r v).grp = { s.grp with sregs := (s.setSr64 r v).grp.sregs, errs := (s.setSr64 r v).grp.errs } := by
  simp only [State.setSr64, State.setSr_grp]

theorem State.setSr64_eq_setGrp (s : State) (r : Reg) (v : DWord) : s.setSr64 r v = s.setGrp (s.setSr64 r v).grp := by
  simp [State.setSr64, State.setSr, State.modGrp]

/-- A register pair read after a write of it (spec/00 R3). -/
theorem State.sr64_setSr64 (s : State) (r : Reg) (v : DWord) : (s.setSr64 r v).sr64 r = v := by
  have low : (s.setSr64 r v).sr r = v.extractLsb' 0 32 := by simp [State.setSr64, State.sr_setSr]
  have high : (s.setSr64 r v).sr (r + 1) = v.extractLsb' 32 32 := by simp [State.setSr64, State.sr_setSr]
  rw [State.sr64, low, high]
  exact (BitVec.extractLsb'_append_extractLsb'_eq_extractLsb' (start₁ := 0) rfl).trans BitVec.extractLsb'_eq_self

theorem State.sr_setSr64_of_notMem (s : State) {r q : Reg} (v : DWord) (h : q ∉ [r, r + 1]) : (s.setSr64 r v).sr q = s.sr q := by
  rw [List.mem_pair, not_or] at h
  obtain ⟨hlow, hhigh⟩ := h
  rw [State.setSr64, State.sr_setSr, if_neg hhigh, State.sr_setSr, if_neg hlow]

@[simp] theorem State.advance_sr64 (s : State) (n : Nat) (r : Reg) : (s.advance n).sr64 r = s.sr64 r := by
  simp only [State.sr64, State.advance_sr]

/-- Everything a scalar word that writes a register pair does. -/
theorem scalarPut64_end (s : State) (n : Nat) (d : Reg) (v : DWord) :
    ∃ t, s.scalarPut64 n d v = .next t ∧ t.sr64 d = v ∧ scalarEnd s t n [d, d + 1] := by
  refine ⟨_, rfl, ?_, ?_, ?_, ?_⟩
  · rw [State.advance_sr64, State.sr64_setSr64]
  · rw [State.setSr64_eq_setGrp]
    exact groupOnly_advance s _ n
  · rw [wordDone, State.advance_grp, State.setSr64_grp]
  · intro r hr
    rw [State.advance_sr, State.sr_setSr64_of_notMem s v hr]

/-- What holds of a value v holds of the pair at d after a word that ends by writing v there. -/
theorem exec_put64 {i : Instr} {s : State} {d : Reg} {v : DWord} (hi : exec i s = s.scalarPut64 4 d v) {P : DWord → Prop} (hv : P v) :
    ∃ t, exec i s = .next t ∧ P (t.sr64 d) ∧ scalarEnd s t 4 [d, d + 1] := by
  obtain ⟨t, ht, hd, hend⟩ := scalarPut64_end s 4 d v
  exact ⟨t, hi.trans ht, hd ▸ hv, hend⟩

/-! ## Words that write a q predicate -/

theorem Team.specUnder_unwatched {t : Team} {p : GrpIx × BitVec 3} (h : ∀ k : Fin 8, t.accs[k].pend ≠ some p) (r : MxReq) :
    t.specUnder p r = false := by
  rw [Team.specUnder, Bool.and_eq_false_iff]
  right
  split
  case h_1 a ha =>
    obtain ⟨hk, rfl⟩ := Vector.getElem?_eq_some_iff.mp ha
    exact beq_eq_false_iff_ne.mpr (h ⟨r.acc, hk⟩)
  case h_2 => rfl

/-- A write of a predicate that no accumulator waits for commits and discards nothing (spec/14 R282). -/
theorem Team.resolve_unwatched {t : Team} {p : GrpIx × BitVec 3} (v : Bool) (h : ∀ k : Fin 8, t.accs[k].pend ≠ some p) :
    t.resolve p v = t := by
  have accs : mapAll (fun a => if a.pend == some p then a.resolve v else a) t.accs = t.accs := by
    ext1 i hi
    have : (t.accs[i].pend == some p) = false := beq_eq_false_iff_ne.mpr (h ⟨i, hi⟩)
    simp only [mapAll, Vector.getElem_ofFn, Fin.getElem_fin, this, Bool.false_eq_true, if_false]
  have reqs : (if v then t.reqs.map fun r => if t.specUnder p r then { r with spec := false } else r
      else t.reqs.filter fun r => !t.specUnder p r) = t.reqs := by
    cases v <;> simp [Team.specUnder_unwatched h]
  rw [Team.resolve, accs, reqs]

theorem State.setQ_grp (s : State) (q : BitVec 3) (v : Bool) :
    (s.setQ q v).grp = { s.grp with qregs := (s.setQ q v).grp.qregs, errs := (s.setQ q v).grp.errs } := by
  unfold State.setQ
  split
  · rfl
  · simp [State.modTeam_grp, Team.resolve, State.modGrp_team]

theorem State.setQ_qregs (s : State) {q : BitVec 3} (hq : q ≠ 7) (v : Bool) : (s.setQ q v).grp.qregs = s.grp.qregs.set q.toNat v := by
  rw [State.setQ, if_neg hq]
  simp [State.modTeam_grp, Team.resolve, State.modGrp_team]

@[simp] theorem State.setQ_sr (s : State) (q : BitVec 3) (v : Bool) (r : Reg) : (s.setQ q v).sr r = s.sr r := by
  rw [State.sr, State.setQ_grp]
  rfl

@[simp] theorem State.setQ_mem (s : State) (q : BitVec 3) (v : Bool) : (s.setQ q v).mem = s.mem := by
  unfold State.setQ
  split <;> simp

@[simp] theorem State.setQ_team_spad (s : State) (q : BitVec 3) (v : Bool) : (s.setQ q v).team.spad = s.team.spad := by
  unfold State.setQ
  split <;> simp [Team.resolve]

/-- A q predicate read after a write: the write to q7 is discarded, and q7 reads true (spec/02 R25). -/
theorem State.qr_setQ (s : State) (q p : BitVec 3) (v : Bool) : (s.setQ q v).qr p = if p = q then v || q == 7 else s.qr p := by
  by_cases hq : q = 7
  · rw [State.setQ, if_pos hq]
    by_cases hp : p = q
    · rw [if_pos hp, hp, hq, State.qr_seven, beq_self_eq_true, Bool.or_true]
    · rw [if_neg hp]
  · rw [State.qr, State.setQ_qregs s hq, Vector.getElem_set]
    by_cases hp : p = q
    · rw [if_pos hp, if_pos (congrArg BitVec.toNat hp.symm), hp, Bool.or_comm]
    · have : ¬ q.toNat = p.toNat := fun e => hp (BitVec.eq_of_toNat_eq e.symm)
      simp [hp, this, State.qr]

theorem State.setQ_eq_setGrp {s : State} {q : BitVec 3} (h : ¬ predWatched s q) (v : Bool) : s.setQ q v = s.setGrp (s.setQ q v).grp := by
  by_cases hq : q = 7
  · simp [State.setQ, hq]
  · have unwatched : ∀ k : Fin 8, s.team.accs[k].pend ≠ some (s.gix, q) := fun k hk => h ⟨k, hk⟩
    have keeps (f : Group → Group) : (s.modGrp f).modTeam (fun t => t.resolve (s.gix, q) v) = s.modGrp f := by
      rw [State.modTeam, Team.resolve_unwatched v (by simpa using unwatched), State.setTeam_self]
    simp only [State.setQ, if_neg hq, keeps]
    simp [State.modGrp]

@[simp] theorem State.advance_qr (s : State) (n : Nat) (p : BitVec 3) : (s.advance n).qr p = s.qr p := by
  simp [State.qr, State.advance_grp]

@[simp] theorem State.advance_team_spad (s : State) (n : Nat) : (s.advance n).team.spad = s.team.spad := by
  simp [State.advance, State.goto, State.countScalar]

/-- Everything a scalar word that writes a q predicate does. -/
theorem scalarPutQ_end (s : State) (q : BitVec 3) (v : Bool) : ∃ t, s.scalarPutQ q v = .next t ∧ predEnd s t q v := by
  refine ⟨_, rfl, ?_, ?_, ?_, ?_, ?_, ?_, ?_⟩
  · rw [State.advance_qr, State.qr_setQ, if_pos rfl]
  · intro p hp
    rw [State.advance_qr, State.qr_setQ, if_neg hp]
  · simp
  · simp
  · simp
  · rw [State.advance_grp, State.setQ_grp]
    rfl
  · intro h
    rw [State.setQ_eq_setGrp h]
    exact groupOnly_advance s _ 4

/-- A word that ends by writing a condition to q leaves the condition there. -/
theorem exec_putQ {i : Instr} {s : State} {q : BitVec 3} {v x : Bool} (hi : exec i s = s.scalarPutQ q v) (hv : v = x) :
    ∃ t, exec i s = .next t ∧ predEnd s t q x := by
  obtain ⟨t, ht, hend⟩ := scalarPutQ_end s q v
  exact ⟨t, hi.trans ht, hv ▸ hend⟩

/-! ## The predicates that SSEL reads (spec/03 R58) -/

theorem State.qr_low (s : State) (k : BitVec 2) : s.qr (k.zeroExtend 3) = s.grp.qregs[k.toNat] := by
  have seven : (k.zeroExtend 3 == 7) = false := by revert k; decide
  have place : (k.zeroExtend 3).toNat = k.toNat := by revert k; decide
  simp only [State.qr, seven, place, Bool.false_or]

theorem State.qr_high (s : State) (k : BitVec 2) : s.qr (k.zeroExtend 3 + 4) = (decide (k = 3) || s.grp.qregs[k.toNat + 4]) := by
  have seven : (k.zeroExtend 3 + 4 == 7) = decide (k = 3) := by revert k; decide
  have place : (k.zeroExtend 3 + 4).toNat = k.toNat + 4 := by revert k; decide
  simp only [State.qr, seven, place]

theorem exec_sselQ0Q3 (d a b : Reg) (k : BitVec 2) (s : State) :
    exec (.sselQ0Q3 d a b k) s = s.scalarPut 4 d (if s.grp.qregs[k.toNat] then s.sr a else s.sr b) := by
  rw [← State.qr_low]
  rfl

theorem exec_sselQ4Q7 (d a b : Reg) (k : BitVec 2) (s : State) :
    exec (.sselQ4Q7 d a b k) s = s.scalarPut 4 d (if k = 3 ∨ s.grp.qregs[k.toNat + 4] then s.sr a else s.sr b) := by
  have h : s.qr (k.zeroExtend 3 + 4) = true ↔ k = 3 ∨ s.grp.qregs[k.toNat + 4] = true := by
    rw [State.qr_high, Bool.or_eq_true, decide_eq_true_iff]
  simp only [← h]
  rfl

end Sys2Proof.Machine
end

section
/-! PROOFS. The fields of a scalar word of three registers, and how the decoder ends (spec/02 R23, R27, R38). -/

namespace Sys2Proof

open Sys2Proof.Machine

/-- A scalar word of the fields OP, D, A, B and FN (spec/02 R27). -/
def regWord (op : BitVec 6) (d a b : Reg) (fn : BitVec 2) : Word := op ++ d ++ a ++ b ++ fn

section Fields

variable (op : BitVec 6) (d a b : Reg) (fn : BitVec 2)

theorem regWord_op : (regWord op d a b fn).extractLsb' 26 6 = op := by
  unfold regWord
  repeat rw [BitVec.extractLsb'_append_eq_of_le (by decide)]
  exact BitVec.extractLsb'_eq_self

theorem regWord_part_of_d (lo len : Nat) (h : lo + len ≤ 8) : (regWord op d a b fn).extractLsb' (18 + lo) len = d.extractLsb' lo len := by
  unfold regWord
  rw [BitVec.extractLsb'_append_eq_of_le (by omega), BitVec.extractLsb'_append_eq_of_le (by omega),
    BitVec.extractLsb'_append_eq_of_le (by omega), BitVec.extractLsb'_append_eq_of_add_le (by omega), show 18 + lo - 2 - 8 - 8 = lo by omega]

theorem regWord_d : (regWord op d a b fn).extractLsb' 18 8 = d :=
  (regWord_part_of_d op d a b fn 0 8 (by decide)).trans BitVec.extractLsb'_eq_self

theorem regWord_a : (regWord op d a b fn).extractLsb' 10 8 = a := by
  unfold regWord
  repeat rw [BitVec.extractLsb'_append_eq_of_le (by decide)]
  exact BitVec.extractLsb'_append_eq_right

theorem regWord_b : (regWord op d a b fn).extractLsb' 2 8 = b := by
  unfold regWord
  rw [BitVec.extractLsb'_append_eq_of_le (by decide)]
  exact BitVec.extractLsb'_append_eq_right

theorem regWord_fn : (regWord op d a b fn).extractLsb' 0 2 = fn := BitVec.extractLsb'_append_eq_right

end Fields

/-- A mask of len ones from bit lo on picks a field. -/
theorem and_fieldMask_eq_zero_iff (w : Word) (lo len : Nat) (h : lo + len ≤ 32) :
    w &&& ((BitVec.allOnes len).zeroExtend 32 <<< lo) = 0 ↔ w.extractLsb' lo len = 0 := by
  constructor
  · intro hz
    ext i hi
    have := congrArg (fun v => BitVec.getLsbD v (lo + i)) hz
    simpa [hi, show lo + i < 32 by omega] using this
  · intro hz
    ext i hi
    have := congrArg (fun v => BitVec.getLsbD v (i - lo)) hz
    by_cases hin : lo ≤ i ∧ i - lo < len
    · simpa [hi, hin, show lo + (i - lo) = i by omega, show ¬ i < lo by omega] using this
    · rcases not_and_or.mp hin with h | h <;> simp [h]

theorem regWord_reserved_b (op : BitVec 6) (d a : Reg) (fn : BitVec 2) : regWord op d a 0 fn &&& 0x000003FC = 0 :=
  (and_fieldMask_eq_zero_iff _ 2 8 (by decide)).mpr (regWord_b op d a 0 fn)

theorem finishScalar_ok {m w : Word} {i : Instr} (hm : w &&& m = 0) (hi : formFault i = none) : finishScalar m w i = .ok i := by
  rw [finishScalar, if_pos hm, hi]

theorem finishScalar_fault {m w : Word} {i : Instr} {c : Cause} (hm : w &&& m = 0) (hi : formFault i = some c) :
    finishScalar m w i = .error c := by
  rw [finishScalar, if_pos hm, hi]

theorem finishScalar_reserved {m w : Word} {i : Instr} (hm : w &&& m ≠ 0) : finishScalar m w i = .error 0x041 := by
  rw [finishScalar, if_neg hm]

/-- A compare word, whose field D holds five reserved bits above the number of a predicate (spec/03 R58). -/
def predWord (op : BitVec 6) (x : BitVec 5) (q : BitVec 3) (a b : Reg) (fn : BitVec 2) : Word := op ++ x ++ q ++ a ++ b ++ fn

section Compares

variable (op : BitVec 6) (x : BitVec 5) (q : BitVec 3) (a b : Reg) (fn : BitVec 2)

theorem predWord_eq_regWord : predWord op x q a b fn = regWord op (x ++ q) a b fn :=
  congrArg (fun y : BitVec 14 => (y ++ a ++ b ++ fn : Word)) BitVec.append_assoc

theorem regWord_q : (regWord op (x ++ q) a b fn).extractLsb' 18 3 = q :=
  (regWord_part_of_d op (x ++ q) a b fn 0 3 (by decide)).trans BitVec.extractLsb'_append_eq_right

theorem regWord_reserved_d_iff : regWord op (x ++ q) a b fn &&& 0x03E00000 = 0 ↔ x = 0 := by
  have high : (regWord op (x ++ q) a b fn).extractLsb' 21 5 = x :=
    (regWord_part_of_d op (x ++ q) a b fn 3 5 (by decide)).trans BitVec.extractLsb'_append_eq_left
  exact (and_fieldMask_eq_zero_iff _ 21 5 (by decide)).trans (iff_of_eq (congrArg (· = 0) high))

end Compares

/-- An odd register cannot start a pair (spec/02 R25). -/
theorem pairBad_eq_getLsbD (r : Reg) : pairBad r = r.getLsbD 0 := by
  rw [pairBad, BitVec.getLsbD, Nat.testBit_zero]
  rcases Nat.mod_two_eq_zero_or_one r.toNat with h | h <;> simp [h]

theorem groupFault_pairs_even {d a : Reg} (hd : d.getLsbD 0 = false) (ha : a.getLsbD 0 = false) :
    groupFault (pairBad d || pairBad a) = none := by
  rw [pairBad_eq_getLsbD, pairBad_eq_getLsbD, hd, ha]
  rfl

theorem groupFault_pairs_odd {d a : Reg} (h : d.getLsbD 0 = true ∨ a.getLsbD 0 = true) :
    groupFault (pairBad d || pairBad a) = some 0x043 := by
  rw [pairBad_eq_getLsbD, pairBad_eq_getLsbD, (Bool.or_eq_true ..).mpr h]
  rfl

end Sys2Proof
end

section
/-! PROOFS. The rows of the scalar integer words in the decoder (spec/03 R57, R58, R60, R61): the fields of the word choose the row, and the row's reserved
bits and operands decide how it ends. -/

namespace Sys2Proof.ScalarWords

open Sys2Proof Sys2Proof.Machine

/-- The words of three registers of R57 have no reserved bits and no operand that is refused. -/
theorem decodeScalar_threeRegisters (d a b : Reg) :
    decodeScalar (regWord 0x01 d a b 0) = .ok (.sadd d a b) ∧ decodeScalar (regWord 0x01 d a b 1) = .ok (.ssub d a b) ∧
    decodeScalar (regWord 0x01 d a b 2) = .ok (.smul d a b) ∧ decodeScalar (regWord 0x01 d a b 3) = .ok (.smulh d a b) ∧
    decodeScalar (regWord 0x03 d a b 3) = .ok (.smulhN d a b) ∧ decodeScalar (regWord 0x02 d a b 0) = .ok (.smin d a b) ∧
    decodeScalar (regWord 0x02 d a b 1) = .ok (.smax d a b) ∧ decodeScalar (regWord 0x02 d a b 2) = .ok (.sminN d a b) ∧
    decodeScalar (regWord 0x02 d a b 3) = .ok (.smaxN d a b) ∧ decodeScalar (regWord 0x03 d a b 0) = .ok (.sand d a b) ∧
    decodeScalar (regWord 0x03 d a b 1) = .ok (.sor d a b) ∧ decodeScalar (regWord 0x03 d a b 2) = .ok (.sxor d a b) ∧
    decodeScalar (regWord 0x04 d a b 0) = .ok (.sshl d a b) ∧ decodeScalar (regWord 0x04 d a b 1) = .ok (.sshr d a b) ∧
    decodeScalar (regWord 0x04 d a b 2) = .ok (.ssra d a b) := by
  refine ⟨?_, ?_, ?_, ?_, ?_, ?_, ?_, ?_, ?_, ?_, ?_, ?_, ?_, ?_, ?_⟩
  all_goals
    rw [decodeScalar, regWord_op, regWord_fn, regWord_d, regWord_a, regWord_b]
    exact finishScalar_ok BitVec.and_zero rfl

/-- In the words of two registers of R57 the field B is reserved. -/
theorem decodeScalar_twoRegisters (d a : Reg) :
    decodeScalar (regWord 0x04 d a 0 3) = .ok (.smov d a) ∧ decodeScalar (regWord 0x06 d a 0 2) = .ok (.sclz d a) ∧
    decodeScalar (regWord 0x06 d a 0 3) = .ok (.spopc d a) := by
  refine ⟨?_, ?_, ?_⟩
  all_goals
    rw [decodeScalar, regWord_op, regWord_fn, regWord_d, regWord_a]
    exact finishScalar_ok (regWord_reserved_b ..) rfl

theorem decodeScalar_compares (q : BitVec 3) (a b : Reg) :
    decodeScalar (predWord 0x05 0 q a b 0) = .ok (.scmpEq q a b) ∧ decodeScalar (predWord 0x05 0 q a b 1) = .ok (.scmpNe q a b) ∧
    decodeScalar (predWord 0x05 0 q a b 2) = .ok (.scmpLt q a b) ∧ decodeScalar (predWord 0x05 0 q a b 3) = .ok (.scmpLe q a b) ∧
    decodeScalar (predWord 0x06 0 q a b 0) = .ok (.scmpLtN q a b) ∧ decodeScalar (predWord 0x06 0 q a b 1) = .ok (.scmpLeN q a b) := by
  refine ⟨?_, ?_, ?_, ?_, ?_, ?_⟩
  all_goals
    rw [predWord_eq_regWord, decodeScalar, regWord_op, regWord_fn, regWord_q, regWord_a, regWord_b]
    exact finishScalar_ok ((regWord_reserved_d_iff ..).mpr rfl) rfl

/-- A compare word with a reserved bit set is refused, whichever compare it is. -/
theorem decodeScalar_compare_reserved {x : BitVec 5} (hx : x ≠ 0) (q : BitVec 3) (a b : Reg) (fn : BitVec 2) :
    decodeScalar (predWord 0x05 x q a b fn) = .error 0x041 ∧ (fn.toNat < 2 → decodeScalar (predWord 0x06 x q a b fn) = .error 0x041) := by
  have reserved (op : BitVec 6) (fn : BitVec 2) : regWord op (x ++ q) a b fn &&& 0x03E00000 ≠ 0 := mt (regWord_reserved_d_iff ..).mp hx
  constructor
  · rw [predWord_eq_regWord, decodeScalar, regWord_op, regWord_fn]
    obtain rfl | rfl | rfl | rfl : fn = 0 ∨ fn = 1 ∨ fn = 2 ∨ fn = 3 := by revert fn; decide
    all_goals exact finishScalar_reserved (reserved 0x05 _)
  · intro hfn
    rw [predWord_eq_regWord, decodeScalar, regWord_op, regWord_fn]
    obtain rfl | rfl : fn = 0 ∨ fn = 1 := by revert fn; decide
    all_goals exact finishScalar_reserved (reserved 0x06 _)

theorem decodeScalar_selects (d a b : Reg) (k : BitVec 2) :
    decodeScalar (regWord 0x07 d a b k) = .ok (.sselQ0Q3 d a b k) ∧ decodeScalar (regWord 0x08 d a b k) = .ok (.sselQ4Q7 d a b k) := by
  constructor
  all_goals
    rw [decodeScalar, regWord_op, regWord_fn, regWord_d, regWord_a, regWord_b]
    exact finishScalar_ok BitVec.and_zero rfl

/-- The address sums are left to the check of their pairs. -/
theorem decodeScalar_addressSums (d a b : Reg) :
    decodeScalar (regWord 0x09 d a b 0) = finishScalar 0 (regWord 0x09 d a b 0) (.sad64 d a b) ∧
    decodeScalar (regWord 0x09 d a b 1) = finishScalar 0 (regWord 0x09 d a b 1) (.smad64 d a b) := by
  constructor
  all_goals
    rw [decodeScalar, regWord_op, regWord_fn, regWord_d, regWord_a, regWord_b]
    rfl

theorem decodeScalar_bitFields (d a b : Reg) :
    decodeScalar (regWord 0x0A d a b 0) = .ok (.sbfe d a b) ∧ decodeScalar (regWord 0x0A d a b 1) = .ok (.sbfeI d a b) ∧
    decodeScalar (regWord 0x0A d a b 2) = .ok (.sbfi d a b) := by
  refine ⟨?_, ?_, ?_⟩
  all_goals
    rw [decodeScalar, regWord_op, regWord_fn, regWord_d, regWord_a, regWord_b]
    exact finishScalar_ok BitVec.and_zero rfl

end Sys2Proof.ScalarWords
end

section
/-! PROOFS. The values of the scalar integer words, over numbers and over bits (spec/03 R57, R60, R61). -/

namespace Sys2Proof.ScalarWords

open Sys2Proof Sys2Proof.Machine

/-! ## Sums and products -/

theorem toNat_sub_add_mod (a b : Word) : ((a - b).toNat + b.toNat) % 2 ^ 32 = a.toNat := by
  rw [BitVec.toNat_sub]
  omega

theorem toInt_extractHigh (x : DWord) : (x.extractLsb' 32 32).toInt = x.toInt / 2 ^ 32 := by
  have high : (x.extractLsb' 32 32).toNat = x.toNat / 2 ^ 32 := by
    rw [BitVec.extractLsb'_toNat, Nat.shiftRight_eq_div_pow]
    omega
  rw [BitVec.toInt_eq_toNat_cond, BitVec.toInt_eq_toNat_cond, high]
  omega

/-- The product of two signed words fits in 64 bits. -/
theorem toInt_signExtend_mul (a b : Word) : (a.signExtend 64 * b.signExtend 64).toInt = a.toInt * b.toInt := by
  have low : -2 ^ 62 ≤ a.toInt * b.toInt := BitVec.le_toInt_mul_toInt
  have high : a.toInt * b.toInt ≤ 2 ^ 62 := BitVec.toInt_mul_toInt_le
  rw [BitVec.toInt_mul, BitVec.toInt_signExtend_of_le (by decide), BitVec.toInt_signExtend_of_le (by decide)]
  exact Int.bmod_eq_of_le (by omega) (by omega)

theorem toInt_mulHigh_signed (a b : Word) : (mulHigh true a b).toInt = a.toInt * b.toInt / 2 ^ 32 := by
  simp only [mulHigh, if_true, toInt_extractHigh, toInt_signExtend_mul]

theorem toNat_mulHigh_unsigned (a b : Word) : (mulHigh false a b).toNat = a.toNat * b.toNat / 2 ^ 32 := by
  have bound : a.toNat * b.toNat < 2 ^ 32 * 2 ^ 32 := Nat.mul_lt_mul'' a.isLt b.isLt
  have product : (a.zeroExtend 64 * b.zeroExtend 64).toNat = a.toNat * b.toNat := by
    rw [BitVec.toNat_mul, BitVec.toNat_setWidth_of_le (by decide), BitVec.toNat_setWidth_of_le (by decide)]
    omega
  simp only [mulHigh, Bool.false_eq_true, if_false, BitVec.extractLsb'_toNat, product, Nat.shiftRight_eq_div_pow]
  omega

/-- An integer added to a doubleword modulo 2^64. -/
theorem emod_toNat_add_ofInt (x : DWord) (z : Int) : (((x + BitVec.ofInt 64 z).toNat : Int) - x.toNat - z) % 2 ^ 64 = 0 := by
  rw [BitVec.toNat_add, BitVec.toNat_ofInt]
  omega

theorem signExtend_mul_signExtend (a b : Word) : a.signExtend 64 * b.signExtend 64 = BitVec.ofInt 64 (a.toInt * b.toInt) :=
  (BitVec.ofInt_mul a.toInt b.toInt).symm

/-! ## Comparisons, minima and maxima -/

theorem beq_eq_decide_toNat (x y : Word) : (x == y) = decide (x.toNat = y.toNat) := by
  rw [Bool.beq_eq_decide_eq, decide_eq_decide, BitVec.toNat_inj]

theorem bne_eq_decide_toNat (x y : Word) : (x != y) = decide (x.toNat ≠ y.toNat) := by
  rw [bne, beq_eq_decide_toNat, decide_not]

/-- A choice by a strict comparison of f takes the operand of the smaller f. -/
theorem apply_ite_lt_eq_min {α : Type} [LinearOrder α] (f : Word → α) {a b : Word} {p : Bool} (hp : p = true ↔ f a < f b) :
    f (if p then a else b) = min (f a) (f b) := by
  by_cases h : p = true
  · rw [if_pos h, min_eq_left (hp.mp h).le]
  · rw [if_neg h, min_eq_right (not_lt.mp (mt hp.mpr h))]

/-- The opposite choice takes the operand of the greater f. -/
theorem apply_ite_lt_eq_max {α : Type} [LinearOrder α] (f : Word → α) {a b : Word} {p : Bool} (hp : p = true ↔ f a < f b) :
    f (if p then b else a) = max (f a) (f b) := by
  by_cases h : p = true
  · rw [if_pos h, max_eq_right (hp.mp h).le]
  · rw [if_neg h, max_eq_left (not_lt.mp (mt hp.mpr h))]

/-! ## Shifts -/

theorem shiftCount_eq_mod (b : Word) : shiftCount b = b.toNat % 256 := by
  simp [shiftCount, BitVec.extractLsb'_toNat]

theorem toNat_shiftLeft_shiftCount (a b : Word) : (a <<< shiftCount b).toNat = a.toNat * 2 ^ (b.toNat % 256) % 2 ^ 32 := by
  rw [BitVec.toNat_shiftLeft, Nat.shiftLeft_eq, shiftCount_eq_mod]

theorem toNat_shiftRight_shiftCount (a b : Word) : (a >>> shiftCount b).toNat = a.toNat / 2 ^ (b.toNat % 256) := by
  rw [BitVec.toNat_ushiftRight, Nat.shiftRight_eq_div_pow, shiftCount_eq_mod]

theorem toInt_sshiftRight_shiftCount (a b : Word) : (a.sshiftRight (shiftCount b)).toInt = a.toInt / 2 ^ (b.toNat % 256) := by
  rw [BitVec.toInt_sshiftRight, Int.shiftRight_eq_div_pow, shiftCount_eq_mod]
  norm_cast

/-! ## Counts of bits -/

theorem clz32_le (a : Word) : clz32 a ≤ 32 := by
  unfold clz32
  split <;> omega

theorem toNat_ofNat_clz32 (a : Word) : (BitVec.ofNat 32 (clz32 a)).toNat = clz32 a := by
  have := clz32_le a
  rw [BitVec.toNat_ofNat]
  omega

theorem toNat_ne_zero {a : Word} (h : a ≠ 0) : a.toNat ≠ 0 := mt (BitVec.eq_of_toNat_eq (y := 0)) h

theorem log2_lt_32 {a : Word} (h : a ≠ 0) : a.toNat.log2 < 32 := (Nat.log2_lt (toNat_ne_zero h)).mpr a.isLt

theorem toNat_lt_of_clz32 (a : Word) : a.toNat < 2 ^ (32 - clz32 a) := by
  unfold clz32
  split
  case isTrue h => simp [h]
  case isFalse h =>
    have := log2_lt_32 h
    rw [show 32 - (31 - a.toNat.log2) = a.toNat.log2 + 1 by omega]
    exact Nat.lt_log2_self

theorem getLsbD_of_clz32_lt {a : Word} (h : clz32 a < 32) : a.getLsbD (31 - clz32 a) = true := by
  unfold clz32 at h ⊢
  split at h
  case isTrue => omega
  case isFalse hz =>
    have := log2_lt_32 hz
    rw [if_neg hz, show 31 - (31 - a.toNat.log2) = a.toNat.log2 by omega]
    exact Nat.testBit_log2 (toNat_ne_zero hz)

theorem popCount_eq_length (n v : Nat) : popCount n v = ((List.range n).filter v.testBit).length := by
  induction n generalizing v with
  | zero => rfl
  | succ n ih =>
    have tail : (v / 2).testBit = v.testBit ∘ Nat.succ := funext fun k => (Nat.testBit_succ v k).symm
    rw [popCount, ih, tail, List.range_succ_eq_map, List.filter_cons, List.filter_map, Nat.testBit_zero]
    rcases Nat.mod_two_eq_zero_or_one v with h | h <;> simp [h, Nat.add_comm]

theorem toNat_ofNat_popCount (a : Word) :
    (BitVec.ofNat 32 (popCount 32 a.toNat)).toNat = ((List.range 32).filter fun k => a.getLsbD k).length := by
  have count : popCount 32 a.toNat = ((List.range 32).filter fun k => a.getLsbD k).length := popCount_eq_length 32 a.toNat
  have le := List.length_filter_le (fun k => a.getLsbD k) (List.range 32)
  rw [List.length_range] at le
  rw [count, BitVec.toNat_ofNat]
  omega

/-! ## Bit fields -/

theorem fieldOffset_eq_mod (c : Word) : fieldOffset c = c.toNat % 32 := by
  simp [fieldOffset, BitVec.extractLsb'_toNat]

theorem fieldWidth_eq_min (c : Word) : fieldWidth c = min (c.toNat / 256 % 64) (32 - c.toNat % 32) := by
  simp [fieldWidth, fieldOffset_eq_mod, BitVec.extractLsb'_toNat, Nat.shiftRight_eq_div_pow]

theorem fieldOffset_add_fieldWidth_le (c : Word) : fieldOffset c + fieldWidth c ≤ 32 := by
  rw [fieldWidth_eq_min, fieldOffset_eq_mod]
  omega

theorem toNat_lowMask {w : Nat} (h : w ≤ 32) : (lowMask w).toNat = 2 ^ w - 1 := by
  have : 2 ^ w ≤ 2 ^ 32 := Nat.pow_le_pow_right (by decide) h
  rw [lowMask, BitVec.toNat_ofNat, Nat.mod_eq_of_lt (by omega)]

theorem getLsbD_lowMask {w : Nat} (h : w ≤ 32) (k : Nat) : (lowMask w).getLsbD k = decide (k < w) := by
  rw [BitVec.getLsbD, toNat_lowMask h, Nat.testBit_two_pow_sub_one]

theorem toNat_fieldGet_unsigned (a c : Word) : (fieldGet false a c).toNat = a.toNat / 2 ^ fieldOffset c % 2 ^ fieldWidth c := by
  have := fieldOffset_add_fieldWidth_le c
  simp only [fieldGet, Bool.false_and, Bool.false_eq_true, if_false, BitVec.toNat_and, BitVec.toNat_ushiftRight]
  rw [toNat_lowMask (by omega), Nat.and_two_pow_sub_one_eq_mod, Nat.shiftRight_eq_div_pow]

/-- A bit of a field before it is extended. -/
theorem getLsbD_fieldBits (a c : Word) (k : Nat) :
    (a >>> fieldOffset c &&& lowMask (fieldWidth c)).getLsbD k = (decide (k < fieldWidth c) && a.getLsbD (fieldOffset c + k)) := by
  have := fieldOffset_add_fieldWidth_le c
  rw [BitVec.getLsbD_and, BitVec.getLsbD_ushiftRight, getLsbD_lowMask (by omega), Bool.and_comm]

/-- Inside the field a bit is its own, above it the field's top bit, and an empty field has none. -/
theorem getLsbD_fieldGet_signed (a c : Word) {k : Nat} (hk : k < 32) :
    (fieldGet true a c).getLsbD k = (decide (0 < fieldWidth c) && a.getLsbD (fieldOffset c + min k (fieldWidth c - 1))) := by
  have := fieldOffset_add_fieldWidth_le c
  have mask := getLsbD_lowMask (w := fieldWidth c) (by omega) k
  have field := getLsbD_fieldBits a c k
  have sign : (true && decide (0 < fieldWidth c) && (decide (fieldWidth c - 1 < fieldWidth c) && a.getLsbD (fieldOffset c + (fieldWidth c - 1)))) =
      (decide (0 < fieldWidth c) && a.getLsbD (fieldOffset c + (fieldWidth c - 1))) := by
    simp +contextual
  rw [fieldGet, getLsbD_fieldBits, sign]
  rcases Nat.lt_or_ge k (fieldWidth c) with inside | above
  · rw [decide_eq_true inside, Bool.true_and] at field
    rw [decide_eq_true inside] at mask
    rw [Nat.min_eq_left (by omega), decide_eq_true (by omega : 0 < fieldWidth c)]
    simp only [Bool.true_and, ← field]
    split
    case isTrue => simp only [BitVec.getLsbD_or, BitVec.getLsbD_not, mask, Bool.not_true, Bool.and_false, Bool.or_false]
    case isFalse => rfl
  · rw [decide_eq_false (Nat.not_lt.mpr above), Bool.false_and] at field
    rw [decide_eq_false (Nat.not_lt.mpr above)] at mask
    rw [Nat.min_eq_right (by omega)]
    split
    case isTrue neg => simp only [BitVec.getLsbD_or, BitVec.getLsbD_not, field, mask, hk, neg, decide_true, Bool.not_false, Bool.and_self, Bool.or_true]
    case isFalse pos => rw [field, Bool.eq_false_of_not_eq_true pos]

theorem getLsbD_fieldPut (base a c : Word) {k : Nat} (hk : k < 32) :
    (fieldPut base a c).getLsbD k =
      if fieldOffset c ≤ k ∧ k < fieldOffset c + fieldWidth c then a.getLsbD (k - fieldOffset c) else base.getLsbD k := by
  have := fieldOffset_add_fieldWidth_le c
  have mask := getLsbD_lowMask (w := fieldWidth c) (by omega)
  simp only [fieldPut, BitVec.getLsbD_or, BitVec.getLsbD_and, BitVec.getLsbD_not, BitVec.getLsbD_shiftLeft, mask, hk]
  by_cases lo : fieldOffset c ≤ k
  · by_cases hi : k < fieldOffset c + fieldWidth c
    · simp [lo, hi, show k - fieldOffset c < fieldWidth c by omega, show ¬ k < fieldOffset c by omega]
    · simp [lo, hi, show ¬ k - fieldOffset c < fieldWidth c by omega]
  · simp [lo, show k < fieldOffset c by omega]

end Sys2Proof.ScalarWords
end

section
/-! PROOFS. The statements of spec/03 on register-to-register words, compares and selects, address sums and bit fields. -/

namespace Sys2Proof.ScalarWords

open Sys2Proof Sys2Proof.Machine Sys2Proof.Safety

theorem exec_sclz (d a : Reg) (s : State) :
    ∃ t, exec (.sclz d a) s = .next t ∧ (t.sr d).toNat ≤ 32 ∧ (s.sr a).toNat < 2 ^ (32 - (t.sr d).toNat) ∧
      ((t.sr d).toNat < 32 → (s.sr a).getLsbD (31 - (t.sr d).toNat) = true) ∧ scalarEnd s t 4 [d] := by
  obtain ⟨t, ht, hd, hend⟩ := exec_put_eq BitVec.toNat (i := .sclz d a) (s := s) rfl (toNat_ofNat_clz32 (s.sr a))
  refine ⟨t, ht, ?_⟩
  rw [hd]
  exact ⟨clz32_le _, toNat_lt_of_clz32 _, getLsbD_of_clz32_lt, hend⟩

/-- Settles O1: each word ends by writing one register, the value it writes is the table's, and its row of the decoder gives it back. -/
theorem scalarRegisterWords : Obligations.ScalarRegisterWords := by
  intro s d a b
  obtain ⟨dAdd, dSub, dMul, dMulh, dMulhN, dMin, dMax, dMinN, dMaxN, dAnd, dOr, dXor, dShl, dShr, dSra⟩ := decodeScalar_threeRegisters d a b
  obtain ⟨dMov, dClz, dPopc⟩ := decodeScalar_twoRegisters d a
  exact ⟨exec_put_eq BitVec.toNat rfl (BitVec.toNat_add ..),
    exec_put_eq (fun v => (v.toNat + (s.sr b).toNat) % 2 ^ 32) rfl (toNat_sub_add_mod ..),
    exec_put_eq BitVec.toNat rfl (BitVec.toNat_mul ..),
    exec_put_eq BitVec.toInt rfl (toInt_mulHigh_signed ..),
    exec_put_eq BitVec.toNat rfl (toNat_mulHigh_unsigned ..),
    exec_put_eq BitVec.toInt rfl (apply_ite_lt_eq_min _ BitVec.slt_iff_toInt_lt),
    exec_put_eq BitVec.toInt rfl (apply_ite_lt_eq_max _ BitVec.slt_iff_toInt_lt),
    exec_put_eq BitVec.toNat rfl (apply_ite_lt_eq_min _ BitVec.ult_iff_toNat_lt),
    exec_put_eq BitVec.toNat rfl (apply_ite_lt_eq_max _ BitVec.ult_iff_toNat_lt),
    exec_put_eq BitVec.toNat rfl (toNat_shiftLeft_shiftCount ..),
    exec_put_eq BitVec.toNat rfl (toNat_shiftRight_shiftCount ..),
    exec_put_eq BitVec.toInt rfl (toInt_sshiftRight_shiftCount ..),
    exec_put (P := fun v => ∀ k, v.getLsbD k = ((s.sr a).getLsbD k && (s.sr b).getLsbD k)) rfl fun _ => BitVec.getLsbD_and,
    exec_put (P := fun v => ∀ k, v.getLsbD k = ((s.sr a).getLsbD k || (s.sr b).getLsbD k)) rfl fun _ => BitVec.getLsbD_or,
    exec_put (P := fun v => ∀ k, v.getLsbD k = ((s.sr a).getLsbD k ^^ (s.sr b).getLsbD k)) rfl fun _ => BitVec.getLsbD_xor,
    scalarPut_end s 4 d (s.sr a),
    exec_sclz d a s,
    exec_put_eq BitVec.toNat rfl (toNat_ofNat_popCount ..),
    dAdd, dSub, dMul, dMulh, dMulhN, dMin, dMax, dMinN, dMaxN, dAnd, dOr, dXor, dShl, dShr, dSra, dMov, dClz, dPopc⟩

/-- Settles O2: each compare ends by writing one q predicate, and each select by writing one register. -/
theorem scalarComparesAndSelects : Obligations.ScalarComparesAndSelects := by
  intro s q d a b k
  obtain ⟨dEq, dNe, dLt, dLe, dLtN, dLeN⟩ := decodeScalar_compares q a b
  obtain ⟨dLow, dHigh⟩ := decodeScalar_selects d a b k
  exact ⟨exec_putQ rfl (beq_eq_decide_toNat ..),
    exec_putQ rfl (bne_eq_decide_toNat ..),
    exec_putQ rfl BitVec.slt_eq_decide,
    exec_putQ rfl BitVec.sle_eq_decide,
    exec_putQ rfl BitVec.ult_eq_decide,
    exec_putQ rfl BitVec.ule_eq_decide,
    exec_put_eq id (exec_sselQ0Q3 d a b k s) rfl,
    exec_put_eq id (exec_sselQ4Q7 d a b k s) rfl,
    dEq, dNe, dLt, dLe, dLtN, dLeN, dLow, dHigh, fun x hx => decodeScalar_compare_reserved hx q a b k⟩

/-- Settles O3: an address sum adds an integer to a pair modulo 2^64, a bit field is said bit by bit, and the decoder refuses odd pairs alone. -/
theorem scalarAddressSumsAndBitFields : Obligations.ScalarAddressSumsAndBitFields := by
  intro s d a b o w word
  have ho : fieldOffset (s.sr b) = o := fieldOffset_eq_mod _
  have hw : fieldWidth (s.sr b) = w := fieldWidth_eq_min _
  obtain ⟨dSum, dMad⟩ := decodeScalar_addressSums d a b
  rw [← ho, ← hw]
  refine ⟨?sum, ?mad, exec_put_eq BitVec.toNat rfl (toNat_fieldGet_unsigned ..), ?signed, ?insert, fun hd ha => ?even, fun h => ?odd,
    decodeScalar_bitFields d a b⟩
  case sum =>
    exact exec_put64 (P := fun v => ((v.toNat : Int) - (s.sr64 a).toNat - (s.sr b).toInt) % 2 ^ 64 = 0) rfl (emod_toNat_add_ofInt ..)
  case mad =>
    refine exec_put64 (P := fun v => ((v.toNat : Int) - (s.sr64 a).toNat - (s.sr b).toInt * (s.sr d).toInt) % 2 ^ 64 = 0) rfl ?_
    rw [signExtend_mul_signExtend]
    exact emod_toNat_add_ofInt ..
  case signed =>
    obtain ⟨t, ht, hd, hend⟩ := scalarPut_end s 4 d (fieldGet true (s.sr a) (s.sr b))
    exact ⟨t, ht, fun k hk => hd ▸ getLsbD_fieldGet_signed _ _ hk, hend⟩
  case insert =>
    obtain ⟨t, ht, hd, hend⟩ := scalarPut_end s 4 d (fieldPut (s.sr d) (s.sr a) (s.sr b))
    exact ⟨t, ht, fun k hk => hd ▸ getLsbD_fieldPut _ _ _ hk, hend⟩
  case even =>
    have pairs := groupFault_pairs_even hd ha
    exact ⟨dSum.trans (finishScalar_ok BitVec.and_zero pairs), dMad.trans (finishScalar_ok BitVec.and_zero pairs)⟩
  case odd =>
    have pairs := groupFault_pairs_odd h
    exact ⟨dSum.trans (finishScalar_fault BitVec.and_zero pairs), dMad.trans (finishScalar_fault BitVec.and_zero pairs)⟩

end Sys2Proof.ScalarWords
end

section
/-! PROOFS. Integers reduced to a format: what a code of an integer format reads as, how it is wrapped and saturated, and how a destination extends it
(spec/04 R74, R75, spec/05 R94). A value in the format's range is the only one there of its remainder modulo 2^w, and every fact below turns on that. -/

namespace Sys2Proof.IntegerFormats

open Sys2Proof Sys2Proof.Machine

/-! ## Signed fields and wrapped numbers -/

theorem signed_eq_toInt (n v : Nat) : signed n v = (BitVec.ofNat n v).toInt := by
  rw [signed, BitVec.toInt_eq_toNat_cond, BitVec.toNat_ofNat]
  cases n with
  | zero => simp [Nat.mod_one]
  | succ n =>
    have half : v % 2 ^ (n + 1) < 2 ^ n ↔ 2 * (v % 2 ^ (n + 1)) < 2 ^ (n + 1) := by omega
    simp [half]

theorem signed_emod (n v : Nat) : signed n v % 2 ^ n = v % 2 ^ n := by
  rw [signed]
  split <;> simp

theorem cast_wrap (n : Nat) (x : Int) : (wrap n x : Int) = x % 2 ^ n :=
  Int.toNat_of_nonneg (Int.emod_nonneg x (by positivity))

theorem ofNat_wrap (n : Nat) (x : Int) : BitVec.ofNat n (wrap n x) = BitVec.ofInt n x := by
  rw [← BitVec.ofInt_natCast, cast_wrap]
  refine BitVec.eq_of_toInt_eq ?_
  rw [BitVec.toInt_ofInt, BitVec.toInt_ofInt]
  exact_mod_cast Int.emod_bmod x (2 ^ n)

/-- A signed field in a wider register, sign-extended, keeps its value. -/
theorem signed_wrap_signed {m n : Nat} (h : m ≤ n) (v : Nat) : signed n (wrap n (signed m v)) = signed m v := by
  rw [signed_eq_toInt n, ofNat_wrap, signed_eq_toInt m]
  exact BitVec.toInt_signExtend_of_le h

/-! ## The range of a format, and the values that its codes read as -/

theorem fmtBits_pos (code : Nat) : 0 < fmtBits code := by
  unfold fmtBits
  split <;> decide

theorem two_pow_fmtBits (code : Nat) : (2 : Int) ^ fmtBits code = 2 * 2 ^ (fmtBits code - 1) :=
  (mul_pow_sub_one (fmtBits_pos code).ne' 2).symm

/-- A format's range holds 2^w values. -/
theorem intMax_eq (code : Nat) : intMax code = intMin code + 2 ^ fmtBits code - 1 := by
  have := two_pow_fmtBits code
  unfold intMin intMax
  split <;> omega

theorem intMin_le_intMax (code : Nat) : intMin code ≤ intMax code := by
  have : (0 : Int) < 2 ^ fmtBits code := by positivity
  have := intMax_eq code
  omega

/-- Two values in a format's range that agree modulo 2^w are equal. -/
theorem eq_of_emod_eq_of_mem_range {code : Nat} {x y : Int} (hx : intMin code ≤ x ∧ x ≤ intMax code) (hy : intMin code ≤ y ∧ y ≤ intMax code)
    (h : x % 2 ^ fmtBits code = y % 2 ^ fmtBits code) : x = y := by
  have width := intMax_eq code
  obtain ⟨hx₁, hx₂⟩ := hx
  obtain ⟨hy₁, hy₂⟩ := hy
  have close : |x - y| < 2 ^ fmtBits code := abs_lt.mpr ⟨by omega, by omega⟩
  exact sub_eq_zero.mp (Int.eq_zero_of_abs_lt_dvd (Int.ModEq.dvd h.symm) close)

theorem intVal_mem_range (t : BitVec 4) (v : Nat) : intMin t.toNat ≤ intVal t v ∧ intVal t v ≤ intMax t.toNat := by
  unfold intVal intMin intMax
  split
  · rw [signed_eq_toInt]
    exact ⟨BitVec.le_toInt _, BitVec.toInt_le⟩
  · have below : v % 2 ^ fmtBits t.toNat < 2 ^ fmtBits t.toNat := Nat.mod_lt v (by positivity)
    exact ⟨Int.natCast_nonneg _, Int.le_sub_one_of_lt (by exact_mod_cast below)⟩

theorem intVal_emod (t : BitVec 4) (v : Nat) : intVal t v % 2 ^ fmtBits t.toNat = v % 2 ^ fmtBits t.toNat := by
  unfold intVal
  split
  · exact signed_emod ..
  · simp

/-! ## The destination's extension -/

theorem fmtExtend_emod (code v : Nat) : (fmtExtend code v : Int) % 2 ^ fmtBits code = v % 2 ^ fmtBits code := by
  unfold fmtExtend
  split
  case isTrue h =>
    obtain ⟨-, narrow⟩ := h
    rw [cast_wrap, Int.emod_emod_of_dvd _ (pow_dvd_pow 2 narrow.le), signed_emod]
  case isFalse => rfl

theorem intVal_fmtExtend (t : BitVec 4) (v : Nat) : intVal t (fmtExtend t.toNat v) = intVal t v := by
  refine eq_of_emod_eq_of_mem_range (intVal_mem_range ..) (intVal_mem_range ..) ?_
  rw [intVal_emod, intVal_emod, fmtExtend_emod]

theorem signed_fmtExtend {t : BitVec 4} (h : fmtSigned t.toNat = true) (v : Nat) :
    signed (max (fmtBits t.toNat) 32) (fmtExtend t.toNat v) = intVal t v := by
  rcases lt_or_ge (fmtBits t.toNat) 32 with narrow | wide
  · rw [max_eq_right narrow.le, fmtExtend, if_pos ⟨h, narrow⟩, signed_wrap_signed narrow.le, intVal, if_pos h]
  · rw [max_eq_left wide, fmtExtend, if_neg fun hn => hn.2.not_ge wide, intVal, if_pos h]

theorem fmtExtend_of_unsigned {code : Nat} (h : ¬ fmtSigned code = true) (v : Nat) : fmtExtend code v = v :=
  if_neg fun hs => h hs.1

/-! ## Wrapped and saturated results -/

theorem satInt_eq_max_min (code : Nat) (x : Int) : satInt code x = max (intMin code) (min (intMax code) x) := by
  have := intMin_le_intMax code
  unfold satInt
  split_ifs <;> omega

theorem satInt_mem_range (code : Nat) (x : Int) : intMin code ≤ satInt code x ∧ satInt code x ≤ intMax code := by
  rw [satInt_eq_max_min]
  exact ⟨le_max_left .., max_le (intMin_le_intMax code) (min_le_left ..)⟩

theorem intVal_intResult_emod (t : BitVec 4) (sat : Bool) (x : Int) :
    intVal t (intResult t sat x) % 2 ^ fmtBits t.toNat = (if sat then satInt t.toNat x else x) % 2 ^ fmtBits t.toNat := by
  rw [intResult, intVal_fmtExtend, intVal_emod, intBits, cast_wrap, Int.emod_emod]

theorem intVal_wrapped_sub_emod (t : BitVec 4) (x : Int) : (intVal t (intResult t false x) - x) % 2 ^ fmtBits t.toNat = 0 :=
  Int.emod_eq_emod_iff_emod_sub_eq_zero.mp (intVal_intResult_emod t false x)

theorem intVal_saturated (t : BitVec 4) (x : Int) : intVal t (intResult t true x) = max (intMin t.toNat) (min (intMax t.toNat) x) :=
  (eq_of_emod_eq_of_mem_range (intVal_mem_range ..) (satInt_mem_range ..) (intVal_intResult_emod t true x)).trans (satInt_eq_max_min ..)

theorem signed_intResult {t : BitVec 4} (h : fmtSigned t.toNat = true) (sat : Bool) (x : Int) :
    signed (max (fmtBits t.toNat) 32) (intResult t sat x) = intVal t (intResult t sat x) := by
  rw [intResult, signed_fmtExtend h, intVal_fmtExtend]

theorem intResult_of_unsigned {t : BitVec 4} (h : ¬ fmtSigned t.toNat = true) (sat : Bool) (x : Int) :
    (intResult t sat x : Int) = intVal t (intResult t sat x) := by
  rw [intVal, if_neg h, intResult, fmtExtend_of_unsigned h, intBits, Int.natCast_mod, cast_wrap]
  push_cast
  rw [Int.emod_emod]

/-- The signed ones of the eight integer types are the odd ones. -/
theorem fmtSigned_iff_odd {code : Nat} (h : code < 8) : fmtSigned code = true ↔ code % 2 = 1 := by
  revert code
  decide

/-- Settles O12: a result is the one value of the type's range that agrees with the exact integer, or with the integer clamped, modulo 2^w. -/
theorem integerResultsWrapOrSaturate : Obligations.IntegerResultsWrapOrSaturate := by
  intro t x ht w lo hi
  have odd := fmtSigned_iff_odd ht
  have hlo : intMin t.toNat = lo := if_congr odd rfl rfl
  have hhi : intMax t.toNat = hi := if_congr odd rfl rfl
  obtain ⟨low, high⟩ := intVal_mem_range t (intResult t false x)
  rw [← hlo, ← hhi]
  refine ⟨low, high, intVal_wrapped_sub_emod t x, intVal_saturated t x, fun sat => ?_⟩
  split
  case isTrue h => exact signed_intResult (odd.mpr h) sat x
  case isFalse h => exact intResult_of_unsigned (mt odd.mp h) sat x

end Sys2Proof.IntegerFormats
end
